-- ==== Sys2Proof/Word.lean ====
section
/-! DEFINITION. The words of the Quire: bytes, global addresses, and the sparse map type that holds numbered structures.
Bit 0 is the least significant bit and every memory and record is little-endian (R5). -/

namespace Sys2Proof

abbrev Byte := BitVec 8
abbrev W32 := BitVec 32
abbrev W64 := BitVec 64
/-- One 64-byte line of region memory or HBM sector (R167). -/
abbrev Line := BitVec 512
/-- The 96-byte body of a command, bits [767:0] (R356). -/
abbrev Body := BitVec 768
/-- A claim ticket (R257). -/
abbrev Ticket := BitVec 72

/-- A sparse map from numbers, keys strictly rising: the form in which every numbered structure is held
(plain data, comparable). A key that is not listed reads as the map's own default. -/
abbrev AMap (α : Type) := List (Nat × α)

/-- Bits [hi:lo] of a number, as R5 writes a field. -/
def field (w hi lo : Nat) : Nat := (w >>> lo) % 2 ^ (hi + 1 - lo)

/-- Bit i of a number. -/
def bitOf (w i : Nat) : Bool := (w >>> i) % 2 == 1

/-- `w` with bits [hi:lo] replaced by `v`. -/
def setField (w hi lo v : Nat) : Nat :=
  (w >>> (hi + 1)) <<< (hi + 1) + (v % 2 ^ (hi + 1 - lo)) <<< lo + w % 2 ^ lo

def ceilDiv (a b : Nat) : Nat := (a + b - 1) / b

def roundUp (a b : Nat) : Nat := ceilDiv a b * b

/-- A field of `bits` bits read as two's complement. -/
def signed (bits w : Nat) : Int :=
  if w % 2 ^ bits < 2 ^ (bits - 1) then (w % 2 ^ bits : Nat) else ((w % 2 ^ bits : Nat) : Int) - 2 ^ bits

/-- The two's complement field of `bits` bits that holds `i`. -/
def unsigned (bits : Nat) (i : Int) : Nat := (i % (2 ^ bits : Nat)).toNat

end Sys2Proof
end

