-- ==== Sys2Proof/Syntax.lean ====
section
/-! DEFINITION. The commands of the Quire: `Instr`, one constructor per row of spec/opcode_table.json, and the types of
their operands. A command that a ring entry carries names the entry by its package ring number `r` (R350) and its position
`p` since enable (R351); its body is the one that ENTRY_TAKE fetched. A physical event carries what happened as an operand. -/

namespace Sys2Proof

/-- A requester of a lock cell or queue control block, with the partition of a host's function (R297, R347). -/
inductive Requester where
  | core (n : Nat)
  | host (port part : Nat)
  | dmp
  deriving DecidableEq, Repr

/-- Where a bank operation comes from: a record of the op at (ring, position) with its claim ticket, or the window request
that was accepted under the number `id` (R321). -/
inductive Src where
  | eng (r p : Nat) (ticket : Option Ticket)
  | win (id : Nat)
  deriving DecidableEq, Repr

/-- The gated functions of R387. -/
inductive FnKind where
  | core | region | stack | link | host
  deriving DecidableEq, Repr

/-- The three channels that carry the object access protocol (R372, R380). -/
inductive Chan where
  | can | mb0 | mb1
  deriving DecidableEq, Repr

/-- The lanes of a retrain (R307, R412): the lane it names, and the lanes the far end has removed, by bit. -/
structure Retrain where
  named : Option Nat := none
  far : BitVec 8 := 0
  deriving DecidableEq, Repr

/-- The arbiters of R333. -/
inductive Arb where
  | region (rr : Nat)
  | egress (pp : Nat)
  deriving DecidableEq, Repr

/-- The kinds of traffic that have a slack of their own (R342). -/
inductive Traffic where
  | demand | outbound | fetchAhead | dma
  deriving DecidableEq, Repr

/-- A message of the Porinot link: the header of R314 and its LEN × 16 bytes of data. The record of a WR carries the mask of the nibbles it
writes (R29, R167), bit i for nibble i of its data; none: all of them. Where the mask travels the spec does not say (DESIGN CHOICE, log 16). -/
structure Msg where
  hdr : BitVec 256
  data : List Byte
  mask : Option Nat := none
  deriving DecidableEq, Repr

/-- A value that a fault of the array put in place of the one it computed, at a row and column of a slot. -/
structure Upset where
  row : Nat
  col : Nat
  value : BitVec 32
  deriving DecidableEq, Repr

/-- Why a core is fenced (R406). -/
inductive FenceCause where
  | verdict | failures | beat | sequencerParity | selfTest | dieFence
  deriving DecidableEq, Repr

/-- A sensor reading in thousandths of a degree Celsius (R433). -/
inductive Reading where
  | region (rr : Nat) (sensor : Nat) (t : Int)
  | die (d : Nat) (sensor : Nat) (t : Int)
  | stack (ss : Nat) (t : Int)
  | alwaysOn (t : Int)
  deriving DecidableEq, Repr

/-- The filtered inputs of R441, in the order of 0x4401.00. -/
inductive Pin where
  | sysReset | perst0 | perst1 | brake
  deriving DecidableEq, Repr

/-- The clock references of R432. -/
inductive Ref where
  | a | b | link
  deriving DecidableEq, Repr

inductive Instr where
  -- descriptors (03)
  | tdCreate (r p : Nat)
  | tdDestroy (r p : Nat)
  | tdDestroyDone (r p : Nat)
  -- ops (05 to 09, 15)
  | matmul (r p : Nat)
  | barometer (r p : Nat)
  | vchain (r p core : Nat)
  | gather (r p core : Nat)
  | scatter (r p core : Nat)
  | scatterAdd (r p core : Nat)
  | copy (r p : Nat)
  | compressStore (r p core : Nat)
  -- stream queues (12)
  | queuePush (r p : Nat)
  | queuePop (r p : Nat)
  | queueMark (r p : Nat)
  | queueRewind (r p : Nat)
  | queueRelease (r p : Nat)
  -- grid, signals (11, 15)
  | workGrid (r p : Nat)
  | signal (r p : Nat)
  | wait (r p : Nat)
  | waitPoll (r p : Nat)
  | waitTimeout (r p : Nat)
  -- windows (13)
  | windowOpen (r p : Nat)
  | windowClose (r p : Nat)
  | windowCloseDone (die slot : Nat)
  | slotWrite (r p : Nat)
  | slotRewriteApply (die slot : Nat)
  | slotRewriteTimeout (die slot : Nat)
  -- Almanac (10)
  | almanacSave (r p : Nat)
  | almanacLoad (r p : Nat)
  -- rings (15)
  | cmdDb (r width : Nat) (v : BitVec 32)
  | cplDb (r width : Nat) (v : BitVec 32)
  | ringEnable (r : Nat) (cb : BitVec 512)
  | ringDisable (r : Nat) (cb : BitVec 512)
  | ringDrainDone (r : Nat)
  | entryTake (r : Nat)
  | commandStart (r p : Nat)
  | commandComplete (r p : Nat)
  | almanacSeed (r p : Nat)
  | accRangeAlloc (core : Nat) (r p : Nat)
  | stagingShareAlloc (core : Nat) (r p : Nat)
  | workCounterAlloc (r p g : Nat)
  -- tiles (05, 07, 11)
  | tileClaim (core : Nat) (r p : Nat)
  | stealHoldExpiry (core : Nat) (r p : Nat)
  | kStep (core unit : Nat) (readFail : Option Nat)
  | pacingWindow (core activity : Nat)
  | tileSwap (core unit : Nat)
  | tileDrain (core : Nat) (upsets : List Upset)
  | tileVerdict (core : Nat) (parity : Bool)
  | outboundSend (core : Nat) (recordFail : Bool)
  -- bank engines and scatter accumulators (08)
  | bankRead (src : Src) (addr : Nat)
  | bankWrite (src : Src) (addr : Nat) (data : Line) (nibbles : BitVec 128)
  | bankAdd (src : Src) (addr : Nat) (fmt : Nat) (lanes : BitVec 32) (data : Line)
  | bankMaxMin (src : Src) (addr : Nat) (isMax : Bool) (fmt : Nat) (lanes : BitVec 16) (data : Line)
  | bankMaxMinIndex (src : Src) (addr : Nat) (isMax : Bool) (fmt : Nat) (lanes : BitVec 8) (data : Line)
  | bankFetchAdd (src : Src) (addr : Nat) (amount : W64)
  | sacRecord (src : Src) (ctxa : Nat) (key split : Nat) (data : Line)
  | sacMerge (region ctx : Nat)
  -- queue control, locks, scratchpad (12)
  | queueEnable (who : Requester) (die q : Nat) (cb : BitVec 512)
  | queueDisable (who : Requester) (die q : Nat) (cb : BitVec 512)
  | staleTailNotice (die q : Nat)
  | lockAcquire (who : Requester) (region cell : Nat)
  | lockTest (who : Requester) (region cell : Nat)
  | lockRelease (who : Requester) (region cell : Nat)
  | lockMisuseWrite (who : Requester) (region cell : Nat)
  | scratchpadSplitApply (core : Nat)
  -- links (13)
  | flitReceive (pp : Nat) (fecOk : Bool) (corrected : Nat) (flit : BitVec 2048)
  | linkRetrain (pp : Nat) (lane : Retrain) (ok : Bool)
  | laneLossOfLock (pp lane : Nat)
  | laneFecWindow (pp lane corrected : Nat)
  | linkRd (m : Msg)
  | linkWr (m : Msg)
  | linkAt (m : Msg)
  | linkKp (m : Msg)
  | rdata (m : Msg)
  | wack (m : Msg)
  | adata (m : Msg)
  | refuse (m : Msg)
  | mgmt (m : Msg)
  | transitMessage (pp : Nat) (m : Msg)
  | remoteTimeout (tag : Nat)
  -- arbiters (14)
  | arbiterRequest (arb : Arb) (cycles req : Nat) (kind : Traffic) (bytes : Nat)
  | arbiterCountersClear (die : Nat)
  -- management (16)
  | oapRead (ch : Chan) (frame : List Byte)
  | oapWrite (ch : Chan) (frame : List Byte)
  | oapAbort (ch : Chan) (frame : List Byte)
  | oapTransferTimeout (ch : Chan)
  | heartbeat
  | faultRingClear (value : W32)
  | registerWrite (index sub : Nat) (value : List Byte)
  | partitionConfigWrite (index sub : Nat) (value : List Byte)
  | functionEnableWrite (kind : FnKind) (n : Nat) (on : Bool)
  | functionStartDone (kind : FnKind) (n : Nat) (ok : Bool)
  | functionStopDone (kind : FnKind) (n : Nat)
  | hbmUnitClearDone (die unit : Nat)
  | otpCommit (value : Nat)
  | otpCommitDone (readback : Bool)
  | firmwareImageWrite (offset total : Nat) (bytes : List Byte)
  | fwVerify
  | fwVerifyDone (flash : Option (List Byte))
  | fwActivate
  | dmpRestartDone (die : Nat)
  | fwConfirm
  | fwRevert
  | trialTimeout
  | dmpReturnTimeout (die : Nat)
  | warmReset
  | debugChallenge
  | debugToken (token : BitVec 1160) (sig : BitVec 768)
  -- faults (17)
  | coreFence (phys : Nat) (cause : FenceCause)
  | progressBeatTimeout (phys : Nat)
  | fenceRetest (phys : Nat) (pass : Bool)
  | mirrorRepair (bad good : Nat) (verify : Bool)
  | retireCopyDone (stack : Nat)
  | hbmRetrain (stack pc : Nat) (ok : Bool)
  | d2dModuleDisable (pair module : Nat)
  | phaseFailure (rail : Nat)
  | dmpHeartbeat (die : Nat)
  | leadTakeover
  -- power, clocks, thermal (18)
  | inputOutOfRange
  | inputRestored
  | powerSample (millivolts milliamps : Nat)
  | powerLoopStep
  | powerBrakeAssert
  | powerBrakeRelease
  | brakeReleaseStep
  | thermalSample (rs : List Reading)
  | thermalLoopStep
  | adaptiveVoltageStep (rr : Nat) (up : Bool)
  | droopStretch (rr cycles : Nat)
  | droopStretchEnd (rr : Nat)
  | referenceLoss (ref : Ref)
  | referenceHoldoverExpiry
  -- start-up, pins, debug (19)
  | inputPowerApplied
  | sysResetAssert
  | sysResetRelease (nodeId : Nat)
  | bootImageCheck (a b : Option (List Byte))
  | startupComplete
  | perstAssert (port : Nat)
  | perstRelease (port : Nat)
  | functionLevelReset (port part : Nat)
  | inputStorm (pin : Pin)
  | stormQuietEnd (pin : Pin) (level : Bool)
  | jtagInstruction (die : Nat) (ir : BitVec 8)
  | d2dFlitReceive (pair : Nat) (toHigh : Bool) (crcOk : Bool) (seq : Nat) (payload : List Byte)
  | onDieNetworkTransfer (die : Nat) (parityOk : Bool)
  | oapUnknownCommand (ch : Chan) (frame : List Byte)
  | queueWindowCopyDone (rr : Nat)
  | warmResetRelease
  | queueControlBlockWrite (who : Requester) (die q : Nat) (cb : BitVec 512)
  deriving DecidableEq, Repr

end Sys2Proof
end

