-- ==== Sys2Proof/Config.lean ====
section
/-! DEFINITION. The free values: what the spec leaves open. Each is a constant with no body, so that nothing can
evaluate it and a claim holds for every value of it. The argument `n` is the model's own counter `State.freeCtr`. -/

namespace Sys2Proof

/-- The result, in FP32 bits, of the transcendental stage `op` on `x` under ROUND `rnd` where the accuracy table of R218 gives no special
result: "the result of a transcendental stage is fixed ... the algorithm is not published". It counts where it meets the table's bound. -/
opaque Config.transcendental (op : Nat) (x : BitVec 32) (rnd : Nat) : BitVec 32

/-- The value, in the working format's bits, of a CVT stage into a scaled format (R200): a scaled conversion works on blocks of 32
elements (R33), and the spec states no result for one element. -/
opaque Config.scaledCvt (fmt mode : Nat) (x : BitVec 32) : BitVec 32

/-- Whether that conversion saturates (R40), which follows from the same unstated result. -/
opaque Config.scaledCvtSat (fmt mode : Nat) (x : BitVec 32) : Bool

/-- One free choice of two: the old or the new value of an overlapping byte (R360), which of two duplicate slices an element
keeps (R175). -/
opaque Config.freeBit (n : Nat) : Bool

/-- A free number below `k` when used as `Config.freePick n k % k`. -/
opaque Config.freePick (n k : Nat) : Nat

/-- A free byte: a byte a failed fill did not write (R280). -/
opaque Config.freeByte (n : Nat) : BitVec 8

/-- A debug challenge nonce: "each read returns a new challenge: a 32-byte nonce" (R451). -/
opaque Config.freeNonce (n : Nat) : BitVec 256

/-- The device identity key's signature over nonce and serial (R451): FIPS 186-5 with a key no interface shows. -/
opaque Config.identitySign (nonce : BitVec 256) (serial : BitVec 64) : BitVec 768

/-- The SHA-384 hashes of public keys that OTP's image-key and debug-key slots hold (R448): fused values, which the spec does not give. -/
opaque Config.imageKeyHash (slot : Nat) : BitVec 384
opaque Config.debugKeyHash (slot : Nat) : BitVec 384

/-- The number that stands for a partition key the root of trust generates (R272, R386). -/
opaque Config.freeKey (n : Nat) : Nat

/-- What a core takes the destination of a scatter context in another package to be: a format, SEGS and the rows of R182. The spec does
not say how a core learns them. -/
opaque Config.remoteDest (ctxa : BitVec 64) : Nat × Nat × Nat

/-- ARG [183:176] of an AT message: the codes of the operation of R167 and of the lane format, which R314 names and does not
number. `op` is 2 for an add, 3 a maximum, 4 a minimum, 5 and 6 those with index, 7 a fetch-add. -/
opaque Config.atCode (op fmt : Nat) : BitVec 8

/-- What an 8-bit JTAG instruction code stands for (R450), whose codes the spec does not number: 0 IDCODE, 1 SAMPLE/PRELOAD, 2 EXTEST, 3 CLAMP,
4 HIGHZ, any other number another instruction. All ones is BYPASS. -/
opaque Config.jtagCode (ir : BitVec 8) : Nat

/-- The bits that a die's TAP captures in a data register other than IDCODE and bypass, the boundary register among them, in the order in which
they leave: the spec gives neither their number nor their values (R450). -/
opaque Config.jtagData (n die : Nat) (ir : BitVec 8) : List Bool

/-- The classes of R450: 0 BYPASS, IDCODE or SAMPLE/PRELOAD, 1 EXTEST, CLAMP or HIGHZ, 2 another instruction. -/
def Config.jtagClass (ir : BitVec 8) : Nat :=
  if ir == 0xFF then 0
  else match Config.jtagCode ir with
  | 0 | 1 => 0
  | 2 | 3 | 4 => 1
  | _ => 2

end Sys2Proof
end

