-- ==== Sys2Proof/Machine/Num.lean ====
section
/-! DEFINITION. Element formats and arithmetic (02_number_formats.md): the exact value of an element, the rounding of an exact
value into a format, and the defined result of every special case. Element codes are numbers; `Val` is what a code stands for. -/

namespace Sys2Proof.Machine

/-- The exact value of an element: a NaN with its sign and its payload at FP32's 23 mantissa bits (R41), an infinity, or
`(-1)^neg * m * 2^e`, so that the two zeros differ. -/
inductive Val where
  | nan (neg : Bool) (pay : Nat)
  | inf (neg : Bool)
  | fin (neg : Bool) (m : Nat) (e : Int)
  deriving DecidableEq, Repr

/-- How a floating-point format ends at the top (R25, R144). -/
inductive Top where
  | ieee | noSpecials | e4m3 | e6m9
  deriving DecidableEq, Repr

inductive Fmt where
  | int (bits : Nat)
  | float (eb mb bias : Nat) (top : Top)
  | e8m0
  deriving DecidableEq, Repr

def fp32 : Fmt := .float 8 23 127 .ieee
def fp16 : Fmt := .float 5 10 15 .ieee
def bf16 : Fmt := .float 8 7 127 .ieee
/-- The chunk format of R144. -/
def e6m9 : Fmt := .float 6 9 31 .e6m9

/-- The element format of a format code (R22, R25); a scaled code has its element's. -/
def fmtOf (code : Nat) : Option Fmt :=
  match code with
  | 0x01 => some (.int 4)
  | 0x02 => some (.int 8)
  | 0x03 => some (.int 16)
  | 0x04 => some (.int 32)
  | 0x10 => some (.float 2 1 1 .noSpecials)
  | 0x11 => some (.float 4 3 7 .e4m3)
  | 0x12 => some (.float 5 2 15 .ieee)
  | 0x13 => some fp16
  | 0x14 => some bf16
  | 0x15 => some fp32
  | 0x21 => some (.int 4)
  | 0x22 => some (.int 8)
  | 0x30 => some (.float 2 1 1 .noSpecials)
  | 0x31 => some (.float 4 3 7 .e4m3)
  | 0x32 => some (.float 5 2 15 .ieee)
  | 0x40 => some .e8m0
  | _ => none

/-- The format of a known code; the default is never met, because TD_CREATE refuses unknown codes (R23). -/
def fmtD (code : Nat) : Fmt := (fmtOf code).getD (.int 8)

def isScaled (code : Nat) : Bool := code == 0x21 || code == 0x22 || code == 0x30 || code == 0x31 || code == 0x32

/-- Formats whose tensors take the integer column of R60 and the integer rules: unscaled integers. -/
def isInt (code : Nat) : Bool := code == 0x01 || code == 0x02 || code == 0x03 || code == 0x04

/-- Element bits of a format code (R22). -/
def elemBits (code : Nat) : Nat :=
  match code with
  | 0x01 | 0x10 | 0x21 | 0x30 => 4
  | 0x03 | 0x13 | 0x14 => 16
  | 0x04 | 0x15 => 32
  | _ => 8

def Fmt.bits : Fmt → Nat
  | .int b => b
  | .float eb mb _ _ => 1 + eb + mb
  | .e8m0 => 8

/-- The canonical quiet NaN (R41): positive, only the quiet bit of the mantissa set. -/
def qnan : Val := .nan false 0x400000

def Val.zero : Val := .fin false 0 0

def Val.ofInt (i : Int) : Val := .fin (decide (i < 0)) i.natAbs 0

/-- The value of an element code (R24, R25, R26, R28). -/
def decodeVal (f : Fmt) (w : Nat) : Val :=
  match f with
  | .int b => Val.ofInt (signed b w)
  | .e8m0 => if w % 256 == 255 then qnan else .fin false 1 ((w % 256 : Nat) - 127)
  | .float eb mb bias top =>
    let neg := bitOf w (eb + mb)
    let ex := field w (eb + mb - 1) mb
    let ma := w % 2 ^ mb
    let special : Option Val :=
      match top with
      | .ieee =>
        if ex == 2 ^ eb - 1 then some (if ma == 0 then .inf neg else .nan neg (ma <<< (23 - mb))) else none
      | .noSpecials => none
      | .e4m3 => if ex == 15 && ma == 7 then some (.nan neg 0x700000) else none
      | .e6m9 => if ex == 63 && ma == 0x1FF then some (.nan neg 0x7FC000) else none
    match special with
    | some v => v
    | none =>
      if ex == 0 then .fin neg ma (1 - (bias : Int) - mb)
      else .fin neg (2 ^ mb + ma) ((ex : Int) - bias - mb)

def pow2 (i : Int) : Nat := 2 ^ i.toNat

/-- `num / den * 2^e` as a fraction in units of `2^q`. -/
def inUnits (num den : Nat) (e q : Int) : Nat × Nat :=
  if q ≤ e then (num * pow2 (e - q), den) else (num, den * pow2 (q - e))

/-- The integer to which `num / den * 2^e`, in units of `2^q`, rounds under a mode of R35; `r` is the random value of a
stochastic rounding (R37), whose `f` is the 16 bits below the last. -/
def roundAt (mode : Nat) (neg : Bool) (r num den : Nat) (e q : Int) : Nat :=
  let ab := inUnits num den e q
  let n := ab.1 / ab.2
  let rem := ab.1 % ab.2
  match mode with
  | 0 => if 2 * rem > ab.2 || (2 * rem == ab.2 && n % 2 == 1) then n + 1 else n
  | 1 => n
  | 2 => if neg && rem != 0 then n + 1 else n
  | 3 => if !neg && rem != 0 then n + 1 else n
  | _ => if (rem * 65536) / ab.2 + r ≥ 65536 then n + 1 else n

/-- floor(log2(num / den)) for a positive fraction. -/
def floorLog2 (num den : Nat) : Int :=
  let k : Int := (Nat.log2 num : Int) - Nat.log2 den
  let ab := inUnits num den 0 k
  if ab.2 ≤ ab.1 then k else k - 1

/-- The largest finite code of a float format, without its sign. -/
def maxCode (eb mb : Nat) : Top → Nat
  | .ieee => (2 ^ eb - 1) * 2 ^ mb - 1
  | .noSpecials => 2 ^ (eb + mb) - 1
  | .e4m3 => 0x7E
  | .e6m9 => 0x7FFE

/-- A magnitude rounded into a float format as if its exponents had no end: the code without its sign. -/
def roundMag (eb mb bias : Nat) (mode : Nat) (neg : Bool) (r num den : Nat) (e : Int) : Nat :=
  if num == 0 then 0 else
  let ex := floorLog2 num den + e
  let qmin : Int := 1 - (bias : Int) - mb
  let q := max (ex - mb) qmin
  let n := roundAt mode neg r num den e q
  -- codes rise with the magnitude, so a carry out of the mantissa moves into the exponent by itself
  if q == qmin then n else (q + mb + bias).toNat * 2 ^ mb + (n - 2 ^ mb) + 0 * eb

/-- Whether an overflow under a mode is delivered as the largest finite value (R37, R39). -/
def overflowSaturates (mode : Nat) (neg : Bool) : Bool :=
  match mode with
  | 0 => false
  | 1 => true
  | 2 => !neg
  | 3 => neg
  | _ => true

/-- Whether an exact magnitude lies beyond the largest finite value of a float format. -/
def beyondMag (eb mb bias : Nat) (top : Top) (num den : Nat) (e : Int) : Bool :=
  maxCode eb mb top < roundMag eb mb bias 3 false 0 num den e

/-- A finite magnitude rounded into a float format: code, and whether it saturated. `clamp` asks for the largest finite value
on every overflow, as accumulators (R146) and scaled blocks (R33) do. In FP4 and E4M3 every magnitude beyond the largest finite value
saturates (R39, R40); in the other formats an overflow is judged after rounding (IEEE 754-2019, by R41; DEDUCED, log 7). -/
def encodeMag (eb mb bias : Nat) (top : Top) (clamp : Bool) (mode : Nat) (neg : Bool) (r num den : Nat) (e : Int) :
    Nat × Bool :=
  let c := roundMag eb mb bias mode neg r num den e
  let sgn := if neg then 2 ^ (eb + mb) else 0
  if c ≤ maxCode eb mb top then
    (sgn + c, (top == .noSpecials || top == .e4m3) && beyondMag eb mb bias top num den e)
  else if clamp || top != .ieee || overflowSaturates mode neg then (sgn + maxCode eb mb top, true)
  else (sgn + (2 ^ eb - 1) * 2 ^ mb, false)

/-- An integer saturated to a two's complement format: code, and whether it saturated (R24). -/
def encodeInt (bits : Nat) (i : Int) : Nat × Bool :=
  let hi : Int := 2 ^ (bits - 1) - 1
  let lo : Int := -(2 ^ (bits - 1))
  if hi < i then (unsigned bits hi, true) else if i < lo then (unsigned bits lo, true) else (unsigned bits i, false)

/-- The code of an infinity, and whether that is a saturation (R39, R40). -/
def encodeInf (f : Fmt) (clamp neg : Bool) : Nat × Bool :=
  match f with
  | .int b => if neg then (2 ^ (b - 1), true) else (2 ^ (b - 1) - 1, true)
  | .e8m0 => if neg then (255, false) else (254, false)
  | .float eb mb _ top =>
    let sgn := if neg then 2 ^ (eb + mb) else 0
    if clamp || top != .ieee then (sgn + maxCode eb mb top, true) else (sgn + (2 ^ eb - 1) * 2 ^ mb, false)

/-- The code of a NaN: quieted, its sign and the high bits of its payload kept (R39, R41). -/
def encodeNan (f : Fmt) (neg : Bool) (pay : Nat) : Nat × Bool :=
  match f with
  | .int _ => (0, true)
  | .e8m0 => (255, false)
  | .float eb mb _ top =>
    let sgn := if neg then 2 ^ (eb + mb) else 0
    match top with
    | .ieee => (sgn + (2 ^ eb - 1) * 2 ^ mb + ((pay >>> (23 - mb)) ||| 2 ^ (mb - 1)), false)
    | .noSpecials => (0, true)
    | .e4m3 => (sgn + 0x7F, false)
    | .e6m9 => (sgn + 0x7FFF, false)

/-- A value converted into a format under a rounding mode (R39): its code, and whether it saturated (R40). Code 0xFE of E8M0 for an infinity
or a value above its range is no saturation (DEDUCED, log 196). -/
def encodeWith (clamp : Bool) (f : Fmt) (mode r : Nat) (v : Val) : Nat × Bool :=
  match v with
  | .nan neg pay => encodeNan f neg pay
  | .inf neg => encodeInf f clamp neg
  | .fin neg m e =>
    match f with
    | .int b =>
      let n := roundAt mode neg r m 1 e 0
      encodeInt b (if neg then -(n : Int) else n)
    | .e8m0 =>
      if m == 0 then (0, false) else if neg then (255, false)
      else
        let x := floorLog2 m 1 + e
        if x < -127 then (0, false) else if 127 < x then (254, false) else ((x + 127).toNat, false)
    | .float eb mb bias top => encodeMag eb mb bias top clamp mode neg r m 1 e

def encode (f : Fmt) (mode r : Nat) (v : Val) : Nat × Bool := encodeWith false f mode r v

def Val.isNan : Val → Bool
  | .nan _ _ => true
  | _ => false

def Val.isInf : Val → Bool
  | .inf _ => true
  | _ => false

def Val.isFin : Val → Bool
  | .fin _ _ _ => true
  | _ => false

/-- Zero of either sign. -/
def Val.isZero : Val → Bool
  | .fin _ m _ => m == 0
  | _ => false

/-- A NaN with its quiet bit set; anything else as it is (R41). -/
def Val.quiet : Val → Val
  | .nan n p => .nan n (p ||| 0x400000)
  | v => v

def Val.abs : Val → Val
  | .nan _ p => .nan false (p ||| 0x400000)
  | .inf _ => .inf false
  | .fin _ m e => .fin false m e

def Val.neg : Val → Val
  | .nan n p => .nan (!n) (p ||| 0x400000)
  | .inf n => .inf (!n)
  | .fin n m e => .fin (!n) m e

/-- A finite value as an integer count of `2^q`, for `q` at or below its exponent. -/
def intAt (neg : Bool) (m : Nat) (e q : Int) : Int :=
  let n : Int := (m * pow2 (e - q) : Nat)
  if neg then -n else n

/-- The exact sum; a zero sum is +0, and −0 under mode 2, unless both terms are zeros of one sign (R41). -/
def Val.add (mode : Nat) (a b : Val) : Val :=
  match a, b with
  | .nan n p, _ => .nan n (p ||| 0x400000)
  | _, .nan n p => .nan n (p ||| 0x400000)
  | .inf x, .inf y => if x == y then .inf x else qnan
  | .inf x, _ => .inf x
  | _, .inf y => .inf y
  | .fin n₁ m₁ e₁, .fin n₂ m₂ e₂ =>
    let q := min e₁ e₂
    let s := intAt n₁ m₁ e₁ q + intAt n₂ m₂ e₂ q
    if s == 0 then
      if m₁ == 0 && m₂ == 0 && n₁ == n₂ then .fin n₁ 0 0 else .fin (mode == 2) 0 0
    else .fin (decide (s < 0)) s.natAbs q

def Val.sub (mode : Nat) (a b : Val) : Val :=
  match a, b with
  | .nan n p, _ => .nan n (p ||| 0x400000)
  | _, .nan n p => .nan n (p ||| 0x400000)
  | _, _ => Val.add mode a b.neg

/-- The exact product (R41). -/
def Val.mul (a b : Val) : Val :=
  match a, b with
  | .nan n p, _ => .nan n (p ||| 0x400000)
  | _, .nan n p => .nan n (p ||| 0x400000)
  | .inf x, .inf y => .inf (x != y)
  | .inf x, .fin n m _ => if m == 0 then qnan else .inf (x != n)
  | .fin n m _, .inf y => if m == 0 then qnan else .inf (n != y)
  | .fin n₁ m₁ e₁, .fin n₂ m₂ e₂ => .fin (n₁ != n₂) (m₁ * m₂) (e₁ + e₂)

/-- `v * 2^k`, exactly. -/
def Val.scale (v : Val) (k : Int) : Val :=
  match v with
  | .fin n m e => .fin n m (e + k)
  | w => w

/-- Order of two values, neither of them a NaN; −0 and +0 are equal here (R200). -/
def Val.lt (a b : Val) : Bool :=
  match a, b with
  | .nan _ _, _ => false
  | _, .nan _ _ => false
  | .inf x, .inf y => x && !y
  | .inf x, _ => x
  | _, .inf y => !y
  | .fin n₁ m₁ e₁, .fin n₂ m₂ e₂ =>
    let q := min e₁ e₂
    decide (intAt n₁ m₁ e₁ q < intAt n₂ m₂ e₂ q)

def Val.eqv (a b : Val) : Bool := !a.isNan && !b.isNan && !a.lt b && !b.lt a

def Val.isNegZero : Val → Bool
  | .fin true 0 _ => true
  | _ => false

/-- The order of the extrema: −0 ranks below +0 (R43). -/
def Val.rankLt (a b : Val) : Bool :=
  a.lt b || (a.isZero && b.isZero && a.isNegZero && !b.isNegZero)

/-- IEEE 754-2019 maximum (R43). -/
def Val.max (a b : Val) : Val :=
  if a.isNan then a.quiet else if b.isNan then b.quiet else if a.rankLt b then b else a

/-- IEEE 754-2019 minimum (R43). -/
def Val.min (a b : Val) : Val :=
  if a.isNan then a.quiet else if b.isNan then b.quiet else if b.rankLt a then b else a

/-- A quotient in floating point, rounded into `f` (R41): code, and whether it saturated. -/
def divFloat (f : Fmt) (mode : Nat) (a b : Val) : Nat × Bool :=
  match a, b with
  | .nan n p, _ => encodeNan f n p
  | _, .nan n p => encodeNan f n p
  | .inf _, .inf _ => encode f mode 0 qnan
  | .inf x, .fin n _ _ => encodeInf f false (x != n)
  | .fin n _ _, .inf y => encode f mode 0 (.fin (n != y) 0 0)
  | .fin n₁ m₁ e₁, .fin n₂ m₂ e₂ =>
    if m₂ == 0 then
      if m₁ == 0 then encode f mode 0 qnan else encodeInf f false (n₁ != n₂)
    else
      match f with
      | .float eb mb bias top => encodeMag eb mb bias top false mode (n₁ != n₂) 0 m₁ m₂ (e₁ - e₂)
      | _ => (0, false)

/-- An integer quotient (R42): rounded to an integer by the mode, with the stated results for a zero divisor. -/
def divInt (bits mode : Nat) (a b : Int) : Nat × Bool :=
  if b == 0 then
    if a == 0 then (0, true)
    else if 0 < a then (2 ^ (bits - 1) - 1, true) else (2 ^ (bits - 1), true)
  else
    let neg := decide (a < 0) != decide (b < 0)
    let n := roundAt mode neg 0 a.natAbs b.natAbs 0 0
    encodeInt bits (if neg then -(n : Int) else n)

/-- Integer square root, one bit at a time from the highest of `k`. -/
def isqrtStep (n : Nat) : Nat → Nat → Nat
  | 0, root => root
  | k + 1, root =>
    let t := root + 2 ^ k
    isqrtStep n k (if t * t ≤ n then t else root)

def isqrt (n : Nat) : Nat := isqrtStep n (Nat.log2 n / 2 + 1) 0

/-- A square root as `m * 2^e` with a sticky last bit, exact enough for every directed or nearest rounding of FP32. -/
def sqrtMag (m : Nat) (e : Int) : Nat × Int :=
  let me := if e % 2 == 0 then (m, e) else (2 * m, e - 1)
  let n := me.1 * 2 ^ 128
  let root := isqrt n
  (2 * root + (if root * root == n then 0 else 1), me.2 / 2 - 64 - 1)

/-- √x, correctly rounded into FP32 (R41, R200). -/
def sqrtFloat (mode : Nat) (v : Val) : Nat × Bool :=
  match v with
  | .nan n p => encodeNan fp32 n p
  | .inf n => if n then encode fp32 mode 0 qnan else encode fp32 mode 0 (.inf false)
  | .fin n m e =>
    if m == 0 then encode fp32 mode 0 (.fin n 0 0)
    else if n then encode fp32 mode 0 qnan
    else
      let s := sqrtMag m e
      encode fp32 mode 0 (.fin false s.1 s.2)

/-- The random value of the element at linear index `idx` (R38). -/
def stochastic (seed idx : Nat) : Nat :=
  let m := 2 ^ 64
  let z := (seed + (idx + 1) * 0x9E3779B97F4A7C15) % m
  let z := ((z ^^^ (z >>> 30)) * 0xBF58476D1CE4E5B9) % m
  let z := ((z ^^^ (z >>> 27)) * 0x94D049BB133111EB) % m
  let z := z ^^^ (z >>> 31)
  field z 63 48

/-- The largest finite FP32 magnitude. -/
def fp32Max : Nat × Int := (2 ^ 24 - 1, 104)

/-- emax of the element format of a scaled code (R33). -/
def scaleEmax (code : Nat) : Int :=
  match code with
  | 0x31 => 8
  | 0x32 => 15
  | 0x22 => 6
  | _ => 2

/-- An infinity as it enters a scaled block: the largest finite FP32 value of its sign (R33). -/
def Val.finitised : Val → Val
  | .inf n => .fin n fp32Max.1 fp32Max.2
  | v => v

/-- floor(log2) of the largest magnitude of a list, or none when all are zero. -/
def maxLog2 : List Val → Option Int
  | [] => none
  | .fin _ m e :: vs =>
    if m == 0 then maxLog2 vs
    else
      let x := floorLog2 m 1 + e
      some (match maxLog2 vs with | none => x | some y => max x y)
  | _ :: vs => maxLog2 vs

/-- The scale byte of a block of source values (R33). -/
def blockScale (code : Nat) (vs : List Val) : Nat :=
  if vs.any Val.isNan then 0xFF
  else
    match maxLog2 (vs.map Val.finitised) with
    | none => 0x7F
    | some x => (max (-127) (min 127 (x - scaleEmax code)) + 127).toNat

/-- Whether a finite value lies beyond the range of an element format. -/
def Val.beyond (f : Fmt) (v : Val) : Bool :=
  match f, v with
  | .int b, .fin neg m e => (if neg then 2 ^ (b - 1) else 2 ^ (b - 1) - 1) < roundAt 3 false 0 m 1 e 0
  | .float eb mb bias top, .fin _ m e => beyondMag eb mb bias top m 1 e
  | _, _ => false

/-- One element of a scaled block under its scale byte (R33): code, and whether it saturated, as every quotient beyond the element format's
largest finite value does. A block written as NaN sets no saturation, whatever its elements were (DESIGN CHOICE, log 144). An infinity is
stored as the format's largest value of its sign under every mode, an integer's least value for the negative one (DEDUCED, log 195). -/
def blockElem (code scale mode r : Nat) (v : Val) : Nat × Bool :=
  if scale == 0xFF then (0, false)
  else if v.isInf then encodeWith true (fmtD code) 0 0 v
  else
    let x := v.finitised.scale (127 - (scale : Int))
    let q := encodeWith true (fmtD code) mode r x
    (q.1, q.2 || x.beyond (fmtD code))

/-- The value of a scaled element (R28, R34). -/
def scaledVal (code scale w : Nat) : Val :=
  if scale == 0xFF then qnan else (decodeVal (fmtD code) w).scale ((scale : Int) - 127)

/-- The largest finite value of a format that the Almanac takes (R228), as `m * 2^e`. -/
def fmax (code : Nat) : Option (Nat × Int) :=
  match code with
  | 0x01 => some (7, 0)
  | 0x02 => some (127, 0)
  | 0x10 => some (6, 0)
  | 0x11 => some (448, 0)
  | 0x12 => some (57344, 0)
  | 0x13 => some (65504, 0)
  | 0x14 => some (255, 120)
  | _ => none

/-- ceil(log2(num / den)) for a positive fraction. -/
def ceilLog2 (num den : Nat) : Int :=
  let k := floorLog2 num den
  let ab := inUnits num den 0 k
  if ab.1 == ab.2 then k else k + 1

/-- An exact fraction rounded to nearest even into FP32. -/
def ratToFp32 (neg : Bool) (num den : Nat) (e : Int) : Nat :=
  (encodeMag 8 23 127 .ieee false 0 neg 0 num den e).1

/-- FP32 comparison `a ≤ b` on codes; false when either is a NaN. -/
def fp32Le (a b : Nat) : Bool :=
  let x := decodeVal fp32 a
  let y := decodeVal fp32 b
  !x.isNan && !y.isNan && !y.lt x

/-- Whether an FP32 code lies within two others; a NaN does not. -/
def fp32Within (lo hi w : Nat) : Bool := fp32Le lo w && fp32Le w hi

/-- The FP32 sum of two codes, rounded to nearest even. -/
def fp32Add (a b : Nat) : Nat := (encode fp32 0 0 (Val.add 0 (decodeVal fp32 a) (decodeVal fp32 b))).1

end Sys2Proof.Machine
end

