-- ==== Sys2Proof/Machine/State.lean ====
section
/-! DEFINITION. The state of one Quire package, and the state right after reset. Plain data throughout. Numbered structures are
held in `AMap`s: a number that is not listed reads as that structure's reset value, given beside its type. Registers that the
object dictionary numbers are held under their own numbers in `od` (16_object_dictionary.md). -/

namespace Sys2Proof.Machine

/-- The one stop of the model's own. -/
inductive Fault where
  /-- Raised by every meaning whose operands name a structure the package does not have (R9): core 128, ring 512 and the like.
  No event of the spec carries such operands. Safe: the model stops. -/
  | noSuchStructure
  deriving DecidableEq, Repr

inductive Refusal where
  /-- Raised by an arm of Dispatch.lean for a command that has no meaning yet. Safe: the model stops. -/
  | notModelled (mnemonic : String)
  deriving DecidableEq, Repr

/-- A completion's first failure: ERROR, DKIND and DETAIL (R365). -/
structure Err where
  code : Nat := 0
  dkind : Nat := 0
  detail : Nat := 0
  deriving DecidableEq, Repr

/-- The current grid of a ring (R248); its defaults are those of a new ring (R247). -/
structure Grid where
  cores : Nat := 0
  gm : Nat := 0
  gn : Nat := 0
  steal : Nat := 3
  order : Nat := 0
  cool : Bool := true
  deriving DecidableEq, Repr

/-- The life of a taken command (R357, R362, R363). -/
inductive Phase where
  | taken | started | running | ended
  deriving DecidableEq, Repr

/-- An outstanding command of a ring. -/
structure Cmd where
  r : Nat
  p : Nat
  entry : BitVec 1024
  phase : Phase
  err : Option Err := none
  flags : Nat := 0
  result : Nat := 0
  grid : Grid := {}
  /-- Host ports that were reset since the command was taken (R348). -/
  cut : List Nat := []
  deriving DecidableEq, Repr

inductive RingSt where
  | disabled | running | draining | error
  deriving DecidableEq, Repr

/-- A ring control block (R351), the ring's current grid (R247), and which of its last entries ended in error (R364). -/
structure Ring where
  cmdBase : Nat := 0
  cplBase : Nat := 0
  head : Nat := 0
  tail : Nat := 0
  cplTail : Nat := 0
  cplHead : Nat := 0
  irqPort : Nat := 0
  msix : Nat := 0
  irqEn : Bool := false
  loc : Nat := 0
  cplLog2 : Nat := 0
  cmdLog2 : Nat := 0
  reserved : Nat := 0
  err : Nat := 0
  st : RingSt := .disabled
  en : Bool := false
  grid : Grid := {}
  failed : List Nat := []
  /-- Entries taken since enable, counted up to 255 (R357). -/
  seen : Nat := 0
  deriving DecidableEq, Repr

inductive TdSt where
  | free | live | dying
  deriving DecidableEq, Repr

/-- An entry of a descriptor table (R44, R45, R63). -/
structure TdEntry where
  st : TdSt := .free
  gen : Nat := 0
  used : Bool := false
  part : Nat := 0
  image : BitVec 1024 := 0
  ext : BitVec 512 := 0
  bad : Bool := false
  deriving DecidableEq, Repr

/-- A home block of an op (R251, R253): its work counter, the next index, the indices a fence returned with their epochs. -/
structure Block where
  g : Nat
  region : Nat
  ctr : Option Nat := none
  next : Nat := 0
  size : Nat
  reissue : List (Nat × Nat) := []
  lost : Bool := false
  /-- The counter fails its check (R402). -/
  bad : Bool := false
  /-- The highest epoch that a reissue has given an index of the block, at which a new phase begins (R175). -/
  top : Nat := 0
  base : Nat := 0
  deriving DecidableEq, Repr

/-- An op's snapshot of an Almanac entry (R227). -/
structure Snap where
  entry : Nat
  use : Int
  next : Int
  seeding : Bool := false
  quant : Bool := false
  deriving DecidableEq, Repr

/-- A running op: its resolved grid (R250), blocks, Almanac snapshots and maxima (R227, R228), audit counts (R135), and how many
of its units landed or ended (R260). -/
structure Op where
  r : Nat
  p : Nat
  cores : List Nat := []
  gm : Nat := 1
  gn : Nat := 1
  tM : Nat := 0
  tN : Nat := 1
  phase : Nat := 0
  blocks : List Block := []
  snaps : List Snap := []
  maxima : AMap Nat := []
  truly : Nat := 0
  misses : Nat := 0
  landed : Nat := 0
  final : Option (Nat × Nat) := none
  merged : Bool := false
  wait : Nat := 0
  /-- The chain block as read at issue (R456). -/
  chain : Nat := 0
  /-- The grid's fields (R247), the core of a pinned op (R151), and whether its units form one sequence (R252). -/
  grid : Grid := {}
  pinned : Option Nat := none
  seq : Bool := false
  /-- Context blocks that failed their validation for one of its records: their records are dropped (R180). -/
  dropped : List Nat := []
  /-- Cores whose count of ops with degraded tiling holds it already (R265). -/
  degraded : List Nat := []
  deriving DecidableEq, Repr

inductive FailKind where
  | input | mirror | header | parity | check | record
  deriving DecidableEq, Repr

/-- A failing check of a tile's or chunk's verdict (R402, R403). -/
structure Fail where
  kind : FailKind
  addr : Nat := 0
  detail : Nat := 0
  deriving DecidableEq, Repr

/-- A chunk register (R144): its 16 bits, its side bits, and the exponent of its block's scale product once a product has entered. -/
structure Chunk where
  bits : Nat := 0
  infP : Bool := false
  infN : Bool := false
  entered : Bool := false
  scale : Int := 0
  deriving DecidableEq, Repr

/-- An accumulator slot of a cell (R140): the total or value, the winner index of an extremum, the two chunk registers. -/
structure Acc where
  tot : Nat := 0
  idx : Nat := 0xFFFFFFFF
  c0 : Chunk := {}
  c1 : Chunk := {}
  sat : Bool := false
  deriving DecidableEq, Repr

/-- The signed sum S and magnitude sum G of a check cell (R154), or the extremum of R156 in `s`; whether one passed the largest finite
value (R157). -/
structure Check where
  s : Nat := 0
  g : Nat := 0
  passed : Bool := false
  deriving DecidableEq, Repr

inductive UnitSt where
  | held | open_ | finished | shadow | drained | released
  deriving DecidableEq, Repr

/-- Where a record of an outbound queue goes (R16, R67, R160, R188). `copies` are windows as (package, die, slot). -/
inductive Dest where
  | store (addr : Nat) (data : Line) (nibbles : BitVec 128)
  | add (addr : Nat) (fmt : Nat) (lanes : BitVec 32) (data : Line)
  | extremum (addr : Nat) (isMax : Bool) (fmt : Nat) (lanes : BitVec 16) (data : Line)
  | window (copies : List (Nat × Nat × Nat)) (off : Nat) (data : Line) (nibbles : BitVec 128)
  | windowAdd (copies : List (Nat × Nat × Nat)) (off : Nat) (fmt : Nat) (lanes : BitVec 32) (data : Line)
  | windowMax (copies : List (Nat × Nat × Nat)) (off : Nat) (fmt : Nat) (lanes : BitVec 16) (data : Line)
  | keyed (ctxa : Nat) (rmt : Bool) (key split : Nat) (data : Line)
  | push (queue : Nat) (entry : BitVec 2048)
  deriving DecidableEq, Repr

/-- A claimed tile or chunk on its core (R251, R254, R285), with all that the array holds for a tile: accumulators, check cells,
saturation bits, the deal once it is fixed (R114), the contributors (R153). Keys of the maps: slot × 16,384 + array row × 128 + column. -/
structure WorkUnit where
  id : Nat
  r : Nat
  p : Nat
  g : Nat := 0
  index : Nat
  ticket : Option Ticket := none
  st : UnitSt := .held
  /-- The number of its part where a chunk is committed in parts (R284), and what it has still to commit once this part has left. -/
  part : Nat := 0
  rest : List Dest := []
  /-- The item of its chunk with which it begins, and the one with which the chunk goes on after it, 0 for none (R284). -/
  sub : Nat := 0
  next : Nat := 0
  /-- Its core was fenced: the region DMA carries its released records (R407). -/
  carried : Bool := false
  /-- Records of the unit that have left the outbound queue. -/
  sent : Nat := 0
  replay : Nat := 0
  rescale : Nat := 0
  /-- Its verdict has passed once, and what it counts is counted (R405). -/
  counted : Bool := false
  /-- Its replays that are counted. -/
  passed : Nat := 0
  fail : Option Fail := none
  last : Option Fail := none
  atid : Nat := 0
  lo : Nat := 0
  mode : Nat := 0
  shape : Nat := 0
  /-- Contributors (R153): ring, position and entry of each op that ran in the tile, in order. -/
  contribs : List (Nat × Nat × BitVec 1024) := []
  ci : Nat := 0
  nextK : Nat := 0
  ran : Nat := 0
  perm : Option (List Nat) := none
  acc : AMap Acc := []
  chkRow : AMap Check := []
  chkCol : AMap Check := []
  corner : AMap Check := []
  satRow : List Nat := []
  satCol : List Nat := []
  ovf : Bool := false
  slot : Nat := 0
  audited : Bool := false
  truly : Nat := 0
  misses : Nat := 0
  empty : Bool := false
  /-- What its run counts, by dictionary entry: counted when its verdict passes (R405). -/
  counts : AMap Nat := []
  /-- Nonzeros dropped by prune mode, tiles stored DENSE in strict mode (R90, R91). -/
  pruned : Nat := 0
  strict : Nat := 0
  flags : Nat := 0
  maxima : AMap Nat := []
  offsets : AMap Nat := []
  err : Option Err := none
  deriving DecidableEq, Repr

/-- A record of an outbound queue, behind the mark of its unit. -/
structure OutRec where
  unit : Nat
  r : Nat
  p : Nat
  ticket : Option Ticket := none
  dest : Dest
  /-- Its number among the records that have entered the queue. -/
  seq : Nat := 0
  deriving DecidableEq, Repr

/-- A staging share (R263): sub-tile side s, fill depth d, units of 256 bytes. -/
structure Share where
  r : Nat
  p : Nat
  s : Nat
  d : Nat
  units : Nat
  deriving DecidableEq, Repr

inductive SbState where
  | pend | fill | hold
  deriving DecidableEq, Repr

/-- A range entry of a core's scoreboard (R280): granules of 64 bytes, `wr` for an asynchronous write. -/
structure SbEntry where
  r : Nat
  p : Nat
  lo : Nat
  hi : Nat
  wr : Bool
  st : SbState
  deriving DecidableEq, Repr

/-- An entry of a match table (R110). -/
structure MatchEntry where
  k : BitVec 13
  strips : BitVec 16
  valid : Bool := true
  deriving DecidableEq, Repr

/-- The window of a core's match table (R110, R111): the tile it serves, its K steps, the first K index it has not used, the entries of the
128 sets in the order of their ways, stream lengths. A set that is not listed holds no valid entry. -/
structure Win where
  unit : Nat
  steps : Nat := 0
  kbase : Nat := 0
  table : AMap (List MatchEntry) := []
  lens : List Nat := []
  extraB : Nat := 0
  r4 : Nat := 1
  pred : Nat := 0
  deriving DecidableEq, Repr

/-- A window binding of a core (R323). -/
structure Binding where
  r : Nat
  p : Nat
  pkg : Nat
  die : Nat
  slot : Nat
  gen : Nat
  deriving DecidableEq, Repr

/-- A request of a core's own at a slot of the package, held until the slot is PENDING no longer; then what the slot answers it: accepted
(`some none`), counted in INFLIGHT until it is served, or refused with a code (R321, R325, R327). -/
structure OwnReq where
  r : Nat
  p : Nat
  slot : Nat
  off : Nat
  len : Nat
  bit : Nat
  verdict : Option (Option Nat) := none
  deriving DecidableEq, Repr

/-- A lock RELEASE that a core holds until every record numbered below `seq` has been accepted at its destination (R300). -/
structure HeldRelease where
  region : Nat
  cell : Nat
  seq : Nat
  deriving DecidableEq, Repr

/-- Everything of a core that is not a dictionary entry or memory, by package core number. -/
structure Core where
  units : List WorkUnit := []
  nextId : Nat := 0
  shadow : List Nat := []
  lastDrained : Option Nat := none
  outq : List OutRec := []
  shares : List Share := []
  sb : List SbEntry := []
  win : Option Win := none
  tuneSteps : Nat := 0
  tuneP : Nat := 0
  tuneQ : Nat := 0
  fracP : Nat := 0
  activity : Nat := 0
  failTimes : List Nat := []
  lastFail : Option Fail := none
  bindings : List Binding := []
  split : Nat × Nat × Nat := (32, 16, 16)
  /-- The ops whose steal a hot core holds back (R255). -/
  stealHold : List (Nat × Nat) := []
  /-- Requests of the core's own that met a PENDING slot of the package (R321, R325). -/
  atSlots : List OwnReq := []
  /-- The number of the next record that enters the outbound queue, and the lock RELEASEs held behind earlier ones (R300). -/
  nextRec : Nat := 0
  releases : List HeldRelease := []
  deriving DecidableEq, Repr

/-- An Almanac entry (R225) and the owner tag the die keeps beside it (R224). -/
structure Alm where
  hist : List Nat := List.replicate 16 0
  valid : Bool := false
  head : Nat := 0
  count : Nat := 0
  margin : Nat := 1
  use : Int := 0
  next : Int := 0
  fmt : Nat := 0
  owner : Option Nat := none
  bad : Bool := false
  deriving DecidableEq, Repr

/-- A resident entry of a scatter accumulator (R179); `stamp` orders updates. -/
structure SacEntry where
  set : Nat
  way : Nat
  ctx : Nat
  key : Nat
  split : Nat
  value : Line
  stamp : Nat
  bad : Bool := false
  deriving DecidableEq, Repr

/-- An open context of a scatter accumulator (R180); `partFilled` is the spill entry being filled (R185). -/
structure SacCtx where
  num : Nat
  block : Nat
  part : Nat
  dest : Nat
  pstore : Nat
  spillq : Nat
  splits : Nat
  merging : Bool := false
  finals : List (Nat × Nat) := []
  partFilled : List (Nat × Line) := []
  /-- Keys of victims that failed their check (R190). -/
  lost : List Nat := []
  seen : List (Nat × Nat) := []
  deriving DecidableEq, Repr

structure Sac where
  entries : List SacEntry := []
  ctxs : List SacCtx := []
  stamp : Nat := 0
  deriving DecidableEq, Repr

/-- A QUEUE_PUSH or QUEUE_POP that waits (R291, R292). -/
structure QWait where
  r : Nat
  p : Nat
  want : Nat
  addr : Nat
  deriving DecidableEq, Repr

/-- A stream queue: its control block (R288), the entries it holds by position, those that fail their check (R296), and the
commands that wait on it. -/
structure Queue where
  wr : Nat := 0
  rd : Nat := 0
  mark : Nat := 0
  rel : Nat := 0
  ringBase : Nat := 0
  stale : Nat := 0
  ringLog2 : Nat := 0
  headCore : Nat := 0
  tailCore : Nat := 0
  headWin : Nat := 0
  tailWin : Nat := 0
  part : Nat := 0
  notice : Bool := false
  en : Bool := false
  cfgErr : Nat := 0
  reserved : Nat := 0
  held : AMap (BitVec 2048) := []
  badEntries : List Nat := []
  pops : List QWait := []
  deriving DecidableEq, Repr

inductive LockSt where
  | free | held
  deriving DecidableEq, Repr

/-- A lock cell (R297). ABANDONED is HELD with an epoch that its owner no longer has (R298). -/
structure Lock where
  st : LockSt := .free
  owner : Nat := 0
  epoch : Nat := 0
  bad : Bool := false
  deriving DecidableEq, Repr

inductive SlotSt where
  | free | opened | closing | pending
  deriving DecidableEq, Repr

/-- A slot of a slot table (R320), its shadow (R325) and the commands that wait on it (R326, R327). -/
structure Slot where
  acl : Nat := 0
  gen : Nat := 0
  inflight : Nat := 0
  st : SlotSt := .free
  owner : Nat := 0
  perm : Nat := 0
  ogen : Nat := 0
  len : Nat := 0
  base : Nat := 0
  shBase : Nat := 0
  shLen : Nat := 0
  shPerm : Nat := 0
  shAcl : Nat := 0
  writer : Option (Nat × Nat) := none
  closers : List (Nat × Nat) := []
  bad : Bool := false
  deriving DecidableEq, Repr

/-- A window request accepted and not yet applied (R321). -/
structure Accepted where
  id : Nat
  die : Nat
  slot : Nat
  addr : Nat
  ogen : Nat
  msg : Msg
  deriving DecidableEq, Repr

/-- What a remote request is for: it reads data for a core's op, or lands a record, or signals or polls a word. -/
inductive TxnKind where
  | read | write | signalAdd | waitRead
  deriving DecidableEq, Repr

/-- A remote request whose response has not returned (R326). -/
structure Txn where
  tag : Nat
  r : Nat
  p : Nat
  core : Nat
  kind : TxnKind
  pkg : Nat
  die : Nat
  slot : Nat
  off : Nat
  len : Nat
  ticket : Option Ticket := none
  /-- The unit whose record it lands, and the record's number in its outbound queue. -/
  unit : Option Nat := none
  seq : Nat := 0
  deriving DecidableEq, Repr

/-- Remote data that has arrived for an op (R323). -/
structure Arrived where
  r : Nat
  p : Nat
  core : Nat
  pkg : Nat
  die : Nat
  slot : Nat
  off : Nat
  data : List Byte
  /-- The code by which the read ended instead: a refusal or a timeout (R322, R326). -/
  err : Nat := 0
  deriving DecidableEq, Repr

/-- A link port (R307, R311, R312, R412). Credits count 64-byte units, pool 2v + c. -/
structure Port where
  txSeq : Nat := 0
  rxSeq : Nat := 0
  retry : List (Nat × BitVec 2048) := []
  /-- How often each sequence number in the retry buffer has been resent (R311). -/
  resent : AMap Nat := []
  credits : List Nat := [768, 768, 768, 768, 256, 256, 64, 64]
  owed : List Nat := [0, 0, 0, 0, 0, 0, 0, 0]
  nak : Bool := false
  partial_ : List Byte := []
  need : Nat := 0
  retraining : Bool := false
  removed : List Nat := []
  removals : AMap Nat := []
  retrains : List (Nat × Nat) := []
  narrowed : Bool := false
  /-- The last message came from the first-in first-out path (R335). -/
  lastFifo : Bool := false
  deriving DecidableEq, Repr

/-- A message waiting to leave by port `pp`. Its class follows as it leaves (R308, R319) from the port `via` by which it arrived, none for a
message of this package. -/
structure Egress where
  pp : Nat
  via : Option Nat
  msg : Msg
  deriving DecidableEq, Repr

/-- A transfer raised at an arbiter (R334, R338); at a link egress it may carry a message. -/
structure ArbReq where
  req : Nat
  kind : Traffic
  total : Nat
  left : Nat
  latest : Nat
  since : Nat
  /-- The cycle of its grant. -/
  granted : Nat := 0
  out : Option Egress := none
  deriving DecidableEq, Repr

/-- A counter record of an arbiter (R341). -/
structure ArbRec where
  grants : Nat := 0
  wait : Nat := 0
  longest : Nat := 0
  deriving DecidableEq, Repr

/-- An arbiter (R333 to R341): its cycle count, the requester the grant is parked on, the transfer in progress, those waiting, and the messages
that lie wholly in the egress buffer (R335). -/
structure Arbiter where
  cycle : Nat := 0
  owner : Option Nat := none
  cur : Option ArbReq := none
  waiting : List ArbReq := []
  recs : AMap ArbRec := []
  turn : AMap Nat := []
  committed : List Egress := []
  deriving DecidableEq, Repr

/-- An open transfer of a channel (R376). -/
structure Xfer where
  write : Bool
  index : Nat
  sub : Nat
  ty : Nat
  len : Nat
  nextOff : Nat
  nextSeq : Nat
  data : List Byte
  deriving DecidableEq, Repr

/-- A management channel: its transfer, its last request and response, BUSY and DONE of a mailbox (R380). -/
structure Channel where
  xfer : Option Xfer := none
  req : List Byte := []
  rsp : List Byte := []
  busy : Bool := false
  done : Bool := false
  deriving DecidableEq, Repr

/-- A frame the package sent on CAN FD (R373). -/
structure CanFrame where
  ext : Bool
  id : Nat
  data : List Byte
  deriving DecidableEq, Repr

/-- An MSI-X message: host port, function, vector. -/
structure Irq where
  port : Nat
  pf : Nat
  vector : Nat
  deriving DecidableEq, Repr

/-- The configuration of a function of a host port, as far as the spec names it (R344): D0 or D3hot, and the AER status. -/
structure HostFn where
  d3hot : Bool := false
  aer : BitVec 32 := 0
  deriving DecidableEq, Repr

/-- A record of settings (R393). -/
structure OtpRec where
  index : Nat
  first : Nat
  last : Nat
  ty : Nat
  vlen : Nat
  value : Nat
  deriving DecidableEq, Repr

/-- A die's copy of an OTP generation (R392): SEQ, USED and RECS of its header, its records, and the CRC stored over them. -/
structure OtpCopy where
  seq : Nat := 0
  used : Nat := 0
  count : Nat := 0
  recs : List OtpRec := []
  crc : BitVec 32 := 0
  deriving DecidableEq, Repr

/-- An OTP generation as the lead die and the standby lead die hold it. -/
structure OtpGen where
  lead : OtpCopy := {}
  standby : OtpCopy := {}
  deriving DecidableEq, Repr

-- ## CRC-32C (R392, R401)

/-- CRC-32C as RFC 3720 has it (PRESUMED, log 167): reflected, polynomial 0x1EDC6F41, all ones before and after. -/
def crcByte (c : BitVec 32) (b : Byte) : BitVec 32 :=
  (List.range 8).foldl (fun c _ => (c >>> 1) ^^^ (if c.getLsbD 0 then 0x82F63B78#32 else 0#32)) (c ^^^ b.setWidth 32)

def crc32c (bs : List Byte) : BitVec 32 := ~~~(bs.foldl crcByte (~~~(0#32)))

/-- The bytes of a number, lowest first. -/
def leBytes (v : Nat) : Nat → List Byte
  | 0 => []
  | n + 1 => BitVec.ofNat 8 v :: leBytes (v / 256) n

/-- A record as its bytes (R393): the key, and the value padded to a multiple of 8 bytes. -/
def OtpRec.bytes (r : OtpRec) : List Byte :=
  leBytes (r.index + r.first <<< 16 + r.last <<< 24 + r.ty <<< 32 + r.vlen <<< 40) 8 ++ leBytes r.value ((r.vlen + 7) / 8 * 8)

/-- What the CRC of a copy covers: header bytes 0 to 11 and the records. -/
def OtpCopy.covered (c : OtpCopy) : List Byte := leBytes (c.seq + c.used <<< 32 + c.count <<< 48) 12 ++ c.recs.flatMap OtpRec.bytes

/-- A copy with the header that its records ask for. -/
def OtpCopy.of (seq : Nat) (recs : List OtpRec) : OtpCopy :=
  let c : OtpCopy := { seq := seq, used := (recs.flatMap OtpRec.bytes).length, count := recs.length, recs := recs }
  { c with crc := crc32c c.covered }

/-- A copy counts when its SEQ is not 0 and its CRC passes. -/
def OtpCopy.valid (c : OtpCopy) : Bool := c.seq != 0 && c.crc == crc32c c.covered

/-- The update's progress (R398 to R400). -/
inductive Upd where
  | idle | received | verifying | verified | rejected | activating | trial | reverting
  deriving DecidableEq, Repr

/-- A fault-log record (R418). -/
structure FaultRec where
  detail : Nat := 0
  time : Nat := 0
  seq : Nat := 0
  code : Nat := 0
  action : Nat := 0
  severity : Nat := 0
  unit : Nat := 0
  kind : Nat := 0
  dkind : Nat := 0
  boots : Nat := 0
  count : Nat := 1
  deriving DecidableEq, Repr

/-- Where the package stands between input power and READY (R424, R443, R449). -/
inductive Boot where
  | noPower | standby | booting | restored | ready | recovery | tripped
  deriving DecidableEq, Repr

/-- The loops of 18_power_clocks_thermal.md for one region. -/
structure RegionPower where
  powerCeil : Nat := 2250
  thermalCeil : Nat := 2250
  railCeil : Nat := 2250
  rampCeil : Nat := 2250
  droop : Nat := 0
  millivolts : Nat := 550
  temps : AMap Int := []
  deriving DecidableEq, Repr

/-- The package's power state (R424 to R434). Samples are in microwatts, newest first. -/
structure Power where
  /-- PLIM in watts as of the last 100 µs step (R428). -/
  limit : Nat := 1900
  samples : List Nat := []
  runAbove : Nat := 0
  avgAbove : Nat := 0
  peak : List (Nat × Nat) := []
  millivolts : Nat := 0
  milliamps : Nat := 0
  brakeIn : Bool := false
  brakePower : Bool := false
  brakeThermal : Bool := false
  dieTemps : AMap Int := []
  stackTemps : AMap Int := []
  alwaysOn : Int := 0
  stackPaced : List Nat := []
  tripped : Bool := false
  phases : AMap Nat := []
  lostA : Bool := false
  lostB : Bool := false
  lostLink : Bool := false
  useB : Bool := false
  tempSum : Int := 0
  tempCount : Nat := 0
  deriving DecidableEq, Repr

/-- The levels of the JTAG inputs; undriven, the board's pulls hold TRST_N and TCK low, TMS and TDI high (R438). -/
structure JtagPins where
  trstN : Bool := false
  tms : Bool := true
  tdi : Bool := true
  tck : Bool := false
  deriving DecidableEq, Repr

/-- The pins and what their filters hold (R438 to R442). -/
structure Pins where
  sysReset : Bool := true
  perst0 : Bool := true
  perst1 : Bool := true
  brake : Bool := false
  storm : List Pin := []
  ready : Bool := false
  faultN : Bool := true
  nodeId : Nat := 0
  /-- SYS_RESET_N was released while the always-on domain had no power (R443). -/
  late : Bool := false
  /-- The next start is a cold power-up (R397). -/
  cold : Bool := true
  /-- A WARM_RESET waits for its release (R444). -/
  warm : Bool := false
  /-- A reset fell into an OTP commit: the next start takes its settings from OTP (R445). -/
  fromOtp : Bool := false
  jtag : JtagPins := {}
  deriving DecidableEq, Repr

/-- Firmware images and the update (R398 to R400, R446 to R449). `incomingTotal` is the length of an image being received, 0 when none
is; `target` the slot that restarting DMPs run, `home` the die that held the lead role when the update began. -/
structure Firmware where
  imageA : List Byte := []
  imageB : List Byte := []
  incomingTotal : Nat := 0
  upd : Upd := .idle
  restarted : List Nat := []
  latched : List (FnKind × Nat × Bool) := []
  dmpDown : List Nat := []
  target : Nat := 0
  home : Nat := 0
  /-- Until when a move of the lead role leaves management requests unanswered (R343). -/
  leadUntil : Nat := 0
  /-- The image-key and debug-key slots of OTP (R448, R451): a slot that is not listed holds the hash fused at manufacture, a free value
  (`imageKey`, `debugKey`); the slots that are revoked, and the security-version field. -/
  imageKeys : AMap (BitVec 384) := []
  debugKeys : AMap (BitVec 384) := []
  keyRevoked : List Nat := []
  debugRevoked : List Nat := []
  secField : BitVec 64 := 0
  deriving DecidableEq, Repr

/-- The bits of the security-version field, bit 0 first. -/
def Firmware.secBits (f : Firmware) : List Bool := (List.range 64).map f.secField.getLsbD

/-- The least security version: the number of bits set in its field (R448). -/
def Firmware.secMin (f : Firmware) : Nat := f.secBits.count true

/-- Debug unlock and the TAPs (R450 to R452). -/
structure Debug where
  unlocked : Bool := false
  nonce : Option (BitVec 256) := none
  lastTry : Option Nat := none
  tap : AMap Nat := []
  deriving DecidableEq, Repr

/-- An entry of the flash area at 0x0_8000: the lifetime temperature as a sum of samples, the cold power-ups, and whether its tag fails (R419). -/
structure LifeEntry where
  boots : Nat := 0
  tempSum : Int := 0
  tempCount : Nat := 0
  bad : Bool := false
  deriving DecidableEq, Repr

/-- The fault log (R418, R419) and the pace of its broadcasts (R379): the volatile ring of the lead die and its copy at the standby lead, the
records made within the last second, and the flash slots, each with whether its tag fails. -/
structure FaultLog where
  ring : List FaultRec := []
  copy : List FaultRec := []
  recent : List FaultRec := []
  nextSeq : Nat := 0
  persistent : List FaultRec := []
  retired : List (Nat × Nat) := []
  /-- LOG_SEQ of the fault-record slots, and structures of the retirement slots, whose tag fails: those slots are ignored. -/
  badRecords : List Nat := []
  badRetired : List (Nat × Nat) := []
  boots : Nat := 0
  /-- The newest entry of each half of the area at 0x0_8000, the later one first. -/
  life : List LifeEntry := []
  lastBroadcast : Option Nat := none
  deriving DecidableEq, Repr

/-- A stack's spare pseudo-channel (R270, R409). -/
structure Stack where
  reserveUsed : Option Nat := none
  copying : Option Nat := none
  failing : List (Nat × Nat) := []
  deriving DecidableEq, Repr

/-- A direction of a die-to-die link (R329, R413) and the on-die network's resends (R402). -/
structure D2d where
  expect : Nat := 0
  disabled : List Nat := []
  received : List (List Byte) := []
  deriving DecidableEq, Repr

/-- The state of the package. -/
structure State where
  pending : List Instr
  mem : List Host.Cell
  host0 : List Host.Cell
  host1 : List Host.Cell
  bad : List Nat
  /-- HBM sectors written with inverted check bits (R410); each is in `bad` as well. -/
  poisoned : List Nat
  hostBad : List (Nat × Nat)
  od : AMap Nat
  td : AMap TdEntry
  rings : AMap Ring
  cmds : List Cmd
  ops : List Op
  cores : AMap Core
  counters : List (Nat × Nat)
  tickets : List (Nat × Nat × Ticket)
  stale : List Ticket
  /-- Old tickets whose reissue waits for room in the stale-ticket lists (R171): ring, position, block. -/
  reissueWait : List (Nat × Nat × Nat × Ticket)
  alm : AMap Alm
  groups : AMap Nat
  sacs : AMap Sac
  queues : AMap Queue
  locks : AMap Lock
  epochs : AMap Nat
  /-- What the last lock operation returned: its status word and completion code (R297, R301). -/
  lockReply : Nat × Nat
  slots : AMap Slot
  heldReqs : List (Nat × Nat × Msg)
  accepted : List Accepted
  nextAccept : Nat
  txns : List Txn
  nextTag : Nat
  arrived : List Arrived
  routes : AMap Nat
  /-- Routing table entries that fail their check (R401), under 4,096 × die + package. -/
  badRoutes : List Nat
  ports : AMap Port
  rx : List (Nat × Msg)
  egress : List Egress
  regionArb : AMap Arbiter
  egressArb : AMap Arbiter
  can : Channel
  mb0 : Channel
  mb1 : Channel
  /-- The two mailboxes of the die, 0 or 2, that does not lead (R380). -/
  mbOther : Channel × Channel
  canTx : List CanFrame
  msix : List Irq
  /-- The MSI-X tables (R346): address [63:0], data [95:64], mask bit [96] of vector v of function f on port h under (16h + f) × 2,048 + v. -/
  msixTable : AMap (BitVec 128)
  /-- The vectors whose PBA bit is set (R369). -/
  pba : List Irq
  hostFns : AMap HostFn
  mgmtIn : List Msg
  otp : AMap OtpGen
  commit : Option Nat
  /-- What the dies' retained stores hold, by entry; `storeDies` says in whose store an entry lies (R396). -/
  retained : AMap Nat
  /-- Dies whose retained store fails its check (R397). -/
  retainedBad : List Nat
  fw : Firmware
  clearing : List Nat
  hbmStacks : AMap Stack
  keys : AMap Nat
  d2d : AMap D2d
  netFails : AMap Nat
  log : FaultLog
  diesFenced : List Nat
  dmpBeats : AMap Nat
  retest : AMap Nat
  /-- The physical cores fenced so far, one entry for each fence (R408). -/
  fences : List Nat
  /-- Spares on their way to a logical number: physical core, package core number (R407). -/
  copyingWindows : List (Nat × Nat)
  /-- The package core number that a physical core carried last (R389). -/
  carried : AMap Nat
  /-- Functions that have still to stop and start again: a region that changed partition, a port that was configured anew (R386, R308). -/
  bounce : List (FnKind × Nat)
  timeUs : Nat
  regions : AMap RegionPower
  power : Power
  pins : Pins
  boot : Boot
  dbg : Debug
  freeCtr : Nat
  deriving DecidableEq, Repr

/-- The package right after power has been applied and while SYS_RESET_N holds it in reset (R438, R443): SERVICE 0, every function
OFF, every dictionary entry at its reset value, nothing listed in memory. OTP holds generation 0 with SEQ 1 (R392). The values the
spec does not give are DESIGN CHOICES or PRESUMED, by the assumption log (1 to 6, 161): the order code is variant 0, NJ-Q4-384 (log 6). -/
def State.reset : State where
  pending := []
  mem := []
  host0 := []
  host1 := []
  bad := []
  poisoned := []
  hostBad := []
  od := []
  td := []
  rings := []
  cmds := []
  ops := []
  cores := []
  counters := []
  tickets := []
  stale := []
  reissueWait := []
  alm := []
  groups := []
  sacs := []
  queues := []
  locks := []
  epochs := []
  lockReply := (0, 0)
  slots := []
  heldReqs := []
  accepted := []
  nextAccept := 0
  txns := []
  nextTag := 0
  arrived := []
  routes := []
  badRoutes := []
  ports := []
  rx := []
  egress := []
  regionArb := []
  egressArb := []
  can := {}
  mb0 := {}
  mb1 := {}
  mbOther := ({}, {})
  canTx := []
  msix := []
  msixTable := []
  pba := []
  hostFns := []
  mgmtIn := []
  otp := [(0, { lead := .of 1 [], standby := .of 1 [] })]
  commit := none
  retained := []
  retainedBad := []
  fw := {}
  clearing := []
  hbmStacks := []
  keys := []
  d2d := []
  netFails := []
  log := {}
  diesFenced := []
  dmpBeats := []
  retest := []
  fences := []
  copyingWindows := []
  carried := []
  bounce := []
  timeUs := 0
  regions := []
  power := {}
  pins := {}
  boot := .standby
  dbg := {}
  freeCtr := 0

end Sys2Proof.Machine
end

