-- ==== Sys2Proof/WellFormed.lean ====
section
/-! DEFINITION. Which commands name structures that the package has (R9): the ranges of the identifiers that a command's operands
carry. No event of the spec carries any other; a meaning stops on one (log 9). -/

namespace Sys2Proof

def okDie (d : Nat) : Bool := d < 4
def okRegion (rr : Nat) : Bool := rr < 16
def okCore (c : Nat) : Bool := c < 128
/-- A physical core, 9 × region + physical. -/
def okPhys (p : Nat) : Bool := p < 144
def okRing (r : Nat) : Bool := r < 512
def okPort (pp : Nat) : Bool := pp < 32
def okHost (h : Nat) : Bool := h < 2
def okPart (p : Nat) : Bool := p < 8
def okStack (ss : Nat) : Bool := ss < 8
/-- A queue of a die. -/
def okQueue (q : Nat) : Bool := q < 1024
/-- A lock cell of a region. -/
def okCell (c : Nat) : Bool := c < 4096
/-- A slot of a die's slot table. -/
def okSlot (i : Nat) : Bool := i < 131072

def FnKind.ok (k : FnKind) (n : Nat) : Bool :=
  match k with
  | .core => okPhys n
  | .region => okRegion n
  | .stack => okStack n
  | .link => okPort n
  | .host => okHost n

def Requester.ok : Requester → Bool
  | .core n => okCore n
  | .host port part => okHost port && okPart part
  | .dmp => true

def Src.ok : Src → Bool
  | .eng r _ _ => okRing r
  | .win _ => true

def Arb.ok : Arb → Bool
  | .region rr => okRegion rr
  | .egress pp => okPort pp

def Reading.ok : Reading → Bool
  | .region rr k _ => okRegion rr && k < 4
  | .die d k _ => okDie d && k < 4
  | .stack ss _ => okStack ss
  | .alwaysOn _ => true

/-- Requesters of an arbiter: a region's cores by physical number and its region (R333), a die's own sources and the transit
of the other ports (R335). -/
def Arb.okReq (a : Arb) (req : Nat) : Bool :=
  match a with
  | .region _ => req < 9
  | .egress _ => req < 36

/-- The largest transfer of an arbiter (R333). -/
def Arb.most : Arb → Nat
  | .region _ => 4096
  | .egress _ => 4128

/-- An address of memory: bank engines and HBM atomic stages serve no control space (R167, R268). -/
def okBank (addr : Nat) : Bool := field addr 49 48 != 3

/-- Lane formats of a bank add and of an extremum (R167). -/
def okAddFmt (fmt : Nat) : Bool := fmt == 0x04 || fmt == 0x15 || fmt == 0x14
def okExtFmt (fmt : Nat) : Bool := fmt == 0x04 || fmt == 0x15

/-- A command names only structures the package has. -/
def Instr.wf : Instr → Bool
  | .tdCreate r _ => okRing r
  | .tdDestroy r _ => okRing r
  | .tdDestroyDone r _ => okRing r
  | .matmul r _ => okRing r
  | .barometer r _ => okRing r
  | .vchain r _ core => okRing r && okCore core
  | .gather r _ core => okRing r && okCore core
  | .scatter r _ core => okRing r && okCore core
  | .scatterAdd r _ core => okRing r && okCore core
  | .copy r _ => okRing r
  | .compressStore r _ core => okRing r && okCore core
  | .queuePush r _ => okRing r
  | .queuePop r _ => okRing r
  | .queueMark r _ => okRing r
  | .queueRewind r _ => okRing r
  | .queueRelease r _ => okRing r
  | .workGrid r _ => okRing r
  | .signal r _ => okRing r
  | .wait r _ => okRing r
  | .waitPoll r _ => okRing r
  | .waitTimeout r _ => okRing r
  | .windowOpen r _ => okRing r
  | .windowClose r _ => okRing r
  | .windowCloseDone die slot => okDie die && okSlot slot
  | .slotWrite r _ => okRing r
  | .slotRewriteApply die slot => okDie die && okSlot slot
  | .slotRewriteTimeout die slot => okDie die && okSlot slot
  | .almanacSave r _ => okRing r
  | .almanacLoad r _ => okRing r
  | .cmdDb r _ _ => okRing r
  | .cplDb r _ _ => okRing r
  | .ringEnable r _ => okRing r
  | .ringDisable r _ => okRing r
  | .ringDrainDone r => okRing r
  | .entryTake r => okRing r
  | .commandStart r _ => okRing r
  | .commandComplete r _ => okRing r
  | .almanacSeed r _ => okRing r
  | .accRangeAlloc core r _ => okCore core && okRing r
  | .stagingShareAlloc core r _ => okCore core && okRing r
  | .workCounterAlloc r _ _ => okRing r
  | .tileClaim core r _ => okCore core && okRing r
  | .stealHoldExpiry core r _ => okCore core && okRing r
  | .kStep core _ _ => okCore core
  | .pacingWindow core _ => okCore core
  | .tileSwap core _ => okCore core
  | .tileDrain core _ => okCore core
  | .tileVerdict core _ => okCore core
  | .outboundSend core _ => okCore core
  | .bankRead src addr => src.ok && okBank addr
  | .bankWrite src addr _ _ => src.ok && okBank addr
  | .bankAdd src addr fmt _ _ => src.ok && okBank addr && okAddFmt fmt
  | .bankMaxMin src addr _ fmt _ _ => src.ok && okBank addr && okExtFmt fmt
  | .bankMaxMinIndex src addr _ fmt _ _ => src.ok && okBank addr && okExtFmt fmt
  | .bankFetchAdd src addr _ => src.ok && okBank addr
  | .sacRecord src _ _ _ _ => src.ok
  | .sacMerge region ctx => okRegion region && ctx < 64
  | .queueEnable who die q _ => who.ok && okDie die && okQueue q
  | .queueDisable who die q _ => who.ok && okDie die && okQueue q
  | .staleTailNotice die q => okDie die && okQueue q
  | .lockAcquire who region cell => who.ok && okRegion region && okCell cell
  | .lockTest who region cell => who.ok && okRegion region && okCell cell
  | .lockRelease who region cell => who.ok && okRegion region && okCell cell
  | .lockMisuseWrite who region cell => who.ok && okRegion region && okCell cell
  | .scratchpadSplitApply core => okCore core
  | .flitReceive pp _ _ _ => okPort pp
  | .linkRetrain pp _ _ => okPort pp
  | .laneLossOfLock pp lane => okPort pp && lane < 8
  | .laneFecWindow pp lane _ => okPort pp && lane < 8
  | .linkRd _ => true
  | .linkWr _ => true
  | .linkAt _ => true
  | .linkKp _ => true
  | .rdata _ => true
  | .wack _ => true
  | .adata _ => true
  | .refuse _ => true
  | .mgmt _ => true
  | .transitMessage pp _ => okPort pp
  | .remoteTimeout _ => true
  | .arbiterRequest arb _ req _ bytes => arb.ok && arb.okReq req && bytes ≤ arb.most
  | .arbiterCountersClear die => okDie die
  | .oapRead _ _ => true
  | .oapWrite _ _ => true
  | .oapAbort _ _ => true
  | .oapTransferTimeout _ => true
  | .heartbeat => true
  | .faultRingClear _ => true
  | .registerWrite _ _ _ => true
  | .partitionConfigWrite _ _ _ => true
  | .functionEnableWrite kind n _ => kind.ok n
  | .functionStartDone kind n _ => kind.ok n
  | .functionStopDone kind n => kind.ok n
  | .hbmUnitClearDone die unit => okDie die && unit < 252
  | .otpCommit _ => true
  | .otpCommitDone _ => true
  | .firmwareImageWrite _ _ _ => true
  | .fwVerify => true
  | .fwVerifyDone _ => true
  | .fwActivate => true
  | .dmpRestartDone die => okDie die
  | .fwConfirm => true
  | .fwRevert => true
  | .trialTimeout => true
  | .dmpReturnTimeout die => okDie die
  | .warmReset => true
  | .debugChallenge => true
  | .debugToken _ _ => true
  | .coreFence phys _ => okPhys phys
  | .progressBeatTimeout phys => okPhys phys
  | .fenceRetest phys _ => okPhys phys
  | .mirrorRepair _ _ _ => true
  | .retireCopyDone stack => okStack stack
  | .hbmRetrain stack pc _ => okStack stack && pc < 64
  | .d2dModuleDisable pair module => pair < 6 && module < 8
  | .phaseFailure rail => rail < 28
  | .dmpHeartbeat die => okDie die
  | .leadTakeover => true
  | .inputOutOfRange => true
  | .inputRestored => true
  | .powerSample _ _ => true
  | .powerLoopStep => true
  | .powerBrakeAssert => true
  | .powerBrakeRelease => true
  | .brakeReleaseStep => true
  | .thermalSample rs => rs.all Reading.ok
  | .thermalLoopStep => true
  | .adaptiveVoltageStep rr _ => okRegion rr
  | .droopStretch rr _ => okRegion rr
  | .droopStretchEnd rr => okRegion rr
  | .referenceLoss _ => true
  | .referenceHoldoverExpiry => true
  | .inputPowerApplied => true
  | .sysResetAssert => true
  | .sysResetRelease _ => true
  | .bootImageCheck _ _ => true
  | .startupComplete => true
  | .perstAssert port => okHost port
  | .perstRelease port => okHost port
  | .functionLevelReset port part => okHost port && okPart part
  | .inputStorm _ => true
  | .stormQuietEnd _ _ => true
  | .jtagInstruction die _ => okDie die
  | .d2dFlitReceive pair _ _ _ _ => pair < 6
  | .onDieNetworkTransfer die _ => okDie die
  | .oapUnknownCommand _ _ => true
  | .queueWindowCopyDone rr => okRegion rr
  | .warmResetRelease => true
  | .queueControlBlockWrite who die q _ => who.ok && okDie die && okQueue q

end Sys2Proof
end

