-- ==== Sys2Proof/Machine/Ops.lean ====
section
/-! DEFINITION. The named operations over State that every family uses: sparse maps, memory, the dictionary store and its counters,
the functions' states, commands and their completions, the fault log and the service state. -/

namespace Sys2Proof.Machine

abbrev Out := Host.Outcome State Fault Refusal

/-- A meaning answers a next state when its operands name structures the package has, and stops otherwise. -/
def answer (ok : Bool) (s : State) : Out := if ok then .next s else .fault .noSuchStructure

-- ## Sparse maps

def AMap.find {α : Type} : AMap α → Nat → Option α
  | [], _ => none
  | (k, v) :: m, i => if k == i then some v else AMap.find m i

def AMap.getD {α : Type} (m : AMap α) (i : Nat) (d : α) : α := (AMap.find m i).getD d

def AMap.set {α : Type} : AMap α → Nat → α → AMap α
  | [], i, v => [(i, v)]
  | (k, w) :: m, i, v =>
    if i < k then (i, v) :: (k, w) :: m
    else if k == i then (i, v) :: m
    else (k, w) :: AMap.set m i v

def AMap.erase {α : Type} : AMap α → Nat → AMap α
  | [], _ => []
  | (k, w) :: m, i => if k == i then m else (k, w) :: AMap.erase m i

/-- Keys strictly rising. -/
def AMap.wf {α : Type} : AMap α → Bool
  | [] => true
  | [_] => true
  | (a, _) :: (b, w) :: m => decide (a < b) && AMap.wf ((b, w) :: m)

-- ## Memory: bytes at addresses, an unlisted byte reads as zero

def Mem.read : List Host.Cell → Nat → Byte
  | [], _ => 0
  | (k, b) :: m, a => if k == a then b else Mem.read m a

def Mem.write : List Host.Cell → Nat → Byte → List Host.Cell
  | [], a, b => if b == 0 then [] else [(a, b)]
  | (k, c) :: m, a, b =>
    if a < k then (if b == 0 then (k, c) :: m else (a, b) :: (k, c) :: m)
    else if k == a then (if b == 0 then m else (a, b) :: m)
    else (k, c) :: Mem.write m a b

/-- The canonical form: addresses strictly rising, no entry that reads as an unlisted address does. -/
def Mem.wf : List Host.Cell → Bool
  | [] => true
  | [(_, b)] => b != 0
  | (a, b) :: (c, d) :: m => b != 0 && decide (a < c) && Mem.wf ((c, d) :: m)

/-- `n` bytes from `a` as a little-endian number (R5). -/
def Mem.readNat (m : List Host.Cell) (a : Nat) : Nat → Nat
  | 0 => 0
  | n + 1 => (Mem.read m a).toNat + 256 * Mem.readNat m (a + 1) n

/-- The `n` low bytes of `v` written little-endian from `a`. -/
def Mem.writeNat (m : List Host.Cell) (a v : Nat) : Nat → List Host.Cell
  | 0 => m
  | n + 1 => Mem.writeNat (Mem.write m a (BitVec.ofNat 8 v)) (a + 1) (v / 256) n

/-- `n` zero bytes from `a`, by dropping what is listed there. -/
def Mem.clear (m : List Host.Cell) (a n : Nat) : List Host.Cell :=
  m.filter fun c => c.1 < a || a + n ≤ c.1

abbrev bytesOf : Nat → Nat → List Byte := leBytes

def natOf : List Byte → Nat
  | [] => 0
  | b :: bs => b.toNat + 256 * natOf bs

-- ## The dictionary store

/-- How an entry answers a write (R7, R382, R383). `bits` gives the masks of a U32 whose bits have codes of their own. -/
inductive Access where
  | ro
  | rw
  | wo
  | bits (w1c rw sc : Nat)
  deriving DecidableEq, Repr

/-- A row of the dictionary: structures (0 for an entry with subindex 0x00 only), type code (R381), size in bytes, access, whether
it is committable to OTP, reset value. -/
structure OdRow where
  n : Nat
  ty : Nat
  size : Nat
  acc : Access
  cp : Bool
  reset : Nat
  deriving DecidableEq, Repr

def rowU64 (n : Nat) : OdRow := ⟨n, 5, 8, .ro, false, 0⟩

/-- The row of one subindex: 0x1001.03 and .04 are U8 (R384). -/
def OdRow.at_ (row : OdRow) (index sub : Nat) : OdRow := if index == 0x1001 && (sub == 3 || sub == 4) then { row with ty := 2, size := 1 } else row

/-- The dictionary of R62, R86, R119, R136, R166, R194, R222, R245, R266, R302, R332, R342, R371, R384 to R398, R423, R436, R454.
Entries whose value is computed from other state are marked by their reset 0 and read by `odValue`. -/
def odRow (index : Nat) : Option OdRow :=
  match index with
  | 0x1000 => some ⟨0, 9, 16, .ro, false, 0x4E53 + 0x0004 <<< 16 + 0xB0 <<< 40⟩
  | 0x1001 => some ⟨4, 4, 4, .ro, false, 0⟩
  | 0x1008 => some ⟨0, 8, 12, .ro, false, 0x657269755120_6E65696E654A⟩
  | 0x1100 => some ⟨0, 2, 1, .ro, false, 0⟩
  | 0x1101 => some ⟨0, 3, 2, .rw, true, 100⟩
  | 0x1102 => some ⟨0, 2, 1, .rw, true, 1⟩
  | 0x2001 => some ⟨0, 3, 2, .rw, true, 0⟩
  | 0x2010 => some ⟨0, 5, 8, .rw, true, 0⟩
  | 0x2011 => some ⟨4, 9, 128, .rw, true, 0⟩
  | 0x3000 => some ⟨0, 4, 4, .bits 0 0 1, false, 0⟩
  | 0x3001 => some ⟨144, 1, 1, .rw, true, 1⟩
  | 0x3002 => some ⟨16, 1, 1, .rw, true, 1⟩
  | 0x3003 => some ⟨8, 1, 1, .rw, true, 1⟩
  | 0x3004 => some ⟨2, 1, 1, .rw, true, 1⟩
  | 0x3010 => some ⟨0, 9, 0, .wo, false, 0⟩
  | 0x3011 => some ⟨0, 4, 4, .bits 0 0xFFFF0000 0xF, true, 600 <<< 16⟩
  | 0x3110 => some ⟨128, 7, 4, .rw, true, 0x3F933333⟩
  | 0x3111 => some ⟨128, 4, 4, .bits 0 1 0, true, 1⟩
  | 0x3112 => some ⟨128, 7, 4, .rw, true, 0x3C23D70A⟩
  | 0x3113 => some ⟨128, 7, 4, .rw, true, 0x37800000⟩
  | 0x3114 => some ⟨128, 2, 1, .rw, true, 16⟩
  | 0x3120 => some ⟨16, 7, 4, .rw, true, 0x42BE0000⟩
  | 0x3121 => some ⟨16, 3, 2, .rw, true, 20⟩
  | 0x3130 => some ⟨128, 2, 1, .rw, true, 32⟩
  | 0x3131 => some ⟨128, 2, 1, .rw, true, 16⟩
  | 0x3132 => some ⟨128, 2, 1, .rw, true, 16⟩
  | 0x3133 => some ⟨128, 4, 4, .bits 0 1 0, false, 0⟩
  | 0x3141 => some ⟨32, 4, 4, .bits 0 0x1F3 0, true, 0x20⟩
  | 0x3142 => some ⟨4, 4, 4, .rw, true, 100⟩
  | 0x3143 => some ⟨4, 4, 4, .rw, true, 1000⟩
  | 0x3150 => some ⟨4, 9, 8192, .rw, false, 0⟩
  | 0x3160 => some ⟨16, 5, 8, .rw, true, 64 + 256 <<< 16 + 2048 <<< 32 + 512 <<< 48⟩
  | 0x3161 => some ⟨4, 4, 4, .bits 0 0 1, false, 0⟩
  | 0x3170 => some ⟨0, 2, 1, .rw, true, 8⟩
  | 0x3180 => some ⟨0, 3, 2, .rw, true, 1900⟩
  | 0x3181 => some ⟨16, 3, 2, .rw, true, 2250⟩
  | 0x4000 => some ⟨0, 4, 4, .ro, false, 0⟩
  | 0x4001 => some ⟨0, 4, 4, .ro, false, 0⟩
  | 0x4011 => some ⟨144, 2, 1, .ro, false, 0⟩
  | 0x4012 => some ⟨16, 2, 1, .ro, false, 0⟩
  | 0x4013 => some ⟨8, 2, 1, .ro, false, 0⟩
  | 0x4014 => some ⟨32, 2, 1, .ro, false, 0⟩
  | 0x4015 => some ⟨2, 2, 1, .ro, false, 0⟩
  | 0x4105 => some ⟨128, 4, 4, .bits 0x1FF 0 0, false, 0⟩
  | 0x4111 => some ⟨128, 7, 4, .ro, false, 0⟩
  | 0x4140 => some ⟨32, 4, 4, .ro, false, 0⟩
  | 0x4141 => some ⟨32, 4, 4, .bits 3 0 0, false, 0⟩
  | 0x4200 => some ⟨16, 4, 4, .bits 0xF 0 0, false, 0⟩
  | 0x4201 => some ⟨16, 2, 1, .ro, false, 0⟩
  | 0x4202 => some ⟨16, 3, 2, .ro, false, 0⟩
  | 0x4300 => some ⟨4, 4, 4, .bits 0x1F 0 0, false, 0⟩
  | 0x4302 => some ⟨4, 4, 4, .ro, false, 0⟩
  | 0x4400 => some ⟨0, 4, 4, .bits 0x3E 0 0, false, 0⟩
  | 0x4401 => some ⟨0, 4, 4, .bits 0xF 0 0, true, 0⟩
  | 0x4402 => some ⟨0, 4, 4, .ro, false, 0⟩
  | 0x5220 => some ⟨16, 9, 144, .ro, false, 0⟩
  | 0x5410 => some ⟨32, 9, 576, .ro, false, 0⟩
  | 0x5151 => some (rowU64 144)
  | 0x5320 => some (rowU64 8)
  | 0x5321 => some ⟨8, 2, 1, .ro, false, 0⟩
  | 0x5330 => some (rowU64 16)
  | 0x6000 => some ⟨0, 4, 4, .ro, false, 0⟩
  | 0x6001 => some ⟨0, 9, 32768, .ro, false, 0⟩
  | 0x6002 => some ⟨0, 9, 0, .ro, false, 0⟩
  | 0x6003 => some ⟨0, 9, 0, .ro, false, 0⟩
  | 0x6004 => some ⟨0, 4, 4, .bits 0 0 1, false, 0⟩
  | 0x7000 => some ⟨0, 7, 4, .ro, false, 0⟩
  | 0x7001 => some ⟨0, 7, 4, .ro, false, 0⟩
  | 0x7002 => some ⟨0, 7, 4, .ro, false, 0⟩
  | 0x7003 => some ⟨0, 7, 4, .ro, false, 0⟩
  | 0x7010 => some ⟨16, 3, 2, .ro, false, 0⟩
  | 0x7011 => some ⟨16, 3, 2, .ro, false, 0⟩
  | 0x7012 => some ⟨16, 7, 4, .ro, false, 0⟩
  | 0x7013 => some ⟨8, 7, 4, .ro, false, 0⟩
  | 0x7020 => some ⟨0, 7, 4, .ro, false, 0⟩
  | 0x7021 => some ⟨0, 7, 4, .ro, false, 0⟩
  | 0x7030 => some (rowU64 0)
  | 0x8000 => some ⟨16, 4, 4, .ro, false, 0x76543210⟩
  | 0x8001 => some ⟨16, 2, 1, .ro, false, 8⟩
  | 0x8002 => some ⟨16, 3, 2, .ro, false, 0⟩
  | 0xF000 => some ⟨0, 3, 2, .wo, false, 0⟩
  | 0xF001 => some ⟨0, 4, 4, .bits 0x600 0 0, false, 0⟩
  | 0xF010 => some ⟨0, 9, 136, .ro, false, 0⟩
  | 0xF011 => some ⟨0, 9, 241, .wo, false, 0⟩
  | 0xF012 => some ⟨0, 4, 4, .ro, false, 1⟩
  | i =>
    if (0x5104 ≤ i && i ≤ 0x5122) || (0x5130 ≤ i && i ≤ 0x5134) || (0x5140 ≤ i && i ≤ 0x5143) || i == 0x5150 then some (rowU64 128)
    else if 0x5200 ≤ i && i ≤ 0x520A then some (rowU64 16)
    else if (0x5300 ≤ i && i ≤ 0x5306) || (0x5310 ≤ i && i ≤ 0x5314) then some (rowU64 4)
    else if 0x5400 ≤ i && i ≤ 0x5406 then some (rowU64 32)
    else none

/-- Whether a subindex holds a value of its own (R381): 0x00 of an entry with no structures, 1 to n of the others. -/
def odHolds (row : OdRow) (sub : Nat) : Bool := if row.n == 0 then sub == 0 else 1 ≤ sub && sub ≤ row.n

/-- Order code of the package (R1, R384): 0 NJ-Q4-384, 1 NJ-Q4-512. -/
def State.variant (s : State) : Nat := field ((AMap.find s.od (0x1000 * 256)).getD 0) 39 32

/-- HBM units of a die (R271). -/
def State.unitsPerDie (s : State) : Nat := if s.variant == 0 then 189 else 252

/-- Nibbles 0 to n − 1 zero and the rest, up to 256, 0xF: the reset value of 0x2011.dd (R385). -/
def unitMapReset (n : Nat) : Nat := 16 ^ 256 - 16 ^ n

def odDefault (s : State) (index _sub : Nat) : Nat :=
  if index == 0x2011 then unitMapReset s.unitsPerDie
  else match odRow index with | some r => r.reset | none => 0

/-- The stored value of a dictionary entry. -/
def State.odGet (s : State) (index sub : Nat) : Nat :=
  match AMap.find s.od (index * 256 + sub) with
  | some v => v
  | none => odDefault s index sub

def State.odSet (s : State) (index sub v : Nat) : State := { s with od := AMap.set s.od (index * 256 + sub) v }

/-- A U64 counter rises by `n`; past its top it wraps (DESIGN CHOICE, log 8). -/
def State.bump (s : State) (index sub n : Nat) : State := s.odSet index sub ((s.odGet index sub + n) % 2 ^ 64)

/-- A sticky bit is set. -/
def State.setBit (s : State) (index sub bit : Nat) : State := s.odSet index sub (s.odGet index sub ||| 2 ^ bit)

def State.clearBit (s : State) (index sub bit : Nat) : State :=
  let v := s.odGet index sub
  s.odSet index sub (if bitOf v bit then v - 2 ^ bit else v)

-- ## Committable and retained entries (R393, R396)

/-- Whether an entry is committable to OTP. -/
def isCp (index : Nat) : Bool := match odRow index with | some r => r.cp && index != 0x4401 | none => false

/-- Whether the retained store holds an entry: CP, or the storm bits of 0x4401.00 (RT). -/
def isKept (index : Nat) : Bool := isCp index || index == 0x4401

/-- An entry's value goes into the retained store where it differs from its reset value (R396). -/
def State.retain (s : State) (index sub : Nat) : State :=
  if !isKept index then s
  else
    let v := if index == 0x4401 then s.odGet index sub % 16 else s.odGet index sub
    if v == odDefault s index sub then { s with retained := AMap.erase s.retained (index * 256 + sub) }
    else { s with retained := AMap.set s.retained (index * 256 + sub) v }

-- Core entries take subindex core + 1, region entries region + 1, die entries die + 1, and so on (R86, R194, R245).
def State.coreBump (s : State) (index core n : Nat) : State := s.bump index (core + 1) n
def State.coreBit (s : State) (core bit : Nat) : State := s.setBit 0x4105 (core + 1) bit
def State.regionBump (s : State) (index rr n : Nat) : State := s.bump index (rr + 1) n
def State.dieBump (s : State) (index d n : Nat) : State := s.bump index (d + 1) n
def State.dieBit (s : State) (d bit : Nat) : State := s.setBit 0x4300 (d + 1) bit

-- ## Structures

def regionOfCore (c : Nat) : Nat := c / 8
def dieOfCore (c : Nat) : Nat := c / 32
def dieOfRegion (rr : Nat) : Nat := rr / 4

/-- The package identifier (R12). -/
def State.pkg (s : State) : Nat := s.odGet 0x2001 0 % 4096

/-- The partition of a package region, none when 0xF (R385). -/
def State.regionPart (s : State) (rr : Nat) : Option Nat :=
  let n := field (s.odGet 0x2010 0) (4 * rr + 3) (4 * rr)
  if n < 8 then some n else none

/-- The partition of HBM unit `u` of a die (R385). -/
def State.unitPart (s : State) (die u : Nat) : Option Nat :=
  let n := field (s.odGet 0x2011 (die + 1)) (4 * u + 3) (4 * u)
  if n < 8 then some n else none

/-- The physical core that carries a package core number (R391), none while it is unassigned (R11). -/
def State.physOf (s : State) (c : Nat) : Option Nat :=
  let n := field (s.odGet 0x8000 (c / 8 + 1)) (4 * (c % 8) + 3) (4 * (c % 8))
  if n < 9 then some n else none

def State.assigned (s : State) (c : Nat) : Bool := (s.physOf c).isSome

/-- The package core number that a physical core (9 × region + physical) carries. -/
def State.logicalOf (s : State) (phys : Nat) : Option Nat :=
  (List.range 8).findSome? fun l =>
    let c := 8 * (phys / 9) + l
    if s.physOf c == some (phys % 9) then some c else none

/-- A package core number goes to a physical core of its region, or to none (0xF); the core that carried it is remembered with it (R389). -/
def State.setLogical (s : State) (c : Nat) (phys : Nat) : State :=
  { s with carried := match s.physOf c with | some x => AMap.set s.carried (9 * (c / 8) + x) c | none => s.carried }.odSet 0x8000 (c / 8 + 1) (setField (s.odGet 0x8000 (c / 8 + 1)) (4 * (c % 8) + 3) (4 * (c % 8)) phys)

-- ## The functions (R387)

def fnIndex : FnKind → Nat
  | .core => 0x4011
  | .region => 0x4012
  | .stack => 0x4013
  | .link => 0x4014
  | .host => 0x4015

def fnCount : FnKind → Nat
  | .core => 144
  | .region => 16
  | .stack => 8
  | .link => 32
  | .host => 2

/-- The status byte of a function. -/
def State.fnStatus (s : State) (k : FnKind) (n : Nat) : Nat := s.odGet (fnIndex k) (n + 1)

/-- STATE: 0 OFF, 1 STARTING, 2 ON, 3 STOPPING, 4 FAULTED. -/
def State.fnState (s : State) (k : FnKind) (n : Nat) : Nat := s.fnStatus k n % 8

-- ## Requesters that are masked (R336)

/-- Whether a transfer carries a record, which the region DMA carries on when its core is fenced. -/
def ArbReq.isRecord (x : ArbReq) : Bool :=
  match x.out with
  | some e => [0x02, 0x08, 0x09].contains (field e.msg.hdr.toNat 5 0)
  | none => false

/-- Whether a transfer carries a read of a COPY: the region DMA's, under the number of its region's first core (log 65). -/
def State.dmaRead (s : State) (x : ArbReq) : Bool :=
  match x.out with
  | some e => s.txns.any fun t => t.tag == field e.msg.hdr.toNat 43 28 && t.kind == .read
      && s.cmds.any fun c => c.r == t.r && c.p == t.p && field c.entry.toNat 7 0 == 0x23
  | none => false

/-- A requester is masked: its transfer ends where it stands, its requests are ignored but for those that are kept, and no grant is parked on
it. -/
def Arbiter.mask (v : Arbiter) (req : Nat) (keep : ArbReq → Bool := fun _ => false) : Arbiter :=
  let gone (x : ArbReq) : Bool := x.req == req && !keep x
  { v with cur := v.cur.filter fun c => !gone c, waiting := v.waiting.filter fun x => !gone x
           owner := if v.owner == some req then none else v.owner }

def State.maskRegion (s : State) (rr req : Nat) : State :=
  { s with regionArb := s.regionArb.map fun kv => if kv.1 == rr then (kv.1, kv.2.mask req) else kv }

/-- A requester of the egress arbiters of a die is masked at all of them. -/
def State.maskEgress (s : State) (die req : Nat) (keep : ArbReq → Bool := fun _ => false) : State :=
  { s with egressArb := s.egressArb.map fun kv => if kv.1 / 8 == die then (kv.1, kv.2.mask req keep) else kv }

/-- The number by which traffic from a die asks at another die's egress (R333). -/
def ingressReq (fromDie atDie : Nat) : Nat := 32 + (if fromDie < atDie then fromDie else fromDie - 1)

/-- What a die that is fenced asked for at the other dies is masked. -/
def State.maskDie (s : State) (d : Nat) : State :=
  (List.range 4).foldl (fun s e => if e == d then s.maskEgress e 35 else s.maskEgress e (ingressReq d e)) s

/-- A function that goes to a state other than ON is masked at the arbiters it asks (R336). The records of a core that stops or is fenced are still
carried (R389, R407), and the region DMA's own reads stay while its region is ON (DESIGN CHOICE, log 174). -/
def State.maskFn (s : State) (k : FnKind) (n st : Nat) : State :=
  match k with
  | .core =>
    match s.logicalOf n with
    | some c => (s.maskRegion (n / 9) (c % 8)).maskEgress (c / 32) (c % 32) fun x =>
        ((st == 3 || st == 4) && x.isRecord) || (s.fnState .region (n / 9) == 2 && s.dmaRead x)
    | none => s
  | .region => s.maskRegion n 8
  | _ => s

/-- A function's status byte written; STATE of 0x4140.pp follows a link port's (R387), and a port that is neither ON nor STOPPING has no lane and
no mode in use (R309). -/
def State.setFn (s : State) (k : FnKind) (n v : Nat) : State :=
  let s := if v % 8 == 2 then s else s.maskFn k n (v % 8)
  let s := s.odSet (fnIndex k) (n + 1) v
  match k with
  | .link =>
    let st := setField (s.odGet 0x4140 (n + 1)) 2 0 (v % 8)
    s.odSet 0x4140 (n + 1) (if v % 8 == 2 || v % 8 == 3 then st else setField st 14 4 0)
  | _ => s

/-- The enable entry of a function: index, and the bit of a link port's. -/
def State.fnEnabled (s : State) (k : FnKind) (n : Nat) : Bool :=
  match k with
  | .core => s.odGet 0x3001 (n + 1) % 2 == 1
  | .region => s.odGet 0x3002 (n + 1) % 2 == 1
  | .stack => s.odGet 0x3003 (n + 1) % 2 == 1
  | .link => bitOf (s.odGet 0x3141 (n + 1)) 0
  | .host => s.odGet 0x3004 (n + 1) % 2 == 1

def State.setEnable (s : State) (k : FnKind) (n : Nat) (on : Bool) : State :=
  let v := if on then 1 else 0
  match k with
  | .core => s.odSet 0x3001 (n + 1) v
  | .region => s.odSet 0x3002 (n + 1) v
  | .stack => s.odSet 0x3003 (n + 1) v
  | .link => s.odSet 0x3141 (n + 1) (setField (s.odGet 0x3141 (n + 1)) 0 0 v)
  | .host => s.odSet 0x3004 (n + 1) v

/-- Whether the core that carries a package core number is ON. -/
def State.coreOn (s : State) (c : Nat) : Bool :=
  match s.physOf c with
  | some ph => s.fnState .core (9 * (c / 8) + ph) == 2
  | none => false

/-- A core that still works: ON, or STOPPING while its claimed tiles land (R389). -/
def State.coreRuns (s : State) (c : Nat) : Bool :=
  match s.physOf c with
  | some ph => s.fnState .core (9 * (c / 8) + ph) == 2 || s.fnState .core (9 * (c / 8) + ph) == 3
  | none => false

/-- Whether the core that carries a package core number is OFF. -/
def State.coreOff (s : State) (c : Nat) : Bool :=
  match s.physOf c with
  | some ph => s.fnState .core (9 * (c / 8) + ph) == 0
  | none => false

def State.portUp (s : State) (h : Nat) : Bool := s.fnState .host h == 2

/-- The die that holds the lead role (R384). -/
def State.lead (s : State) : Nat := field (s.odGet 0x4000 0) 7 6

-- ## Parts of the state by number

def State.core (s : State) (c : Nat) : Core := AMap.getD s.cores c {}
def State.setCore (s : State) (c : Nat) (v : Core) : State := { s with cores := AMap.set s.cores c v }
def State.ring (s : State) (r : Nat) : Ring := AMap.getD s.rings r {}
def State.setRing (s : State) (r : Nat) (v : Ring) : State := { s with rings := AMap.set s.rings r v }
def State.queue (s : State) (q : Nat) : Queue := AMap.getD s.queues q {}
def State.setQueue (s : State) (q : Nat) (v : Queue) : State := { s with queues := AMap.set s.queues q v }
/-- Slot `slot` of die `die` has the number die × 131,072 + slot. -/
def State.slot (s : State) (i : Nat) : Slot := AMap.getD s.slots i {}
def State.setSlot (s : State) (i : Nat) (v : Slot) : State := { s with slots := AMap.set s.slots i v }
def State.tdEntry (s : State) (i : Nat) : TdEntry := AMap.getD s.td i {}
def State.setTd (s : State) (i : Nat) (v : TdEntry) : State := { s with td := AMap.set s.td i v }
def State.almEntry (s : State) (i : Nat) : Alm := AMap.getD s.alm i {}
def State.setAlm (s : State) (i : Nat) (v : Alm) : State := { s with alm := AMap.set s.alm i v }
def State.sac (s : State) (rr : Nat) : Sac := AMap.getD s.sacs rr {}
def State.setSac (s : State) (rr : Nat) (v : Sac) : State := { s with sacs := AMap.set s.sacs rr v }
def State.port (s : State) (pp : Nat) : Port := AMap.getD s.ports pp {}
def State.setPort (s : State) (pp : Nat) (v : Port) : State := { s with ports := AMap.set s.ports pp v }
def State.lock (s : State) (i : Nat) : Lock := AMap.getD s.locks i {}
def State.setLock (s : State) (i : Nat) (v : Lock) : State := { s with locks := AMap.set s.locks i v }
def State.epoch (s : State) (who : Nat) : Nat := AMap.getD s.epochs who 0
/-- A requester's 8-bit epoch advances (R298). -/
def State.advanceEpoch (s : State) (who : Nat) : State :=
  { s with epochs := AMap.set s.epochs who ((s.epoch who + 1) % 256) }
def State.regionPower (s : State) (rr : Nat) : RegionPower := AMap.getD s.regions rr {}
def State.setRegionPower (s : State) (rr : Nat) (v : RegionPower) : State := { s with regions := AMap.set s.regions rr v }
def State.stack (s : State) (ss : Nat) : Stack := AMap.getD s.hbmStacks ss {}
def State.setStack (s : State) (ss : Nat) (v : Stack) : State := { s with hbmStacks := AMap.set s.hbmStacks ss v }

def State.channel (s : State) : Chan → Channel
  | .can => s.can
  | .mb0 => s.mb0
  | .mb1 => s.mb1

def State.setChannel (s : State) (ch : Chan) (v : Channel) : State :=
  match ch with
  | .can => { s with can := v }
  | .mb0 => { s with mb0 := v }
  | .mb1 => { s with mb1 := v }

-- ## Commands and ops

def Cmd.at_ (c : Cmd) (r p : Nat) : Bool := c.r == r && c.p == p
def Op.at_ (o : Op) (r p : Nat) : Bool := o.r == r && o.p == p

def State.cmd (s : State) (r p : Nat) : Option Cmd := s.cmds.find? fun c => c.at_ r p

def State.updCmd (s : State) (r p : Nat) (f : Cmd → Cmd) : State :=
  { s with cmds := s.cmds.map fun c => if c.at_ r p then f c else c }

def State.op (s : State) (r p : Nat) : Option Op := s.ops.find? fun o => o.at_ r p

def State.updOp (s : State) (r p : Nat) (f : Op → Op) : State :=
  { s with ops := s.ops.map fun o => if o.at_ r p then f o else o }

/-- The first failure of a command stands (R370). -/
def Cmd.fail (c : Cmd) (e : Err) : Cmd := { c with err := some (c.err.getD e) }

/-- A command meets a failure at run time; it still ends only when its work has (R363). -/
def State.cmdError (s : State) (r p : Nat) (e : Err) : State := s.updCmd r p fun c => c.fail e

/-- A command ends with a failure (R357). -/
def State.cmdFail (s : State) (r p : Nat) (e : Err) : State :=
  s.updCmd r p fun c => { c.fail e with phase := .ended }

/-- A command ends with a result and no failure of its own. -/
def State.cmdDone (s : State) (r p : Nat) (result : Nat) : State :=
  s.updCmd r p fun c => { c with phase := .ended, result := result }

def State.cmdPhase (s : State) (r p : Nat) (ph : Phase) : State := s.updCmd r p fun c => { c with phase := ph }

/-- OPCODE of an entry (R356). -/
def Cmd.opcode (c : Cmd) : Nat := c.entry.toNat % 256
def Cmd.tag (c : Cmd) : Nat := field c.entry.toNat 255 224
/-- Body bit b is entry bit b + 256. -/
def Cmd.body (c : Cmd) : Nat := c.entry.toNat >>> 256

/-- Partition of a package ring: R = 64 p + k (R350). -/
def ringPart (r : Nat) : Nat := r / 64
/-- The die that hosts a ring (R350). -/
def ringDie (r : Nat) : Nat := r / 128

/-- Completion detail for a field of the body: DKIND 7, counted from entry bit 0 (R367). -/
def bodyErr (code bit : Nat) : Err := { code := code, dkind := 7, detail := bit + 256 }

/-- The first error of a list of checks in order. -/
def firstErr : List (Option Err) → Option Err
  | [] => none
  | some e :: _ => some e
  | none :: es => firstErr es

def errIf (c : Bool) (e : Err) : Option Err := if c then some e else none

def addrErr (code a : Nat) : Err := { code := code, dkind := 6, detail := a }

/-- The ticket of a claim (R257). -/
def mkTicket (epoch region counter index : Nat) : Ticket :=
  BitVec.ofNat 72 (index % 2 ^ 48 + (counter % 4096) <<< 48 + (region % 16) <<< 60 + (epoch % 256) <<< 64)

/-- A failure at run time names the first failing tile or record, by its claim ticket, where it names nothing else (R367). -/
def Err.named (e : Err) (t : Option Ticket) : Err :=
  match t with
  | some t => if e.dkind == 0 then { e with dkind := 1, detail := t.toNat } else e
  | none => e

def ticketErr (code : Nat) (t : Option Ticket) : Err :=
  match t with
  | some t => { code := code, dkind := 1, detail := t.toNat }
  | none => { code := code }

-- ## The service state (R420)

def State.unassignedCores (s : State) : Nat :=
  ((List.range 128).filter fun c => !s.assigned c).length

def State.narrowedPorts (s : State) : Nat :=
  (s.ports.filter fun kp => kp.2.narrowed || (s.fnState .link kp.1 == 4)).length

/-- The die of the standby lead (R14, R415). -/
def State.standby (s : State) : Nat := if s.lead == 0 then 2 else 0

/-- Whether an update restarts the DMPs, one after the other (R399, R400). -/
def State.restarting (s : State) : Bool := s.fw.upd == .activating || s.fw.upd == .reverting

/-- The condition bits of 0x4001.00 (R420). -/
def State.conditions (s : State) : Nat :=
  let b (i : Nat) (c : Bool) : Nat := if c then 2 ^ i else 0
  b 0 (0 < s.unassignedCores)
  + b 1 (0 < s.narrowedPorts)
  + b 2 (s.d2d.any fun kd => !kd.2.disabled.isEmpty)
  + b 3 (s.fnState .host 0 == 4 || s.fnState .host 1 == 4)
  + b 4 (s.regions.any fun kr => kr.2.railCeil < 2250)
  + b 5 (bitOf (s.odGet 0x4001 0) 5)
  + b 6 (!s.diesFenced.isEmpty)
  + b 7 (s.diesFenced.contains s.standby || s.fw.dmpDown.contains s.standby)
  + b 8 (8 ≤ s.unassignedCores)
  + b 9 (8 ≤ s.narrowedPorts)

def serviceOf (cond : Nat) : Nat :=
  if cond / 16 % 64 != 0 then 3 else if cond % 16 != 0 then 2 else 1

/-- The package serves its dictionary and runs commands: settings are restored (R443). -/
def State.serving (s : State) : Bool := s.boot == .restored || s.boot == .ready

-- ## Clocks and temperatures of a region (R430, R431, R433)

/-- Whether the power brake or the internal brake acts. -/
def State.braked (s : State) : Bool := s.power.brakeIn || s.power.brakePower || s.power.brakeThermal

/-- The set clock of a region in MHz: the lowest ceiling, never below 800. -/
def State.regionMHz (s : State) (rr : Nat) : Nat :=
  let p := s.regionPower rr
  if s.braked then 800
  else max 800 ([p.powerCeil, p.thermalCeil, p.railCeil, p.rampCeil].foldl min (s.odGet 0x3181 (rr + 1)))

def maxInt : List Int → Option Int
  | [] => none
  | a :: as => match maxInt as with
    | none => some a
    | some b => some (max a b)

/-- A region's hottest junction reading in thousandths of a degree, 0 before any reading. -/
def State.regionTemp (s : State) (rr : Nat) : Int := (maxInt ((s.regionPower rr).temps.map (·.2))).getD 0

-- ## The fault log (R418, R419, R379)

/-- The 20-byte fault broadcast (R379). -/
def broadcastBytes (node : Nat) (f : FaultRec) : List Byte :=
  bytesOf (node + f.severity <<< 8 + f.code <<< 32 + (f.seq % 2 ^ 32) <<< 48 + f.dkind <<< 84 + f.detail <<< 88) 20

-- ## MSI-X (R346, R369)

def hostFnKey (port pf : Nat) : Nat := 16 * port + pf
def irqKey (x : Irq) : Nat := hostFnKey x.port x.pf * 2048 + x.vector

/-- Whether a vector waits in its PBA: it is masked, or its function is in D3hot and sends nothing. -/
def State.irqHeld (s : State) (x : Irq) : Bool :=
  bitOf (AMap.getD s.msixTable (irqKey x) 0).toNat 96 || (AMap.getD s.hostFns (hostFnKey x.port x.pf) {}).d3hot

/-- A vector is sent, or its PBA bit is set (R369). -/
def State.sendIrq (s : State) (x : Irq) : State :=
  if s.irqHeld x then { s with pba := if s.pba.contains x then s.pba else s.pba ++ [x] } else { s with msix := s.msix ++ [x] }

def State.sendIrqs (s : State) (xs : List Irq) : State := xs.foldl State.sendIrq s

/-- The functions of a host port that a reset takes: their tables, PBAs and configuration are as after reset (PRESUMED, log 161). -/
def State.resetHostFns (s : State) (port : Nat) (pf : Option Nat) : State :=
  let mine (h f : Nat) : Bool := h == port && match pf with | some x => f == x | none => true
  { s with
    msixTable := s.msixTable.filter fun kv => !mine (kv.1 / 2048 / 16) (kv.1 / 2048 % 16)
    pba := s.pba.filter fun x => !mine x.port x.pf
    hostFns := s.hostFns.filter fun kv => !mine (kv.1 / 16) (kv.1 % 16) }

/-- A broadcast goes out at most once per 10 ms: on CAN FD when the node number is not 0, and by MSI-X vector 1 of PF 0 on every
host port that is up (R379, R380). -/
def State.broadcast (s : State) (f : FaultRec) : State :=
  let due := match s.log.lastBroadcast with | none => true | some t => t + 10000 ≤ s.timeUs
  if s.odGet 0x1102 0 ≤ f.severity && due then
    let node := s.odGet 0x1100 0
    let frame : List CanFrame := if node == 0 then [] else [⟨true, 0x080 * 2 ^ 18 + node, broadcastBytes node f⟩]
    let irqs := ((List.range 2).filter fun h => s.portUp h).map fun h => (⟨h, 0, 1⟩ : Irq)
    { s with canTx := s.canTx ++ frame, log := { s.log with lastBroadcast := some s.timeUs } }.sendIrqs irqs
  else s

def FaultRec.same (a b : FaultRec) : Bool :=
  a.code == b.code && a.kind == b.kind && a.unit == b.unit && a.action == b.action

/-- The records and the retired structures of the flash slots whose tag passes; the others are ignored (R419). -/
def FaultLog.records (l : FaultLog) : List FaultRec := l.persistent.filter fun f => !l.badRecords.contains f.seq
def FaultLog.structures (l : FaultLog) : List (Nat × Nat) := l.retired.filter fun x => !l.badRetired.contains x

/-- The entry that counts of the two halves: the newest whose tag passes (R419). -/
def FaultLog.lifeNow (l : FaultLog) : LifeEntry := (l.life.find? fun e => !e.bad).getD {}

/-- An entry with the values now in force is written to the half that holds the older one (R419). -/
def State.keepLife (s : State) : State :=
  { s with log := { s.log with
      life := { boots := s.log.boots, tempSum := s.power.tempSum, tempCount := s.power.tempCount } :: s.log.life.take 1 } }

/-- One more occurrence of the record made under a LOG_SEQ. -/
def countMerge (seq : Nat) (l : List FaultRec) : List FaultRec :=
  l.map fun g => if g.seq == seq then { g with count := min 65535 (g.count + 1) } else g

def keepLast (n : Nat) (l : List FaultRec) : List FaultRec := l.drop (l.length - n)

/-- Whether the standby lead keeps its copy of the ring: its die is not fenced and its DMP runs. -/
def State.standbyUp (s : State) : Bool := !s.diesFenced.contains s.standby && !s.fw.dmpDown.contains s.standby

/-- A new record is made (R418). The ring holds 1,024 records, and the standby lead a copy; a record of severity 1 or above is also kept in the
persistent log of 8,192 (R419). -/
def State.newRecord (s : State) (f : FaultRec) : State :=
  let f := { f with time := s.timeUs, seq := s.log.nextSeq + 1, boots := s.log.boots, count := 1 }
  let s := { s with log := { s.log with
    ring := keepLast 1024 (s.log.ring ++ [f])
    copy := if s.standbyUp then keepLast 1024 (s.log.copy ++ [f]) else s.log.copy
    recent := s.log.recent ++ [f]
    persistent := if 1 ≤ f.severity then keepLast 8192 (s.log.persistent ++ [f]) else s.log.persistent
    nextSeq := f.seq } }
  (s.odSet 0x6000 0 (f.seq % 2 ^ 32)).broadcast f

/-- A detection makes a fault-log record, or merges into one made within the last second, wherever that is kept (R418). -/
def State.logFault (s : State) (f : FaultRec) : State :=
  let recent := s.log.recent.filter fun g => s.timeUs ≤ g.time + 1000000
  match recent.find? fun g => g.same f with
  | some g =>
    let up := countMerge g.seq
    { s with log := { s.log with
      ring := up s.log.ring, copy := if s.standbyUp then up s.log.copy else s.log.copy, recent := up recent, persistent := up s.log.persistent } }
  | none => { s with log := { s.log with recent := recent } }.newRecord f

/-- A fault-log record of a structure. -/
def State.severity (s : State) (kind unit code action sev : Nat) (e : Err) : State :=
  s.logFault { kind := kind, unit := unit, code := code, action := action, severity := sev, dkind := e.dkind, detail := e.detail }

/-- SERVICE and 0x4001.00 brought up to date once READY is asserted; FAULT_N is low while SERVICE is 3. Each change of SERVICE makes a record
of its own, so that the operator sees it as a fault broadcast (R420, R379; DESIGN CHOICE, log 173: of KIND 0 and severity 3, 1 or 0). -/
def State.refreshService (s : State) : State :=
  if s.boot == .ready then
    let c := s.conditions
    let old := field (s.odGet 0x4000 0) 2 0
    let v := serviceOf c
    let s := s.odSet 0x4001 0 c
    let s := s.odSet 0x4000 0 (setField (s.odGet 0x4000 0) 2 0 v)
    let s := { s with pins := { s.pins with faultN := v != 3 } }
    if old == v then s else s.newRecord { kind := 0, unit := 0, code := 0, action := 0, severity := if v == 3 then 3 else v - 1, dkind := 0, detail := 0 }
  else s

/-- Unit number of a core in the fault log: its physical core. -/
def State.coreUnit (s : State) (core : Nat) : Nat := 9 * (core / 8) + (s.physOf core).getD 0

/-- A detection that ends a command with an error: action 3, severity 2 (R402, R418). -/
def State.lostResult (s : State) (kind unit : Nat) (e : Err) : State := s.severity kind unit e.code 3 2 e

/-- A detection whose loss needs no action (R402, R418). -/
def State.lostQuietly (s : State) (kind unit : Nat) : State := s.severity kind unit 0 0 0 {}

/-- A structure enters the retirement list, which is never overwritten (R419). -/
def State.retire (s : State) (kind unit : Nat) : State :=
  if s.log.retired.contains (kind, unit) then s
  else { s with log := { s.log with retired := s.log.retired ++ [(kind, unit)] } }

/-- A free value is used: the counter it is taken from advances. -/
def State.useFree (s : State) (n : Nat) : State := { s with freeCtr := s.freeCtr + n }

end Sys2Proof.Machine
end

