-- ==== Sys2Proof/Machine/Crypto.lean ====
section
/-! DEFINITION. The cryptography that the spec names: SHA-384 (FIPS 180-4), ECDSA P-384 (FIPS 186-5) and AES-256-XTS (FIPS 197, IEEE 1619). The
standards' constants, and the order of bytes in which the fields of R447 and R451 hold keys and signatures, are log 171's (PRESUMED). -/

namespace Sys2Proof.Machine

-- ## SHA-384

/-- The 80 round constants, the first in the lowest 64 bits. -/
def shaK : Nat :=
  0xab1c5ed5da6d8118923f82a4af194f9b59f111f1b605d0193956c25bf348b538e9b5dba58189dbbcb5c0fbcfec4d3b2f7137449123ef65cd428a2f98d728ae22 +
  0xc19bf174cf6926949bdc06a725c7123580deb1fe3b1696b172be5d74f27b896f550c7dc3d5ffb4e2243185be4ee4b28c12835b0145706fbed807aa98a3030242 <<< 512 +
  0x76f988da831153b55cb0a9dcbd41fbd44a7484aa6ea6e4832de92c6f592b0275240ca1cc77ac9c650fc19dc68b8cd5b5efbe4786384f25e3e49b69c19ef14ad2 <<< 1024 +
  0x142929670a0e6e7006ca6351e003826fd5a79147930aa725c6e00bf33da88fc2bf597fc7beef0ee4b00327c898fb213fa831c66d2db43210983e5152ee66dfab <<< 1536 +
  0x92722c851482353b81c2c92e47edaee6766a0abb3c77b2a8650a73548baf63de53380d139d95b3df4d2c6dfc5ac42aed2e1b21385c26c92627b70a8546d22ffc <<< 2048 +
  0x106aa07032bbd1b8f40e35855771202ad69906245565a910d192e819d6ef5218c76c51a30654be30c24b8b70d0f89791a81a664bbc423001a2bfe8a14cf10364 <<< 2560 +
  0x682e6ff3d6b2b8a35b9cca4f7763e3734ed8aa4ae3418acb391c0cb3c5c95a6334b0bcb5e19b48a82748774cdf8eeb991e376c085141ab5319a4c116b8d2d0c8 <<< 3072 +
  0xc67178f2e372532bbef9a3f7b2c67915a4506cebde82bde990befffa23631e288cc702081a6439ec84c87814a1f0ab7278a5636f43172f60748f82ee5defb2fc <<< 3584 +
  0x1b710b35131c471b113f9804bef90dae0a637dc5a2c898a606f067aa72176fbaf57d4f7fee6ed178eada7dd6cde0eb1ed186b8c721c0c207ca273eceea26619c <<< 4096 +
  0x6c44198c4a4758175fcb6fab3ad6faec597f299cfc657e2a4cc5d4becb3e42b6431d67c49c100d4c3c9ebe0a15c9bebc32caab7b40c7249328db77f523047d84 <<< 4608

/-- The initial hash value of SHA-384. -/
def shaInit : List Nat :=
  [0xcbbb9d5dc1059ed8, 0x629a292a367cd507, 0x9159015a3070dd17, 0x152fecd8f70e5939,
    0x67332667ffc00b31, 0x8eb44a8768581511, 0xdb0c2e0d64f98fa7, 0x47b5481dbefa4fa4]

def rotr (n x : Nat) : Nat := (x >>> n ||| x <<< (64 - n)) % 2 ^ 64

/-- The next word of the message schedule, from the sixteen before it. -/
def shaNext (w : List Nat) : Nat :=
  let a := w.getD 1 0
  let b := w.getD 14 0
  ((rotr 19 b ^^^ rotr 61 b ^^^ b >>> 6) + w.getD 9 0 + (rotr 1 a ^^^ rotr 8 a ^^^ a >>> 7) + w.headD 0) % 2 ^ 64

/-- One round on the eight working words. -/
def shaRound (k w : Nat) (v : List Nat) : List Nat :=
  let x (i : Nat) : Nat := v.getD i 0
  let t1 := x 7 + (rotr 14 (x 4) ^^^ rotr 18 (x 4) ^^^ rotr 41 (x 4)) + ((x 4 &&& x 5) ^^^ ((2 ^ 64 - 1 - x 4) &&& x 6)) + k + w
  let t2 := (rotr 28 (x 0) ^^^ rotr 34 (x 0) ^^^ rotr 39 (x 0)) + ((x 0 &&& x 1) ^^^ (x 0 &&& x 2) ^^^ (x 1 &&& x 2))
  [(t1 + t2) % 2 ^ 64, x 0, x 1, x 2, (x 3 + t1) % 2 ^ 64, x 4, x 5, x 6]

/-- Rounds `t` and on of a block: working words and the schedule's next sixteen words. -/
def shaRounds : Nat → Nat → List Nat → List Nat → List Nat
  | 0, _, _, v => v
  | n + 1, t, w, v => shaRounds n (t + 1) (w.drop 1 ++ [shaNext w]) (shaRound (field shaK (64 * t + 63) (64 * t)) (w.headD 0) v)

/-- A number whose highest byte comes first. -/
def beNat (bs : List Byte) : Nat := bs.foldl (fun a b => 256 * a + b.toNat) 0

/-- The hash value after one more block of 128 bytes. -/
def shaBlock (h : List Nat) (block : List Byte) : List Nat :=
  let w := (List.range 16).map fun i => beNat ((block.drop (8 * i)).take 8)
  (h.zip (shaRounds 80 0 w h)).map fun xy => (xy.1 + xy.2) % 2 ^ 64

def shaBlocks : Nat → List Byte → List Nat → List Nat
  | 0, _, h => h
  | n + 1, bs, h => shaBlocks n (bs.drop 128) (shaBlock h (bs.take 128))

/-- SHA-384 of bytes, as a number with its first byte highest. -/
def sha384 (bs : List Byte) : Nat :=
  let zeros := (111 + 128 - bs.length % 128) % 128
  let padded := bs ++ 0x80#8 :: List.replicate zeros 0#8 ++ (leBytes (8 * bs.length) 16).reverse
  ((shaBlocks (padded.length / 128) padded shaInit).take 6).foldl (fun a w => a * 2 ^ 64 + w) 0

-- ## ECDSA P-384

def p384 : Nat := 2 ^ 384 - 2 ^ 128 - 2 ^ 96 + 2 ^ 32 - 1
def p384B : Nat := 0xb3312fa7e23ee7e4988e056be3f82d19181d9c6efe8141120314088f5013875ac656398d8a2ed19d2a85c8edd3ec2aef
def p384Order : Nat := 0xffffffffffffffffffffffffffffffffffffffffffffffffc7634d81f4372ddf581a0db248b0a77aecec196accc52973
def p384X : Nat := 0xaa87ca22be8b05378eb1c71ef320ad746e1d3b628ba79b9859f741e082542a385502f25dbf55296c3a545e3872760ab7
def p384Y : Nat := 0x3617de4a96262c6f5d9e98bf9292dc29f8f41dbd289a147ce9da3113b5f0b8c00a60b1ce1d7e819d7a431d7c90ea0e5f

/-- A point by its Jacobian coordinates; z = 0 is the point at infinity. -/
structure Point where
  x : Nat
  y : Nat
  z : Nat
  deriving DecidableEq, Repr

/-- A difference modulo p. -/
def subP (a b : Nat) : Nat := (a + p384 - b % p384) % p384

def Point.double (a : Point) : Point :=
  let zz := a.z * a.z % p384
  let m := 3 * (subP a.x zz * (a.x + zz) % p384) % p384
  let yy := a.y * a.y % p384
  let u := 4 * a.x * yy % p384
  let x := subP (m * m) (2 * u)
  ⟨x, subP (m * subP u x) (8 * (yy * yy % p384)), 2 * a.y * a.z % p384⟩

def Point.add (a b : Point) : Point :=
  if a.z == 0 then b else if b.z == 0 then a
  else
    let za := a.z * a.z % p384
    let zb := b.z * b.z % p384
    let u := a.x * zb % p384
    let v := a.y * zb % p384 * b.z % p384
    let h := subP (b.x * za) u
    let r := subP (b.y * za % p384 * a.z) v
    if h == 0 then (if r == 0 then a.double else ⟨1, 1, 0⟩)
    else
      let hh := h * h % p384
      let t := h * hh % p384
      let w := u * hh % p384
      let x := subP (r * r) (t + 2 * w)
      ⟨x, subP (r * subP w x) (v * t), h * a.z % p384 * b.z % p384⟩

/-- k·A + l·B, over bits `n` − 1 down to 0 of both factors. -/
def mulPoints (k l : Nat) (a b ab : Point) : Nat → Point → Point
  | 0, acc => acc
  | n + 1, acc =>
    let d := acc.double
    mulPoints k l a b ab n (match k.testBit n, l.testBit n with
      | true, true => d.add ab
      | true, false => d.add a
      | false, true => d.add b
      | false, false => d)

/-- A power modulo `m`, over bits `n` − 1 down to 0 of the exponent. -/
def powMod (m b e : Nat) : Nat → Nat → Nat
  | 0, acc => acc
  | n + 1, acc => powMod m b e n (let q := acc * acc % m; if e.testBit n then q * b % m else q)

/-- Whether a signature `r`, `s` verifies over a hash under a public key given by its affine coordinates. -/
def ecdsaVerify (hash r s x y : Nat) : Bool :=
  let key : Point := ⟨x, y, 1⟩
  let gen : Point := ⟨p384X, p384Y, 1⟩
  if r == 0 || p384Order ≤ r || s == 0 || p384Order ≤ s || p384 ≤ x || p384 ≤ y
      || y * y % p384 != (x * x % p384 * x + (p384 - 3) * x + p384B) % p384 then false
  else
    let w := powMod p384Order s (p384Order - 2) 384 1
    let k := hash * w % p384Order
    let l := r * w % p384Order
    let t := mulPoints k l gen key (gen.add key) 384 ⟨1, 1, 0⟩
    t.z != 0 && t.x * powMod p384 (t.z * t.z % p384) (p384 - 2) 384 1 % p384 % p384Order == r

/-- Whether the 96 bytes of a signature verify over a message under the 97 bytes of an uncompressed public key. -/
def sigVerifies (sig key msg : List Byte) : Bool :=
  key.headD 0 == 0x04#8
    && ecdsaVerify (sha384 msg) (beNat (sig.take 48)) (beNat ((sig.drop 48).take 48)) (beNat ((key.drop 1).take 48)) (beNat ((key.drop 49).take 48))

-- ## AES-256-XTS. A block is a number with its first byte lowest.

/-- The substitution box, entry 0 in the lowest byte. -/
def aesSbox : Nat :=
  0x75b227ebe28012079a059618c323c7041531d871f1e5a534ccf73f362693fdb7c072a49cafa2d4adf04759fa7dc982ca76abd7fe2b670130c56f6bf27b777c63 +
  0xd2f3ff1021dab6bcf5389d928f40a351a89f3c507f02f94585334d43fbaaefd0cf584c4a39becb6a5bb1fc20ed00d153842fe329b3d63b52a05a6e1b1a2c8309 <<< 512 +
  0x08ae7a65eaf4566ca94ed58d6d37c8e779e4959162acd3c25c2406490a3a32e0db0b5ede14b8ee4688902a22dc4f816073195d643d7ea7c41744975fec130ccd <<< 1024 +
  0x16bb54b00f2d99416842e6bf0d89a18cdf2855cee9871e9b948ed9691198f8e19e1dc186b95735610ef6034866b53e708a8bbd4b1f74dde8c6b4a61c2e2578ba <<< 1536

def subByte (b : Nat) : Nat := field aesSbox (8 * b + 7) (8 * b)
def xtime (b : Nat) : Nat := if b < 128 then 2 * b else (2 * b ^^^ 0x11B)
def byteAt (v i : Nat) : Nat := field v (8 * i + 7) (8 * i)

/-- Bytes `0` to `n` − 1 as a number. -/
def ofBytes (n : Nat) (f : Nat → Nat) : Nat := (List.range n).foldl (fun a i => a + f i <<< (8 * i)) 0

/-- Words 8 and on of the key schedule, from the eight before each. -/
def aesWords : Nat → Nat → Nat → List Nat → List Nat
  | 0, _, _, _ => []
  | n + 1, i, rcon, last =>
    let t := last.getD 7 0
    let g := if i % 8 == 0 then ofBytes 4 (fun j => subByte (byteAt t ((j + 1) % 4))) ^^^ rcon
      else if i % 8 == 4 then ofBytes 4 (fun j => subByte (byteAt t j)) else t
    let w := last.headD 0 ^^^ g
    w :: aesWords n (i + 1) (if i % 8 == 0 then xtime rcon else rcon) (last.drop 1 ++ [w])

/-- The fifteen round keys of a 256-bit key. -/
def aesKeys (key : Nat) : List Nat :=
  let first := (List.range 8).map fun i => field key (32 * i + 31) (32 * i)
  let ws := first ++ aesWords 52 8 1 first
  (List.range 15).map fun r => (List.range 4).foldl (fun a j => a + ws.getD (4 * r + j) 0 <<< (32 * j)) 0

/-- Substitution and row shift. -/
def aesShift (v : Nat) : Nat := ofBytes 16 fun i => subByte (byteAt v ((i + 4 * (i % 4)) % 16))

/-- The mixing of each column. -/
def aesMix (v : Nat) : Nat :=
  ofBytes 16 fun i =>
    let b (j : Nat) : Nat := byteAt v (i / 4 * 4 + (i + j) % 4)
    xtime (b 0) ^^^ xtime (b 1) ^^^ b 1 ^^^ b 2 ^^^ b 3

/-- A block under AES-256. -/
def aes256 (key v : Nat) : Nat :=
  let ks := aesKeys key
  let mid := ((ks.drop 1).take 13).foldl (fun v k => aesMix (aesShift v) ^^^ k) (v ^^^ ks.headD 0)
  aesShift mid ^^^ ks.getD 14 0

/-- The tweak of the next block: a product by the primitive element. -/
def xtsNext (t : Nat) : Nat := if t < 2 ^ 127 then 2 * t else (2 * t % 2 ^ 128) ^^^ 0x87

/-- Blocks `i` and on of a data unit. -/
def xtsBlocks (key v : Nat) : Nat → Nat → Nat → Nat
  | 0, _, _ => 0
  | n + 1, i, t => (aes256 key (field v (128 * i + 127) (128 * i) ^^^ t) ^^^ t) <<< (128 * i) + xtsBlocks key v n (i + 1) (xtsNext t)

/-- AES-256-XTS of a 64-byte data unit: the two AES keys of a 512-bit key, the tweak as the data unit's number. -/
def xts (key tweak : Nat) (plain : BitVec 512) : BitVec 512 :=
  BitVec.ofNat 512 (xtsBlocks (key % 2 ^ 256) plain.toNat 4 0 (aes256 (key / 2 ^ 256 % 2 ^ 256) (tweak % 2 ^ 128)))

end Sys2Proof.Machine
end

