-- ==== Sys2Proof/Machine/Operands.lean ====
section
/-! DEFINITION. The operand forms: global addresses and who owns them, tensor descriptors and where an element lies (03), windows,
the reading of operands with the checks that can stop a read, tile records (04) and the merging of stored elements into records. -/

namespace Sys2Proof.Machine

-- ## Global addresses (R267)

def addrPkg (a : Nat) : Nat := field a 63 52
def addrDie (a : Nat) : Nat := field a 51 50
def addrSpace (a : Nat) : Nat := field a 49 48
def addrOff (a : Nat) : Nat := a % 2 ^ 48
/-- The key of an address in `State.mem`: its die, space and offset. -/
def memKey (a : Nat) : Nat := a % 2 ^ 52

/-- The structure that holds an address, as the fault log names it (R418): the stack, the region or the core (DEDUCED, log 46). -/
def State.siteOf (s : State) (a : Nat) : Nat × Nat :=
  match addrSpace a with
  | 0 => (4, 2 * addrDie a + addrOff a / 256 % 126 % 2)
  | 1 => (2, 4 * addrDie a + field a 31 30)
  | _ => (3, s.coreUnit (32 * addrDie a + addrOff a / 2 ^ 23))

/-- Valid HBM offsets of a die (R267). -/
def State.hbmBound (s : State) : Nat := if s.variant == 0 then 0x17A0000000 else 0x1F80000000

/-- Where the free-use area of a core's scratchpad begins, under the split in force (R275, R277). -/
def State.freeBase (s : State) (c : Nat) : Nat :=
  let sp := (s.core c).split
  (sp.1 + sp.2.1 + sp.2.2) * 65536

/-- Whether a range lies at valid offsets of its memory space (R267). -/
def State.validAt (s : State) (a len : Nat) : Bool :=
  let off := addrOff a
  match addrSpace a with
  | 0 => off + len ≤ s.hbmBound
  | 1 => off < 2 ^ 32 && off % 2 ^ 30 + len ≤ 0x6000000
  | 2 => off < 2 ^ 28 && off % 2 ^ 23 + len ≤ 2 ^ 23
  | _ => false

/-- Whether a range lies in memory that a partition owns in the sense of R53 and R276; an unassigned core has no scratchpad
address (R278). -/
def State.rangeOwned (s : State) (part a len : Nat) : Bool :=
  let die := addrDie a
  let off := addrOff a
  s.validAt a len && match addrSpace a with
  | 0 =>
    let u := off / 2 ^ 29
    let v := (off + max len 1 - 1) / 2 ^ 29
    (List.range (v + 1 - u)).all fun i => s.unitPart die (u + i) == some part
  | 1 => s.regionPart (4 * die + off / 2 ^ 30) == some part
  | 2 =>
    let c := 32 * die + off / 2 ^ 23
    s.freeBase c ≤ off % 2 ^ 23 && s.regionPart (c / 8) == some part && s.assigned c
  | _ => false

/-- The functions that hold an address: the region's memory, or both stacks of the die, which interleave (R269). -/
def holders (a : Nat) : List (FnKind × Nat) :=
  let die := addrDie a
  match addrSpace a with
  | 0 => [(.stack, 2 * die), (.stack, 2 * die + 1)]
  | 1 => [(.region, 4 * die + field a 31 30)]
  | _ => [(.region, 4 * die + field a 27 26)]

/-- Whether the structures that hold an address are ON, as a new command needs them (R389). -/
def State.powered (s : State) (a : Nat) : Bool := (holders a).all fun f => s.fnState f.1 f.2 == 2

/-- Whether the structures that hold an address serve an access: they do until a stop has ended, which waits for the work they had accepted
(R389). -/
def State.serves (s : State) (a : Nat) : Bool := (holders a).all fun f => s.fnState f.1 f.2 == 2 || s.fnState f.1 f.2 == 3

/-- The code of R57 for a range of the package's memory: 0x0301, 0x0304, 0x0303, and 0x0A01 when its owner is not ON (R389). -/
def State.addrCode (s : State) (part a len align : Nat) : Option Nat :=
  if a % align != 0 then some 0x0301
  else if addrPkg a != s.pkg || addrSpace a == 3 then some 0x0304
  else if !s.rangeOwned part a len then some 0x0303
  else if !s.powered a then some 0x0A01
  else none

-- ## Descriptors (R45, R46, R63, R64)

structure Shard where
  count : Nat
  mode : Nat
  block : Nat
  deriving DecidableEq, Repr

/-- A descriptor read from its image and extension. Extents, strides and shards are in storage order. -/
structure Desc where
  fmt : Nat
  rank : Nat
  tiled : Bool
  wr : Bool
  red : Bool
  shx : Bool
  padMode : Nat
  padValue : Nat
  order : List Nat
  base : Nat
  rangeLo : Nat
  rangeLen : Nat
  ext : List Nat
  stride : List Int
  part : Nat
  plist : Nat
  shards : List Shard
  deriving DecidableEq, Repr

def Desc.ofImage (img x part : Nat) : Desc where
  fmt := img % 256
  rank := field img 10 8
  tiled := field img 12 11 == 1
  wr := bitOf img 16
  red := bitOf img 17
  shx := bitOf img 18
  padMode := field img 25 24
  padValue := field img 95 64
  order := (List.range 6).map fun v => field img (34 + 3 * v) (32 + 3 * v)
  base := field img 159 96
  rangeLo := field img 207 160
  rangeLen := field img 255 208
  ext := (List.range 6).map fun d => field img (287 + 128 * d) (256 + 128 * d)
  stride := (List.range 6).map fun d => signed 64 (field img (383 + 128 * d) (320 + 128 * d))
  part := part
  plist := x % 2 ^ 64
  shards := (List.range 6).map fun d =>
    { count := field x (143 + 64 * d) (128 + 64 * d)
      mode := field x (145 + 64 * d) (144 + 64 * d)
      block := field x (191 + 64 * d) (160 + 64 * d) }

def TdEntry.desc (e : TdEntry) : Desc := Desc.ofImage e.image.toNat e.ext.toNat e.part

def handleIndex (h : Nat) : Nat := field h 19 18 * 65536 + h % 65536

/-- The entry that a handle names for a partition: live, of its generation, of the partition (R44). -/
def State.liveHandle (s : State) (part h : Nat) : Option TdEntry :=
  let e := s.tdEntry (handleIndex h)
  if h != 0 && e.st == .live && e.gen == field h 17 16 && e.part == part then some e else none

/-- The descriptor of a handle in body bit `bit`: 0x0106 when stale, 0x0701 with DKIND 3 when its entry fails its check
(R402). -/
def State.desc (s : State) (part h bit : Nat) : Except Err Desc :=
  match s.liveHandle part h with
  | none => .error (bodyErr 0x0106 bit)
  | some e => if e.bad then .error { code := 0x0701, dkind := 3, detail := h } else .ok e.desc

/-- An entry that fails its check enters the dying state (R402). -/
def State.dropBadTd (s : State) (h : Nat) : State :=
  let e := s.tdEntry (handleIndex h)
  if e.bad && e.st == .live then s.setTd (handleIndex h) { e with st := .dying } else s

def Desc.exts (d : Desc) : List Nat := d.ext.take d.rank
/-- Extents in view order. -/
def Desc.view (d : Desc) : List Nat := (d.order.take d.rank).map fun o => d.ext.getD o 0
def Desc.viewExt (d : Desc) (v : Nat) : Nat := d.view.getD v 1
/-- A view index in storage order. -/
def Desc.stored (d : Desc) (idx : List Nat) : List Nat :=
  (List.range d.rank).map fun st =>
    match (d.order.take d.rank).findIdx? (· == st) with
    | some v => idx.getD v 0
    | none => 0
def Desc.elems (d : Desc) : Nat := d.exts.foldl (· * ·) 1

/-- Linear index of an index list in extents, dimension 0 fastest. -/
def linearIndex : List Nat → List Nat → Nat
  | [], _ => 0
  | _, [] => 0
  | e :: es, i :: is => i + e * linearIndex es is

/-- The index that a stochastic rounding takes: stored dimensions, global extents (R38). -/
def Desc.linear (d : Desc) (idx : List Nat) : Nat := linearIndex d.exts (d.stored idx)

/-- The view index of a linear index. -/
def unlinear : List Nat → Nat → List Nat
  | [], _ => []
  | e :: es, n => n % e :: unlinear es (n / e)

-- ## Shards (R65, R66)

/-- Local extent of a dimension of `ext` indices. For an entry that step 15 of R57 refuses (COUNT 0, BLOCK 0, MODE 3) the spec gives none:
a division by 0 gives 0 and MODE 3 the whole extent, so steps 12 and 14 use these (DESIGN CHOICE, log 145). -/
def Shard.localExt (sh : Shard) (ext : Nat) : Nat :=
  match sh.mode with
  | 0 => sh.block
  | 1 => ceilDiv (ceilDiv ext sh.block) sh.count * sh.block
  | _ => ext

def Shard.coord (sh : Shard) (i : Nat) : Nat :=
  match sh.mode with
  | 0 => i / sh.block
  | 1 => i / sh.block % sh.count
  | _ => 0

def Shard.localIdx (sh : Shard) (i : Nat) : Nat :=
  match sh.mode with
  | 0 => i % sh.block
  | 1 => i / (sh.block * sh.count) * sh.block + i % sh.block
  | _ => i

/-- The extents by which one shard is laid out; those of the tensor when it is not sharded. -/
def Desc.localExts (d : Desc) : List Nat :=
  if d.shx then (List.range d.rank).map fun i => (d.shards.getD i ⟨1, 2, 0⟩).localExt (d.ext.getD i 1)
  else d.exts

/-- List entry numbers of all copies of an element, in order of shard coordinates: dimensions from the highest to 0. -/
def copyEntries : List Shard → List Nat → List Nat
  | [], _ => [0]
  | sh :: shs, idx =>
    let rest := copyEntries shs (idx.drop 1)
    let i := idx.headD 0
    rest.flatMap fun l =>
      if sh.mode == 2 then (List.range sh.count).map fun k => k + sh.count * l else [sh.coord i + sh.count * l]

-- ## Where a reader's op reads from

/-- The op and core that read or write, and the op's partition. -/
structure Who where
  r : Nat
  p : Nat
  core : Nat
  part : Nat
  deriving DecidableEq, Repr

/-- A place: an address of the package's memory, or an offset in the windows that hold its copies (package, die, slot). -/
inductive Loc where
  | mem (addr : Nat)
  | win (copies : List (Nat × Nat × Nat)) (off : Nat)
  deriving DecidableEq, Repr

/-- A read of a remote window that has to be sent, or a request at a PENDING window of the package, by the permission bit it needs. -/
structure Want where
  pkg : Nat
  die : Nat
  slot : Nat
  off : Nat
  len : Nat
  bit : Nat
  deriving DecidableEq, Repr

/-- What stops a read: a failed check at an address (`mirror` when both copies of a mirrored tensor failed: the other copy's address, or the same
one where that lies on a fenced die), a header check with its directory entry, data
that has not arrived, or an error that ends the op, with the number of the slot that refused the access if one did. -/
inductive Stop where
  | bad (addr : Nat) (mirror : Option Nat)
  | header (addr detail : Nat)
  | wait (w : Option Want)
  | err (e : Err) (slot : Option Nat := none)
  deriving DecidableEq, Repr

abbrev Rd (α : Type) := Except Stop α

def Rd.bind {α β : Type} (x : Rd α) (f : α → Rd β) : Rd β :=
  match x with
  | .ok a => f a
  | .error e => .error e

/-- A list of reads in order; the first that stops stops them all. -/
def Rd.all {α β : Type} (f : α → Rd β) : List α → Rd (List β)
  | [] => .ok []
  | a :: as => Rd.bind (f a) fun b => Rd.bind (Rd.all f as) fun bs => .ok (b :: bs)

/-- Bytes of the granule that a check code covers: 64 in HBM, 32 in SRAM (R401). -/
def granule (key : Nat) : Nat := if key / 2 ^ 48 % 4 == 0 then 64 else 32

def State.badIn (s : State) (key len : Nat) : Option Nat :=
  s.bad.find? fun g => g < key + len && key < g + granule g

/-- Granules no longer fail their check, nor are they poisoned (R410, R455). -/
def State.mendBy (s : State) (whole : Nat → Bool) : State :=
  { s with bad := s.bad.filter (!whole ·), poisoned := s.poisoned.filter (!whole ·) }

/-- The granules that a write covers whole no longer fail their check (R410, R455). -/
def State.mendRange (s : State) (key len : Nat) : State :=
  s.mendBy fun g => key ≤ g && g + granule g ≤ key + len

/-- Writes and atomic operations close the open groups of the lines they touch (R170). -/
def State.closeGroups (s : State) (key len : Nat) : State :=
  { s with groups := s.groups.filter fun kn => kn.1 + 64 ≤ key || key + len ≤ kn.1 }

/-- Whether a range lies in an HBM unit whose clearing has not ended (R390). -/
def State.clearingIn (s : State) (key len : Nat) : Bool :=
  key / 2 ^ 48 % 4 == 0 && s.clearing.any fun u =>
    u / 256 == key / 2 ^ 50 && u % 256 * 2 ^ 29 < key % 2 ^ 48 + len && key % 2 ^ 48 < (u % 256 + 1) * 2 ^ 29

-- ## A failing HBM sector (R269, R409 to R411)

/-- The stack and its active pseudo-channel that hold an HBM key (R269). -/
def channelOf (key : Nat) : Nat × Nat :=
  let l := key % 2 ^ 48 / 256 % 126
  (2 * (key / 2 ^ 50) + l % 2, l / 2)

/-- Failing sectors of a stack are poisoned: every later read fails until a write of the whole sector. Each is counted once (R410). -/
def State.poison (s : State) (ss : Nat) (keys : List Nat) : State :=
  let fresh := keys.filter fun k => !s.poisoned.contains k
  if fresh.isEmpty then s
  else
    ({ s with poisoned := s.poisoned ++ fresh, bad := s.bad ++ fresh.filter fun k => !s.bad.contains k }.bump 0x5320 (ss + 1) fresh.length).severity
      4 ss 0 8 1 {}

/-- A pseudo-channel is entered in the retirement list, and counts as its stack's retired one (R409, R423). -/
def State.retirePc (s : State) (ss pc : Nat) : State :=
  ((s.retire 5 (64 * ss + pc)).odSet 0x5321 (ss + 1) 1).severity 5 (64 * ss + pc) 0 7 1 {}

/-- The physical pseudo-channel of a stack that carries a logical number: the reserve, physical 63, once it has taken it (R270; DESIGN CHOICE, log
36). -/
def Stack.physical (st : Stack) (pc : Nat) : Nat := if st.reserveUsed == some pc then 63 else pc

/-- A pseudo-channel that meets R409 starts copying into its stack's reserve; with the reserve used it stays in service, its failing
sectors are poisoned and SERVICE becomes 3 (R411). -/
def State.retireChannel (s : State) (ss pc : Nat) : State :=
  let st := s.stack ss
  if st.copying == some pc then s
  else if st.copying.isNone && st.reserveUsed.isNone then ((s.setStack ss { st with copying := some pc }).retirePc ss pc).refreshService
  else
    (((s.poison ss (s.bad.filter fun k => k / 2 ^ 48 % 4 == 0 && channelOf k == (ss, pc))).setBit 0x4001 0 5).severity 5
      (64 * ss + st.physical pc) 0 0 3 {}).refreshService

/-- A sector of HBM fails CRC-32C: the sixteenth distinct sector of a channel within 24 h retires the channel (R409), and in a channel that cannot
be retired, its stack's reserve being used or filled from another channel, the sector is poisoned (R410). -/
def State.sectorFailed (s : State) (key : Nat) : State :=
  let sc := channelOf key
  let st := s.stack sc.1
  let recent := st.failing.filter fun f => f.1 != key && s.timeUs < f.2 + 86400000000
  let s := s.setStack sc.1 { st with failing := (key, s.timeUs) :: recent }
  let s := if st.reserveUsed.isSome || (st.copying.isSome && st.copying != some sc.2) then s.poison sc.1 [key] else s
  let n := (((key, s.timeUs) :: recent).filter fun f => channelOf f.1 == sc).length
  if 16 ≤ n then s.retireChannel sc.1 sc.2 else s

/-- A read meets a granule that fails its check: a sector of HBM counts toward the retirement of its channel. -/
def State.checkFailed (s : State) (g : Nat) : State :=
  if memKey g / 2 ^ 48 % 4 == 0 then s.sectorFailed (memKey g / 64 * 64) else s

/-- An address that fails its check ends a command. -/
def State.lostAt (s : State) (a : Nat) (e : Err) : State := (s.lostResult (s.siteOf a).1 (s.siteOf a).2 e).checkFailed a

/-- Granules that a merge or a read-modify-write meets and that fail their check: each is logged and counted, and keeps failing (R401, R409, R418,
R455). -/
def State.noteGranules (s : State) (touched : Nat → Bool) : State :=
  (s.bad.filter touched).foldl (fun s g => (s.lostQuietly (s.siteOf g).1 (s.siteOf g).2).checkFailed g) s

def State.noteBad (s : State) (key len : Nat) : State := s.noteGranules fun g => g < key + len && key < g + granule g

/-- A write of `len` bytes of the package's memory; where it covers a failing granule in part, the merge meets it (R455). -/
def State.writeRange (s : State) (key len v : Nat) : State :=
  ((({ s with mem := Mem.writeNat s.mem key v len }).mendRange key len).closeGroups key len).noteBad key len

-- ## What the memories hold (R272, R273)

/-- The tweak of an HBM sector: its number, die × 2^42 + offset[47:6] (R272). -/
def sectorTweak (key : Nat) : Nat := key / 2 ^ 50 * 2 ^ 42 + key % 2 ^ 48 / 64

/-- What the cells of an HBM sector hold: the plaintext of `mem` under the key of the partition that owns its unit; none where no partition
does (R272). -/
def State.ciphertext (s : State) (key : Nat) : Option (BitVec 512) := do
  let p ← s.unitPart (key / 2 ^ 50) (key % 2 ^ 48 / 2 ^ 29)
  let k ← AMap.find s.keys p
  return xts k (sectorTweak key) (BitVec.ofNat 512 (Mem.readNat s.mem key 64))

/-- The CRC-32C that guards an HBM sector, over its ciphertext (R272). `State.bad` names the sectors whose cells no longer match theirs. -/
def State.sectorCrc (s : State) (key : Nat) : Option (BitVec 32) := (s.ciphertext key).map fun c => crc32c (leBytes c.toNat 64)

/-- The line of region memory at a key, and the bank and the line of that bank in which it lies (R273). -/
def regionLine (key : Nat) : Nat := key % 2 ^ 30 / 64
def lineBank (l : Nat) : Nat := l % 48
def bankLine (l : Nat) : Nat := l / 48

/-- An address that carries another package's identifier names no memory of this one (R12). -/
def State.foreign (s : State) (a : Nat) : Bool := addrPkg a != s.pkg

/-- Why an access finds no memory of this package: another package's identifier (R12), an offset outside the valid range (R267). -/
def State.placeErr (s : State) (a len : Nat) : Option Err :=
  if s.foreign a then some (addrErr 0x0304 a) else if !s.validAt a len then some (addrErr 0x0303 a) else none

/-- Why an access is not served: it finds no memory, or memory that is OFF (R389), where it names its record's ticket. -/
def State.accessErr (s : State) (a len : Nat) (t : Option Ticket) : Option Err :=
  firstErr [s.placeErr a len, errIf (!s.serves a) (ticketErr 0x0A01 t)]

/-- `len` bytes of the package's memory under the check of their source; memory that is OFF ends the access (R389). -/
def State.readMem (s : State) (a len : Nat) : Rd Nat :=
  let k := memKey a
  match s.accessErr a len none with
  | some e => .error (.err e)
  | none =>
  if s.clearingIn k len then .error (.wait none)
  else match s.badIn k len with
    | some g => .error (.bad g none)
    | none => .ok (Mem.readNat s.mem k len)

-- ## Windows (R320, R321)

def slotIndex (die slot : Nat) : Nat := die * 131072 + slot

/-- Whether an ACL names a package and partition. -/
def aclHas (acl pkg part : Nat) : Bool :=
  (List.range 4).any fun t =>
    let tag := field acl (16 * t + 15) (16 * t)
    bitOf tag 15 && field tag 14 3 == pkg && tag % 8 == part

/-- What a slot table answers a request. -/
inductive Verdict where
  | accepted
  | held
  | refused (code : Nat)
  deriving DecidableEq, Repr

/-- The checks of R321 in order; a slot that fails its check closes (R402). `bit` is the type's permission bit. -/
def Slot.judge (sl : Slot) (bound : Option Nat) (pkg part bit off len : Nat) : Verdict :=
  if sl.bad || sl.st == .free || sl.st == .closing then .refused 0x0401
  else if sl.st == .pending then .held
  else if (match bound with | some g => g != sl.ogen | none => false) then .refused 0x0402
  else if !aclHas sl.acl pkg part || !bitOf sl.perm bit then .refused 0x0403
  else if sl.len < off + len then .refused 0x0404
  else .accepted


def Binding.is (b : Binding) (w : Who) (pkg die slot : Nat) : Bool :=
  b.r == w.r && b.p == w.p && b.pkg == pkg && b.die == die && b.slot == slot

/-- The generation that a core has bound for an op's window (R323). -/
def State.bound (s : State) (w : Who) (pkg die slot : Nat) : Option Nat :=
  ((s.core w.core).bindings.find? fun b => b.is w pkg die slot).map Binding.gen

def OwnReq.is (x : OwnReq) (w : Who) (i off bit : Nat) : Bool := x.r == w.r && x.p == w.p && x.slot == i && x.off == off && x.bit == bit

/-- What a slot of the package answers a request of an op: what it answered when its rewrite ended, for one that it held, and what it says now
otherwise (R321, R325). An op that needs a fenced die ends with 0x0A01 (R416). -/
def State.judgeOwn (s : State) (w : Who) (die slot bit off len : Nat) : Verdict :=
  let i := slotIndex die slot
  match ((s.core w.core).atSlots.find? fun x => x.is w i off bit).bind OwnReq.verdict with
  | some none => .accepted
  | some (some code) => .refused code
  | none => if s.diesFenced.contains die then .refused 0x0A01 else (s.slot i).judge (s.bound w s.pkg die slot) s.pkg w.part bit off len

/-- A binding is made at the first response, or becomes the most recently used; the least recently used of 1,024 is evicted
(R323). -/
def State.bindWindow (s : State) (w : Who) (pkg die slot gen : Nat) : State :=
  let c := s.core w.core
  match c.bindings.find? fun b => b.is w pkg die slot with
  | some b =>
    s.setCore w.core { c with bindings := b :: c.bindings.filter fun b => !b.is w pkg die slot }
  | none =>
    let s := if 1024 ≤ c.bindings.length then s.coreBump 0x5134 w.core 1 else s
    s.setCore w.core { c with bindings := (⟨w.r, w.p, pkg, die, slot, gen⟩ : Binding) :: c.bindings.take 1023 }

/-- What has arrived for an op on a core from a window at an offset: the data, or the code by which the read ended. -/
def State.arrivedAt (s : State) (w : Who) (pkg die slot off len : Nat) : Option (Nat × Nat) :=
  (s.arrived.find? fun a =>
    a.r == w.r && a.p == w.p && a.core == w.core && a.pkg == pkg && a.die == die && a.slot == slot
      && a.off ≤ off && (a.err != 0 || off + len ≤ a.off + a.data.length)).map fun a =>
        (natOf ((a.data.drop (off - a.off)).take len), a.err)

/-- `len` bytes, at most 4,096, of a window: an own-package window is served locally (R67), a remote one by what has arrived. -/
def State.readWinPart (s : State) (w : Who) (pkg die slot off len : Nat) : Rd Nat :=
  if pkg == s.pkg then
    let sl := s.slot (slotIndex die slot)
    match s.judgeOwn w die slot 0 off len with
    | .refused c => .error (.err { code := c } (some (slotIndex die slot)))
    | .held => .error (.wait (some ⟨pkg, die, slot, off, len, 0⟩))
    | .accepted => s.readMem (sl.base + off) len
  else
    match s.arrivedAt w pkg die slot off len with
    | some v => if v.2 == 0 then .ok v.1 else .error (.err { code := v.2 })
    | none => .error (.wait (some ⟨pkg, die, slot, off / 16 * 16, roundUp (off + len) 16 - off / 16 * 16, 0⟩))

/-- `n` parts of 4,080 bytes, so that each part, aligned to 16 bytes, fits the 256 slots of one RD (R315). -/
def State.readWinParts (s : State) (w : Who) (pkg die slot off len : Nat) : Nat → Rd Nat
  | 0 => .ok 0
  | n + 1 =>
    let k := min len 4080
    Rd.bind (s.readWinPart w pkg die slot off k) fun lo =>
      Rd.bind (s.readWinParts w pkg die slot (off + k) (len - k) n) fun hi => .ok (lo + 2 ^ (8 * k) * hi)

def State.readWin (s : State) (w : Who) (pkg die slot off len : Nat) : Rd Nat :=
  s.readWinParts w pkg die slot off len (ceilDiv len 4080)

/-- The copies in the order a read takes them: a copy on the own package first (R67, R241). -/
def State.readOrder (s : State) (copies : List (Nat × Nat × Nat)) : List (Nat × Nat × Nat) :=
  copies.filter (fun c => c.1 == s.pkg) ++ copies.filter (fun c => c.1 != s.pkg)

/-- Whether the copies are those of a mirrored descriptor (R241). -/
def State.mirrored (s : State) (copies : List (Nat × Nat × Nat)) : Bool :=
  match copies with
  | [a, b] => a.1 == s.pkg && b.1 == s.pkg && a.2.1 != b.2.1
  | _ => false

/-- Part of a mirrored read, within one sector of either copy: where copy 0 fails its check or lies on a fenced die, copy 1 serves it (R242,
R416). Where no copy is left that passes, both are lost (R402). -/
def State.readMirror (s : State) (w : Who) (c d : Nat × Nat × Nat) (off len : Nat) : Rd Nat :=
  if s.diesFenced.contains c.2.1 then
    match s.readWin w d.1 d.2.1 d.2.2 off len with
    | .error (.bad a _) => .error (.bad a (some a))
    | x => x
  else match s.readWin w c.1 c.2.1 c.2.2 off len with
  | .error (.bad a _) =>
    if s.diesFenced.contains d.2.1 then .error (.bad a (some a))
    else match s.readWin w d.1 d.2.1 d.2.2 off len with
    | .error (.bad b _) => .error (.bad b (some a))
    | x => x
  | x => x

/-- A mirrored read in `n` parts that end at 16-byte boundaries, so that each lies in one sector of each copy. -/
def State.readMirrors (s : State) (w : Who) (c d : Nat × Nat × Nat) (off len : Nat) : Nat → Rd Nat
  | 0 => .ok 0
  | n + 1 =>
    let k := min len (16 - off % 16)
    Rd.bind (s.readMirror w c d off k) fun lo =>
      Rd.bind (s.readMirrors w c d (off + k) (len - k) n) fun hi => .ok (lo + 2 ^ (8 * k) * hi)

/-- `len` bytes at a place. -/
def State.readLoc (s : State) (w : Who) (l : Loc) (len : Nat) : Rd Nat :=
  match l with
  | .mem a => s.readMem a len
  | .win copies off =>
    match s.readOrder copies with
    | [] => .error (.err { code := 0x0401 })
    | c :: cs =>
      if s.mirrored copies then s.readMirrors w c (cs.headD c) off len ((off % 16 + len + 15) / 16)
      else s.readWin w c.1 c.2.1 c.2.2 off len

def Loc.add (l : Loc) (n : Nat) : Loc :=
  match l with
  | .mem a => .mem (a + n)
  | .win c off => .win c (off + n)

/-- A signed move of a place. -/
def Loc.move (l : Loc) (i : Int) : Loc :=
  match l with
  | .mem a => .mem ((a : Int) + i).toNat
  | .win c off => .win c ((off : Int) + i).toNat

/-- Entries of a package list: the product of the counts (R66). -/
def Desc.copies (d : Desc) : Nat := (d.shards.take d.rank).foldl (fun a sh => a * sh.count) 1

/-- The windows that hold the copies of an element: the entries of the package list, read at access time (R66). -/
def State.copiesOf (s : State) (d : Desc) (sidx : List Nat) : Rd (List (Nat × Nat × Nat)) :=
  Rd.all (fun l =>
    Rd.bind (s.readMem (d.plist + 8 * l) 8) fun e =>
      .ok (e % 4096, field e 13 12, field e 30 14)) (copyEntries (d.shards.take d.rank) sidx)

/-- Where a shard, or the tensor, starts for an element, and the element's local indices. -/
def State.origin (s : State) (d : Desc) (sidx : List Nat) : Rd (Loc × List Nat) :=
  if d.shx then
    Rd.bind (s.copiesOf d sidx) fun cs =>
      .ok (.win cs d.base, (List.range d.rank).map fun i => (d.shards.getD i ⟨1, 2, 0⟩).localIdx (sidx.getD i 0))
  else .ok (.mem d.base, sidx)

/-- Displacement by the strides of dimensions from `d` up. -/
def strideOff (stride : List Int) (idx : List Nat) (d : Nat) : Int :=
  ((stride.zip idx).drop d).foldl (fun acc p => acc + p.1 * (p.2 : Int)) 0

/-- Packet bytes of a scaled format (R30). -/
def packetBytes (fmt : Nat) : Nat := if elemBits fmt == 4 then 272 else 528
def blockBytes (fmt : Nat) : Nat := if elemBits fmt == 4 then 16 else 32

/-- Where an element of a strided tensor lies: its byte, the bit in the byte, and its scale byte for a scaled format. -/
structure Place where
  loc : Loc
  bit : Nat := 0
  scale : Option Loc := none
  deriving DecidableEq, Repr

/-- Placement along dimension 0 (R30, R31, R51). -/
def placeIn (fmt : Nat) (row : Loc) (i0 : Nat) : Place :=
  if isScaled fmt then
    let pk := row.add (i0 / 512 * packetBytes fmt)
    let j := i0 % 512 / 32
    { loc := pk.add (16 + j * blockBytes fmt + i0 % 32 * elemBits fmt / 8)
      bit := i0 % 32 * elemBits fmt % 8
      scale := some (pk.add j) }
  else { loc := row.add (i0 * elemBits fmt / 8), bit := i0 * elemBits fmt % 8 }

/-- The place of an element of a strided tensor, by its storage-order index. -/
def State.place (s : State) (d : Desc) (sidx : List Nat) : Rd Place :=
  Rd.bind (s.origin d sidx) fun o =>
    let row := o.1.move (strideOff d.stride o.2 1)
    let i0 := if d.stride.getD 0 1 == 0 then 0 else o.2.getD 0 0
    .ok (placeIn d.fmt row i0)

/-- An element as read: its code, and its scale byte (127, which is 1, for an unscaled format). -/
structure Elem where
  code : Nat
  scale : Nat := 127
  deriving DecidableEq, Repr

def State.readPlace (s : State) (w : Who) (fmt : Nat) (pl : Place) : Rd Elem :=
  let bits := elemBits fmt
  Rd.bind (s.readLoc w pl.loc (ceilDiv bits 8)) fun v =>
    let code := v / 2 ^ pl.bit % 2 ^ bits
    match pl.scale with
    | none => .ok { code := code }
    | some sl => Rd.bind (s.readLoc w sl 1) fun sc => .ok { code := code, scale := sc }

/-- The value of an element as read (R34). -/
def Elem.val (fmt : Nat) (e : Elem) : Val :=
  if isScaled fmt then scaledVal fmt e.scale e.code else decodeVal (fmtD fmt) e.code

/-- The pad of a descriptor (R60). An E8M0 tensor, for which the table has no column, takes its pads by the conversion of R39
(DEDUCED, log 146). -/
def Desc.pad (d : Desc) : Elem :=
  let f := fmtD d.fmt
  let intCol := isInt d.fmt || d.fmt == 0x21 || d.fmt == 0x22
  let v : Val := if intCol then Val.ofInt (signed 32 d.padValue) else decodeVal fp32 d.padValue
  match d.padMode with
  | 0 => { code := (encode f 0 0 Val.zero).1 }
  | 1 =>
    if isScaled d.fmt then
      let sc := blockScale d.fmt [v]
      { code := (blockElem d.fmt sc 0 0 v).1, scale := sc }
    else { code := (encode f 0 0 v).1 }
  | m => { code := (encodeInf f false (m == 2)).1, scale := if isScaled d.fmt then 0xFE else 127 }

/-- Whether the conversion of PAD_VALUE saturates (R40, R60). -/
def Desc.padSat (d : Desc) : Bool :=
  let v : Val := if isInt d.fmt || d.fmt == 0x21 || d.fmt == 0x22 then Val.ofInt (signed 32 d.padValue) else decodeVal fp32 d.padValue
  d.padMode == 1 && (if isScaled d.fmt then (blockElem d.fmt (blockScale d.fmt [v]) 0 0 v).2 else (encode (fmtD d.fmt) 0 0 v).2)

-- ## Tile records (R68 to R85)

/-- Ones' complement sum of 16-bit words with the carry added back (R76). -/
def onesSum : List Nat → Nat
  | [] => 0
  | w :: ws =>
    let t := w + onesSum ws
    t % 65536 + t / 65536

def words16 (v n : Nat) : List Nat := (List.range n).map fun i => field v (16 * i + 15) (16 * i)

/-- The check field that makes `n` words pass (R76, R70). -/
def hchk (v n : Nat) : Nat := 0xFFFF - onesSum (words16 v n)

def hchkOk (v n : Nat) : Bool := onesSum (words16 v n) == 0xFFFF

def Desc.t0 (d : Desc) : Nat := ceilDiv (d.localExts.getD 0 1) 128
def Desc.t1 (d : Desc) : Nat := ceilDiv (d.localExts.getD 1 1) 128
/-- Directory size in bytes (R69). -/
def Desc.dirSize (d : Desc) : Nat := roundUp (16 + 8 * d.t0 * d.t1) 16

/-- N and M of an NMCODE (R75). -/
def nmOf (code : Nat) : Option (Nat × Nat) :=
  match code with
  | 1 => some (1, 4)
  | 2 => some (2, 4)
  | 3 => some (2, 8)
  | 4 => some (4, 8)
  | 5 => some (4, 16)
  | 6 => some (8, 16)
  | _ => none

/-- Metadata bytes of a record by TFMT and NMCODE (R75, R78). -/
def metaBytes (tf nm : Nat) : Nat :=
  match tf with
  | 1 => 16
  | 2 => match nmOf nm with | some (n, m) => 128 * (64 * n / m) | none => 0
  | 3 => 2048
  | _ => 0

/-- Values bytes of `n` packed elements, padded to 16 (R78); DENSE of a scaled format holds 32 packets (R80). -/
def valBytes (fmt tf n : Nat) : Nat :=
  if isScaled fmt then
    if tf == 0 then 32 * packetBytes fmt else if tf == 4 then 0 else 512 + roundUp (ceilDiv (n * elemBits fmt) 8) 16
  else roundUp (ceilDiv (n * elemBits fmt) 8) 16

/-- A tile as read: its route information and, for each present position 128 r + c, its element. A position that is not listed is
absent; a dropped element is listed as a zero (R84). -/
structure Tile where
  tfmt : Nat
  nmcode : Nat := 0
  nnz : Nat := 0
  rowsNz : Nat := 0
  colsNz : Nat := 0
  /-- DENSE: the record itself holds the elements. -/
  dense : Option Nat := none
  present : AMap Elem := []
  dropped : Nat := 0
  /-- The 512 scale bytes of a compressed record of a scaled format. -/
  scales : Option Nat := none
  deriving DecidableEq, Repr

/-- An element of DENSE values held in the number `v` (R78, R80). -/
def denseElem (fmt v pos : Nat) : Elem :=
  if isScaled fmt then
    let r := pos / 128
    let c := pos % 128
    let base := 8 * (r / 4 * packetBytes fmt)
    let j := r % 4 * 4 + c / 32
    let eb := base + 8 * (16 + j * blockBytes fmt) + c % 32 * elemBits fmt
    { code := v / 2 ^ eb % 2 ^ elemBits fmt, scale := v / 2 ^ (base + 8 * j) % 256 }
  else { code := v / 2 ^ (pos * elemBits fmt) % 2 ^ elemBits fmt }

/-- The scale byte of the block of a position in a compressed record's values section. -/
def scaleAt (v pos : Nat) : Nat := v / 2 ^ (8 * (pos / 128 * 4 + pos % 128 / 32)) % 256

/-- An element that a record does not hold: it reads as +0, under the scale of its block; under 1 where that scale would make it a NaN. In
E8M0, which has no zero, it reads as code 0 (DESIGN CHOICE, log 197). -/
def absentElem (scales : Option Nat) (pos : Nat) : Elem :=
  { code := 0, scale := ((scales.map (scaleAt · pos)).filter (· != 0xFF)).getD 127 }

/-- The element of a tile at a position (R78). -/
def Tile.get (t : Tile) (fmt pos : Nat) : Elem :=
  match t.dense with
  | some v => denseElem fmt v pos
  | none =>
    (AMap.find t.present pos).getD (absentElem t.scales pos)

/-- The slots of one NM group in order: the columns kept, as (column, value number) pairs, and the columns dropped. A slot is dropped when
its column is not below M or not above the previous slot's (R82), where the previous slot is the one before it, dropped or not. -/
def nmSlots (m : Nat) (prev : Option Nat) (n : Nat) : List Nat → List (Nat × Nat) × List Nat
  | [] => ([], [])
  | c :: cs =>
    let r := nmSlots m (some c) (n + 1) cs
    let ok := c < m && (match prev with | some q => q < c | none => true)
    if ok then ((c, n) :: r.1, r.2) else (r.1, c :: r.2)

/-- Present positions of a record with the number of each one's value, in value order, and the positions of dropped slots: a dropped slot
whose column is not below M has no position in its group, and counts under the number of no position, 16,384. -/
def presentList (tf nm mt : Nat) : List (Nat × Nat) × List Nat :=
  match tf with
  | 1 =>
    let blocks := (List.range 128).filter fun b => bitOf mt b
    ((blocks.zipIdx.flatMap fun bk =>
      (List.range 128).map fun e =>
        ((bk.1 / 8 * 8 + e / 16) * 128 + bk.1 % 8 * 16 + e % 16, bk.2 * 128 + e)), [])
  | 2 =>
    match nmOf nm with
    | none => ([], [])
    | some (n, m) =>
      let groups := 128 / m
      let parts := (List.range (128 * groups)).map fun rg =>
        let r := rg / groups
        let j := rg % groups
        let cols := (List.range n).map fun sl =>
          field mt (8 * (r * (64 * n / m)) + 4 * (j * n + sl) + 3) (8 * (r * (64 * n / m)) + 4 * (j * n + sl))
        let g := nmSlots m none (rg * n) cols
        (g.1.map (fun cv => (128 * r + j * m + cv.1, cv.2)), g.2.map fun c => if c < m then 128 * r + j * m + c else 16384)
      (parts.flatMap (·.1), parts.flatMap (·.2))
  | 3 => (((List.range 16384).filter fun e => bitOf mt e).zipIdx, [])
  | _ => ([], [])

/-- Header fields in bounds (R72, R73, R74, R81). -/
def headerOk (fmt h recLen : Nat) : Bool :=
  let tf := h % 16
  let nm := field h 7 4
  let mo := field h 47 32
  let vo := field h 63 48
  let rl := field h 79 64
  let n := match tf with
    | 0 => 16384
    | 2 => match nmOf nm with | some (a, b) => 16384 * a / b | none => 0
    | _ => 0
  tf ≤ 4 && (if tf == 2 then (nmOf nm).isSome else nm == 0)
    && field h 239 96 == 0 && field h 15 8 == fmt && (fmt != 0x40 || tf == 0)
    && rl == recLen && 2 ≤ mo && mo + metaBytes tf nm / 16 ≤ vo && vo + valBytes fmt tf n / 16 ≤ rl
    && field h 30 16 ≤ 16384 && field h 87 80 ≤ 128 && field h 95 88 ≤ 128

/-- The end of a descriptor's range at a place of its directory base. -/
def Desc.inRange (d : Desc) (l : Loc) (len : Nat) : Bool :=
  let o := match l with | .mem a => addrOff a | .win _ off => off
  d.rangeLo ≤ o && o + len ≤ d.rangeLo + d.rangeLen

/-- The record of a tile at a directory's base (R82): the tile, or what stops it. A ZERO record has no values section, and what follows its
header is in no section (R72). A dropped element is present and reads as +0 (R82, R84,
R97); of two kept slots of an NM group that name one column, which can follow a dropped slot, the later one's value stands (DESIGN CHOICE,
log 147). A record too short for a header is a bad header, and no byte beyond it is read. `opnd` is 0 A or SRC, 1 B, 2 C or DST (R367);
`dirNo` the linear number of the directory. -/
def State.readRecord (s : State) (w : Who) (d : Desc) (dir : Loc) (tt0 tt1 opnd dirNo : Nat) : Rd Tile :=
  let detail := (tt0 + d.t0 * tt1) + opnd <<< 48 + min dirNo 0x3FFFFF <<< 50
  let at_ (code : Nat) : Stop := .err { code := code, dkind := 2, detail := detail }
  let ent := dir.add (16 + 8 * (tt0 + d.t0 * tt1))
  let locNo (l : Loc) : Nat := match l with | .mem a => a | .win _ o => o
  Rd.bind (s.readLoc w dir 16) fun dh =>
  Rd.bind (s.readLoc w ent 8) fun e =>
  if !hchkOk dh 8 then .error (.header (locNo dir) detail)
  else
    let off := field e 63 24
    let len := field e 23 8
    if dh % 2 ^ 32 != d.t0 || field dh 63 32 != d.t1 || field dh 111 64 != 0 || e % 256 != 0 then .error (at_ 0x0207)
    else if len == 0 then (if off == 0 then .ok { tfmt := 4 } else .error (at_ 0x0207))
    else
      let rec_ := dir.add (16 * off)
      if !d.inRange rec_ (16 * len) then .error (at_ 0x0302)
      else if len < 2 then .error (at_ 0x0206)
      else
        Rd.bind (s.readLoc w rec_ 32) fun h =>
        if !hchkOk h 16 then .error (.header (locNo rec_) detail)
        else if !headerOk d.fmt h len then .error (at_ 0x0206)
        else
          let tf := h % 16
          let nm := field h 7 4
          let vo := field h 63 48
          Rd.bind (s.readLoc w rec_ (16 * len)) fun r =>
          let mt := r / 2 ^ (128 * field h 47 32) % 2 ^ (8 * metaBytes tf nm)
          let vs := r / 2 ^ (128 * vo)
          let hd : Tile :=
            { tfmt := tf, nmcode := nm, nnz := field h 30 16, rowsNz := field h 87 80, colsNz := field h 95 88 }
          if tf == 0 then .ok { hd with dense := some vs }
          else
            let pl := presentList tf nm mt
            let scaled := isScaled d.fmt
            let start := if scaled then 4096 else 0
            let room := (128 * (len - vo) - start) / elemBits d.fmt
            let held := pl.1.filter fun pv => pv.2 < room
            let lost := (pl.1.filter fun pv => room ≤ pv.2).map (·.1) ++ pl.2
            let scales := if scaled && tf != 4 then some (vs % 2 ^ 4096) else none
            let zeros := (lost.filter (· < 16384)).foldl (fun m pos => AMap.set m pos (absentElem scales pos)) []
            .ok { hd with
              present := held.foldl (fun m pv =>
                AMap.set m pv.1
                  { code := vs / 2 ^ (start + pv.2 * elemBits d.fmt) % 2 ^ elemBits d.fmt
                    scale := if scaled then scaleAt vs pv.1 else 127 }) zeros
              dropped := lost.length
              scales := scales }

/-- The tile that holds a storage-order index: its directory's place, its coordinates and the directory's number. -/
def State.tileAt (s : State) (d : Desc) (sidx : List Nat) : Rd (Loc × Nat × Nat × Nat × List Nat) :=
  Rd.bind (s.origin d sidx) fun o =>
    let dir := o.1.move (strideOff d.stride o.2 2)
    .ok (dir, o.2.getD 0 0 / 128, o.2.getD 1 0 / 128, linearIndex (d.exts.drop 2) (sidx.drop 2), o.2)

-- ## Reading an element of any tensor

/-- The element at a storage-order index inside the extents. -/
def State.readStored (s : State) (w : Who) (d : Desc) (opnd : Nat) (sidx : List Nat) : Rd Elem :=
  if d.tiled then
    Rd.bind (s.tileAt d sidx) fun t =>
    Rd.bind (s.readRecord w d t.1 t.2.1 t.2.2.1 opnd t.2.2.2.1) fun tl =>
      .ok (tl.get d.fmt (t.2.2.2.2.getD 1 0 % 128 * 128 + t.2.2.2.2.getD 0 0 % 128))
  else Rd.bind (s.place d sidx) fun pl => s.readPlace w d.fmt pl

/-- Whether a view index lies inside the extents. -/
def Desc.inside (d : Desc) (idx : List Nat) : Bool := (idx.zip d.view).all fun p => p.1 < p.2

/-- The element at a view index: the pad outside the extents (R60). -/
def State.readElem (s : State) (w : Who) (d : Desc) (opnd : Nat) (idx : List Nat) : Rd Elem :=
  if d.inside idx then s.readStored w d opnd (d.stored idx) else .ok d.pad

def State.readVal (s : State) (w : Who) (d : Desc) (opnd : Nat) (idx : List Nat) : Rd Val :=
  Rd.bind (s.readElem w d opnd idx) fun e => .ok (e.val d.fmt)

/-- An index from data, clamped to an extent (R62): the position, and whether it was clamped. -/
def clampIndex (i : Int) (ext : Nat) : Nat × Bool :=
  if i < 0 then (0, true) else if (ext : Int) ≤ i then (ext - 1, true) else (i.toNat, false)

/-- The index at position `j` of an index tensor (R61). -/
def State.readIndex (s : State) (w : Who) (d : Desc) (ext j : Nat) : Rd (Nat × Bool) :=
  Rd.bind (s.readElem w d 0 [j]) fun e => .ok (clampIndex (signed (elemBits d.fmt) e.code) ext)

/-- The windows of the own package that a tensor's reads touch are bound to their opening (R323). -/
def State.bindLocal (s : State) (w : Who) (copies : List (Nat × Nat × Nat)) : State :=
  copies.foldl (fun s c =>
    if c.1 == s.pkg then s.bindWindow w c.1 c.2.1 c.2.2 (s.slot (slotIndex c.2.1 c.2.2)).ogen else s) s

/-- The copies that a read of the element at a view index touches: the first, and of a mirrored tensor the second as well where a granule of the
first's window fails its check (R241). None for a tensor that is not sharded. -/
def State.windowsAt (s : State) (d : Desc) (idx : List Nat) : List (Nat × Nat × Nat) :=
  if d.shx then
    match s.copiesOf d (d.stored idx) with
    | .ok cs =>
      match s.readOrder cs with
      | c :: c2 :: _ =>
        let sl := s.slot (slotIndex c.2.1 c.2.2)
        if c.1 == s.pkg && s.mirrored cs && (s.badIn (memKey sl.base) sl.len).isSome then [c, c2] else [c]
      | l => l
    | .error _ => []
  else []

/-- The shard entry of a view dimension. -/
def Desc.shardOf (d : Desc) (v : Nat) : Shard := if d.shx then d.shards.getD (d.order.getD v v) ⟨1, 2, 0⟩ else ⟨1, 2, 0⟩

/-- Of `n` indices of a view dimension from `lo`, those inside the extent at which the range or a shard begins. -/
def Desc.shardStarts (d : Desc) (v lo n : Nat) : List Nat :=
  ((List.range n).map (lo + ·)).filter fun i =>
    i < d.viewExt v && (i == lo || (d.shardOf v).coord i != (d.shardOf v).coord (i - 1))

/-- A view index for each shard that a box of indices reaches. The box gives a first index and a number for each view dimension from `v` on. -/
def Desc.boxIdx (d : Desc) : Nat → List (Nat × Nat) → List (List Nat)
  | _, [] => [[]]
  | v, b :: bs => (d.shardStarts v b.1 b.2).flatMap fun i => (d.boxIdx (v + 1) bs).map (i :: ·)

/-- The windows of the own package that reads of a tensor at view indices touch are bound (R323). -/
def State.bindSweep (s : State) (w : Who) (d : Desc) (idxs : List (List Nat)) : State :=
  if d.shx then idxs.foldl (fun s i => s.bindLocal w (s.windowsAt d i)) s else s

/-- What a step or a part of a chunk reads: tensors with view indices. -/
abbrev Reads := List (Desc × List (List Nat))

def State.bindReads (s : State) (w : Who) (xs : Reads) : State := xs.foldl (fun s x => s.bindSweep w x.1 x.2) s

-- ## Records of stored elements

/-- A line's nibble mask for `bits` bits at bit position `b` of the line. -/
def nibbleMask (b bits : Nat) : Nat := (2 ^ (bits / 4) - 1) * 2 ^ (b / 4)

/-- A store of `bits` bits of `v` at a place, as one record: at most one line (R29, R167). -/
def storeDest (l : Loc) (bit bits v : Nat) : Dest :=
  match l with
  | .mem a =>
    let o := a % 64
    .store (a - o) (BitVec.ofNat 512 (v <<< (8 * o + bit))) (BitVec.ofNat 128 (nibbleMask (8 * o + bit) bits))
  | .win cs off =>
    let o := off % 64
    .window cs (off - o) (BitVec.ofNat 512 (v <<< (8 * o + bit))) (BitVec.ofNat 128 (nibbleMask (8 * o + bit) bits))

/-- Two stores into one line as one record: the later one's nibbles win. -/
def expandNibbles (n : BitVec 128) : BitVec 512 :=
  BitVec.ofNat 512 ((List.range 128).foldl (fun acc i => if bitOf n.toNat i then acc + 15 <<< (4 * i) else acc) 0)

def mergeLine (d₁ : Line) (n₁ : BitVec 128) (d₂ : Line) (n₂ : BitVec 128) : Line × BitVec 128 :=
  let m := expandNibbles n₂
  ((d₁ &&& ~~~m) ||| (d₂ &&& m), n₁ ||| n₂)

def mergeDest (a b : Dest) : Option Dest :=
  match a, b with
  | .store a₁ d₁ n₁, .store a₂ d₂ n₂ =>
    if a₁ == a₂ then let m := mergeLine d₁ n₁ d₂ n₂; some (.store a₁ m.1 m.2) else none
  | .window c₁ o₁ d₁ n₁, .window c₂ o₂ d₂ n₂ =>
    if c₁ == c₂ && o₁ == o₂ then let m := mergeLine d₁ n₁ d₂ n₂; some (.window c₁ o₁ m.1 m.2) else none
  | _, _ => none

/-- Records in order, neighbours of one line joined. -/
def joinDests : List Dest → List Dest
  | [] => []
  | a :: rest =>
    match joinDests rest with
    | [] => [a]
    | b :: bs => match mergeDest a b with
      | some c => c :: bs
      | none => a :: b :: bs

/-- How stored dimension 0 is sharded: one part when it is not. -/
def Desc.shard0 (d : Desc) : Shard := if d.shx then d.shards.getD 0 ⟨1, 2, 0⟩ else ⟨1, 2, 0⟩

/-- The global index of a local index of the shard at a coordinate (R65). -/
def Shard.globalIdx (sh : Shard) (coord l : Nat) : Nat :=
  match sh.mode with
  | 0 => coord * sh.block + l
  | 1 => l / sh.block * (sh.block * sh.count) + coord * sh.block + l % sh.block
  | _ => l

/-- The block of a scaled row that holds a global index: its shard's coordinate and its number in the shard's row (R31, R32). -/
def Desc.blockAt (d : Desc) (i : Nat) : Nat × Nat := (d.shard0.coord i, d.shard0.localIdx i / 32)

/-- The global indices inside the extent that a block holds, in the order of the block. -/
def Desc.blockItems (d : Desc) (b : Nat × Nat) : List Nat :=
  (((List.range 32).map fun k => 32 * b.2 + k).filter fun l => l < d.localExts.getD 0 1).map (d.shard0.globalIdx b.1)
    |>.filter fun i => i < d.ext.getD 0 1

/-- Whether the blocks of a scaled row are runs of 32 indices of the whole tensor. -/
def Desc.wholeBlocks (d : Desc) : Bool := d.shard0.mode == 2 || d.shard0.block % 32 == 0

/-- Whether a global index is the last that its shard holds along a dimension of extent `ext` (R65). -/
def Shard.lastUsed (sh : Shard) (ext i : Nat) : Bool :=
  i + 1 == ext || (match sh.mode with
    | 0 => (i + 1) % sh.block == 0
    | 1 => (i + 1) % sh.block == 0 && ext ≤ (i / sh.block + sh.count) * sh.block
    | _ => false)

/-- Beside the last element of a scaled row, a store writes the positions beyond it as zero and their unused scale bytes as 0x7F, to the
end of the row's packets (R32). -/
def State.padRecs (s : State) (d : Desc) (sidx : List Nat) : Rd (List Dest) :=
  if !isScaled d.fmt || !d.shard0.lastUsed (d.ext.getD 0 1) (sidx.headD 0) then .ok []
  else Rd.bind (s.origin d sidx) fun o =>
    let row := o.1.move (strideOff d.stride o.2 1)
    let used := o.2.headD 0 + 1
    let stop := 512 * ceilDiv (d.localExts.getD 0 1) 512
    let elems := (List.range (stop - used)).map fun k =>
      let pl := placeIn d.fmt row (used + k)
      storeDest pl.loc pl.bit (elemBits d.fmt) 0
    let scales := (List.range (stop / 32 - ceilDiv used 32)).flatMap fun k =>
      match (placeIn d.fmt row (32 * (ceilDiv used 32 + k))).scale with
      | some l => [storeDest l 0 8 0x7F]
      | none => []
    .ok (joinDests (scales ++ elems))

/-- The record, or records where it crosses a line, that store `n` bytes of `v` at a place. -/
def storeBytes (l : Loc) (v : Nat) (n : Nat) : List Dest :=
  joinDests ((List.range n).map fun i => storeDest (l.add i) 0 8 (v / 2 ^ (8 * i) % 256))

/-- The record of an unscaled element. -/
def State.storeElem (s : State) (d : Desc) (idx : List Nat) (code : Nat) : Rd (List Dest) :=
  Rd.bind (s.place d (d.stored idx)) fun pl => .ok [storeDest pl.loc pl.bit (elemBits d.fmt) code]

end Sys2Proof.Machine
end

