-- ==== Sys2Proof/Machine/Flags.lean ====
section
/-! DEFINITION. The flags: the FLAGS bits of a completion (R366), the status word of a tile (R162), and the completion record
(R365). -/

namespace Sys2Proof.Machine

/-- Bits of FLAGS (R366). Bits 0 to 5 are also bits 0 to 5 of a tile's status word. -/
def flagOVF : Nat := 0
def flagNONFINITE : Nat := 1
def flagCHK_EXCL : Nat := 2
def flagEMPTY : Nat := 3
def flagAUDITED : Nat := 4
def flagAUDIT_MISS : Nat := 5
def flagREPLAYED : Nat := 6
def flagRESCALED : Nat := 7
def flagSATURATED : Nat := 8
def flagCLAMPED : Nat := 9
def flagDEGRADED : Nat := 10
def flagCOLD : Nat := 11
def flagMETA_DROP : Nat := 12
def flagPRUNED : Nat := 13
def flagDEP_ERR : Nat := 14

/-- A flag mask of one bit when a condition holds. -/
def flagIf (c : Bool) (bit : Nat) : Nat := if c then 2 ^ bit else 0

/-- A command earns flags; it keeps every flag it has earned (R366). -/
def State.addFlags (s : State) (r p f : Nat) : State := s.updCmd r p fun c => { c with flags := c.flags ||| f }

/-- A SIGNAL whose sum stands at its limit of 2^64 − 1 is flagged (R40): the old value tells it, here or in the response. -/
def State.flagSum (s : State) (r p old amount : Nat) : State := s.addFlags r p (flagIf (decide (2 ^ 64 ≤ old + amount)) flagSATURATED)

/-- PHASE of completion record `n` in a ring of `2^log2` slots (R365). -/
def cplPhase (n log2 : Nat) : Nat := 1 - n / 2 ^ log2 % 2

/-- The 32-byte completion record of a command (R365). -/
def Cmd.record (c : Cmd) (n log2 : Nat) : Nat :=
  let e := c.err.getD ⟨0, 0, 0⟩
  c.opcode + cplPhase n log2 <<< 8 + (c.p % 65536) <<< 16 + c.tag <<< 32 + (c.flags % 2 ^ 32) <<< 64
    + (e.code % 65536) <<< 96 + (e.dkind % 16) <<< 116 + (e.detail % 2 ^ 72) <<< 120 + (c.result % 2 ^ 64) <<< 192

end Sys2Proof.Machine
end

