-- ==== Sys2Proof/Machine/Commands.lean ====
section
/-! DEFINITION. What the commands of a ring share: the body's fields and their checks, running a command in its phase, and the
handles a command names. -/

namespace Sys2Proof.Machine

/-- A field of the body, as the body layouts number their bits. -/
def Cmd.f (c : Cmd) (hi lo : Nat) : Nat := field c.body hi lo

def Cmd.part (c : Cmd) : Nat := ringPart c.r

/-- The first reserved field of a body that is set, with a validation's code for it. `rs` lists the fields from bit 0 up. -/
def Cmd.reservedErr (c : Cmd) (code : Nat) (rs : List (Nat × Nat)) : Option Err :=
  (rs.find? fun hl => c.f hl.1 hl.2 != 0).map fun hl => bodyErr code hl.2

/-- An address field's check, reported as a validation failure (R367). -/
def State.bodyAddr (s : State) (part a len align bit : Nat) : Option Err :=
  (s.addrCode part a len align).map fun code => bodyErr code bit

/-- The command at (r, p), when it has started (R362) and carries this opcode: an event of any other command is not enabled and
changes nothing (log 11). -/
def State.started (s : State) (r p opcode : Nat) (f : Cmd → State) : State :=
  match s.cmd r p with
  | some c => if c.phase == .started && c.opcode == opcode then f c else s
  | none => s

/-- The command at (r, p), when its op runs. -/
def State.running (s : State) (r p opcode : Nat) (f : Cmd → State) : State :=
  match s.cmd r p with
  | some c => if c.phase == .running && c.opcode == opcode then f c else s
  | none => s

/-- A command that ends with its check's error, or goes on. -/
def State.orFail (s : State) (c : Cmd) (e : Option Err) (f : State) : State :=
  match e with
  | some e => s.cmdFail c.r c.p e
  | none => f

/-- The checks of a control input as an engine reads it: its place (R12, R267), and its granules, of which the command's second read fails as the
first did (R456). -/
def State.controlErr (s : State) (a len : Nat) : Option Err :=
  firstErr [s.placeErr a len, (s.badIn (memKey a) len).map fun g => addrErr 0x0701 (g + s.pkg <<< 52)]

/-- What a command's validation read and lost is logged; a table entry that fails its check enters the dying state (R402, R418). -/
def State.noteLost (s : State) (e : Err) : State :=
  if e.code != 0x0701 then s
  else if e.dkind == 3 then (s.dropBadTd e.detail).lostResult 1 (field e.detail 19 18) e
  else s.lostAt e.detail e

/-- The first of `n` numbers from a free starting point that is not taken: which free structure an allocation gets is open
(log 12). -/
def State.pickFree (s : State) (n : Nat) (taken : Nat → Bool) : Option Nat :=
  let start := Config.freePick s.freeCtr n % n
  ((List.range n).map fun i => (start + i) % n).find? fun i => !taken i

/-- The address of a body's chain block (R163, R204), 0 for none. -/
def Cmd.chainAddr (c : Cmd) : Nat := match c.opcode with | 0x10 => c.f 191 128 | 0x12 => c.f 255 192 | _ => 0

/-- The chain block at an address: a header of 32 bytes and the stages that it counts (R197, R198). -/
def State.chainAt (s : State) (a : Nat) : Nat :=
  Mem.readNat s.mem (memKey a) (32 + 16 * min 8 (Mem.readNat s.mem (memKey a) 1 % 16))

/-- Handles a command's body names, by its opcode's layout (R163, R128, R204, R173, R87). -/
def Cmd.bodyHandles (c : Cmd) : List Nat :=
  (match c.opcode with
  | 0x10 => [c.f 19 0, c.f 39 20, c.f 59 40, c.f 79 60, c.f 99 80, c.f 383 364, c.f 403 384, c.f 703 684]
  | 0x11 => [c.f 19 0, c.f 39 20, c.f 59 40, c.f 79 60, c.f 99 80]
  | 0x12 => [c.f 19 0, c.f 39 20, c.f 59 40, c.f 79 60, c.f 99 80, c.f 119 100, c.f 139 120]
  | 0x20 => [c.f 19 0, c.f 39 20, c.f 59 40]
  | 0x21 => [c.f 19 0, c.f 39 20, c.f 59 40, c.f 85 66]
  | 0x22 => [c.f 19 0, c.f 39 20, c.f 59 40]
  | 0x24 => [c.f 19 0, c.f 39 20]
  | _ => []).filter (· != 0)

end Sys2Proof.Machine
end

