-- ==== Sys2Proof/Machine/Almanac.lean ====
section
/-! DEFINITION. The Almanac (10_training_numerics.md): entries and their images, pushes, seeding, ALMANAC_SAVE and ALMANAC_LOAD. -/

namespace Sys2Proof.Machine

def almIndex (die e : Nat) : Nat := die * 16384 + e

-- ## An entry and its image (R225)

def Alm.bits (a : Alm) : Nat :=
  (a.hist.zipIdx.foldl (fun acc h => acc + (h.1 % 2 ^ 32) <<< (32 * h.2)) 0)
    + (if a.valid then 1 else 0) <<< 576 + (a.head % 16) <<< 604 + (a.count % 32) <<< 608 + (a.margin % 8) <<< 613
    + unsigned 8 a.use <<< 616 + unsigned 8 a.next <<< 624 + (a.fmt % 256) <<< 632

def Alm.ofBits (v : Nat) (owner : Option Nat) : Alm where
  hist := (List.range 16).map fun i => field v (32 * i + 31) (32 * i)
  valid := bitOf v 576
  head := field v 607 604
  count := field v 612 608
  margin := field v 615 613
  use := signed 8 (field v 623 616)
  next := signed 8 (field v 631 624)
  fmt := field v 639 632
  owner := owner

/-- Whether ALMANAC_LOAD refuses an image entry (R240). -/
def almImageBad (v : Nat) : Bool :=
  field v 767 640 != 0 || field v 603 577 != 0 || field v 575 512 != 0 || 16 < field v 612 608
    || field v 623 616 == 0x80 || field v 631 624 == 0x80 || (0 < field v 612 608 && (fmax (field v 639 632)).isNone)

-- ## Choosing the scale (R228)

/-- A history slot as it enters H: a NaN takes no part, +∞ counts as the largest finite FP32 value. -/
def histVal (w : Nat) : Option Val :=
  match decodeVal fp32 w with
  | .nan _ _ => none
  | v => some v.finitised

def maxVal : List Val → Option Val
  | [] => none
  | v :: vs => match maxVal vs with
    | none => some v
    | some w => some (if v.lt w then w else v)

/-- H: the largest of the slots in use. -/
def Alm.peak (a : Alm) : Option Val :=
  maxVal ((List.range a.count).filterMap fun i => histVal (a.hist.getD ((a.head + 15 - i) % 16) 0))

def clampExp (i : Int) : Int := max (-127) (min 127 i)

/-- E_NEXT for a history maximum, when it is above 0. -/
def scaleFor (h : Option Val) (margin fmt : Nat) : Option Int :=
  match h, fmax fmt with
  | some (.fin false m e), some fm =>
    if m == 0 then none else some (clampExp (ceilLog2 m fm.1 + e - fm.2 + (margin : Int)))
  | _, _ => none

/-- A value enters the history and E_NEXT follows (R228, R232). -/
def Alm.enter (a : Alm) (m : Nat) : Alm :=
  let a := { a with hist := a.hist.set a.head m, head := (a.head + 1) % 16, count := min 16 (a.count + 1) }
  match scaleFor a.peak a.margin a.fmt with
  | some x => { a with next := x }
  | none => a

/-- A push of an op's maximum: FMT is the destination's, E_USE the op's snapshot of E_NEXT (R228). -/
def Alm.push (a : Alm) (m fmt : Nat) (snap : Int) : Alm := { { a with fmt := fmt }.enter m with use := snap }

/-- S of a synthetic push (R232), in FP32: `fmax · 2^(E_USE + j − MARGIN)`, at most the largest finite value. -/
def synthetic (a : Alm) (j : Nat) : Nat :=
  match fmax a.fmt with
  | some fm =>
    (encodeWith true fp32 0 0 (.fin false fm.1 (fm.2 + a.use + (j : Int) - (a.margin : Int)))).1
  | none => 0

/-- The seed of a pre-pass that found the maximum `m` (R235): E_NEXT by R228, or 0 for a maximum of 0. -/
def Alm.seed (a : Alm) (m fmt : Nat) : Alm :=
  let a := { a with hist := a.hist.set 0 m, head := 1, count := 1, fmt := fmt, valid := true }
  let x := (scaleFor a.peak a.margin fmt).getD 0
  { a with next := x, use := x }

/-- An access to an entry that fails its check loses it (R234). -/
def State.touchAlm (s : State) (die e : Nat) : State :=
  let a := s.almEntry (almIndex die e)
  if a.bad then (((s.setAlm (almIndex die e) { a with bad := false, valid := false }).dieBit die 0).dieBump 0x5300 die 1).lostQuietly 1 die
  else s

/-- A push that is discarded into an invalid entry is counted (R234). -/
def State.pushAlm (s : State) (die e : Nat) (f : Alm → Alm) : State :=
  let s := s.touchAlm die e
  let a := s.almEntry (almIndex die e)
  if a.valid then s.setAlm (almIndex die e) (f a) else s.dieBump 0x5302 die 1

/-- The synthetic push of a rescaled tile (R232): made when FMT has a maximum and E_NEXT would rise. -/
def State.syntheticPush (s : State) (die e j : Nat) : State :=
  s.pushAlm die e fun a =>
    let b := a.enter (synthetic a j)
    if (fmax a.fmt).isSome && a.next < b.next then b else a

-- ## The commands (R237 to R240)

def Cmd.almDie (c : Cmd) : Nat := c.f 127 126
def Cmd.almNum (c : Cmd) : Nat := c.f 125 111
def Cmd.almFirst (c : Cmd) : Nat := c.f 110 97

/-- The first entry of a range that a partition may not save or load (R238). -/
def State.almForeign (s : State) (c : Cmd) (save : Bool) : Option Nat :=
  ((List.range c.almNum).map fun i => c.almFirst + i).find? fun e =>
    match (s.almEntry (almIndex c.almDie e)).owner with
    | some p => p != c.part
    | none => save

def State.almErr (s : State) (c : Cmd) (save : Bool) : Option Err :=
  let a := c.f 63 0
  let range := c.almNum == 0 || 16384 < c.almFirst + c.almNum
  firstErr [
    c.reservedErr 0x0101 [(96, 64), (767, 128)],
    errIf range (bodyErr 0x0111 (if c.almNum == 0 then 111 else 97)),
    s.bodyAddr c.part a (96 * c.almNum) 16 0,
    errIf (addrSpace a == 2) (bodyErr 0x0303 0),
    if range then none
    else (s.almForeign c save).map fun e => { code := 0x0113, dkind := 5, detail := e }]

/-- Entries are written to memory in order (R239); what the image covers whole no longer fails its check (R410), what it covers in part is met by a
merge (R455). -/
def State.almSave (s : State) (c : Cmd) : State :=
  let key := memKey (c.f 63 0)
  let len := 96 * c.almNum
  let s := (List.range c.almNum).foldl (fun s i =>
    let e := c.almFirst + i
    let s := s.touchAlm c.almDie e
    { s with mem := Mem.writeNat s.mem (key + 96 * i) (s.almEntry (almIndex c.almDie e)).bits 96 }) s
  ((s.mendRange key len).closeGroups key len).noteBad key len

def effAlmanacSave (r p : Nat) (s : State) : State :=
  s.started r p 0x60 fun c =>
    s.orFail c (s.almErr c true)
      (if s.clearingIn (memKey (c.f 63 0)) (96 * c.almNum) then s
       else s.orFail c (errIf (s.foreign (c.f 63 0)) (addrErr 0x0304 (c.f 63 0))) ((s.almSave c).cmdDone r p 0))

/-- ALMANAC_SAVE (R239). -/
def execAlmanacSave (r p : Nat) (s : State) : Out := answer (okRing r) (effAlmanacSave r p s)

/-- Whether a running op holds a snapshot of an entry of a die (R240); `dieOf` gives an op's Almanac die. -/
def State.almDieOf (s : State) (r p : Nat) : Nat :=
  match s.cmd r p with
  | some c => field (c.f 59 40) 19 18
  | none => 4

def State.snapshotHeld (s : State) (die first num : Nat) : Bool :=
  s.ops.any fun o => s.almDieOf o.r o.p == die && o.snaps.any fun x => first ≤ x.entry && x.entry < first + num

/-- The image of a load, entry `i`. -/
def State.almImage (s : State) (c : Cmd) (i : Nat) : Nat := Mem.readNat s.mem (memKey (c.f 63 0) + 96 * i) 96

def State.almLoad (s : State) (c : Cmd) : State :=
  (List.range c.almNum).foldl (fun s i =>
    s.setAlm (almIndex c.almDie (c.almFirst + i)) (Alm.ofBits (s.almImage c i) (some c.part))) s

def effAlmanacLoad (r p : Nat) (s : State) : State :=
  s.started r p 0x61 fun c =>
    let a := memKey (c.f 63 0)
    s.orFail c (s.almErr c false)
      (if s.clearingIn a (96 * c.almNum) || s.snapshotHeld c.almDie c.almFirst c.almNum then s
      else match s.controlErr (c.f 63 0) (96 * c.almNum) with
        | some e => (s.lostAt a e).cmdFail r p e
        | none =>
          match (List.range c.almNum).find? fun i => almImageBad (s.almImage c i) with
          | some i => s.cmdFail r p { code := 0x0112, dkind := 5, detail := c.almFirst + i }
          | none => (s.almLoad c).cmdDone r p 0)

/-- ALMANAC_LOAD: the whole image is checked before any entry is written (R240); held while a running op holds a snapshot of its
range. -/
def execAlmanacLoad (r p : Nat) (s : State) : Out := answer (okRing r) (effAlmanacLoad r p s)

/-- Whether a started ALMANAC_LOAD of a die names an entry: ops that name it are held at issue (R240). -/
def State.loadPending (s : State) (die e : Nat) : Bool :=
  s.cmds.any fun c => c.opcode == 0x61 && c.phase == .started && c.almDie == die && c.almFirst ≤ e && e < c.almFirst + c.almNum

end Sys2Proof.Machine
end

