-- ==== Sys2Proof/Machine/Arbiters.lean ====
section
/-! DEFINITION. The arbiters of region ports and link egress (14_arbitration.md): ranking, parking, preemption, turn estimates and
counters. They decide when a transfer moves, never what it does. -/

namespace Sys2Proof.Machine

/-- Bytes per cycle (R333). -/
def arbRate : Arb → Nat
  | .region _ => 256
  | .egress _ => 128

def State.arbiter (s : State) : Arb → Arbiter
  | .region rr => AMap.getD s.regionArb rr {}
  | .egress pp => AMap.getD s.egressArb pp {}

def State.setArbiter (s : State) (a : Arb) (v : Arbiter) : State :=
  match a with
  | .region rr => { s with regionArb := AMap.set s.regionArb rr v }
  | .egress pp => { s with egressArb := AMap.set s.egressArb pp v }

/-- The die of an arbiter. -/
def arbDie : Arb → Nat
  | .region rr => rr / 4
  | .egress pp => pp / 8

/-- The instruction that a die's TAP holds, none after a reset of the TAP: a low TRST_N holds it in reset (R438). -/
def State.tapIr (s : State) (die : Nat) : Option Nat := if s.pins.jtag.trstN then AMap.find s.dbg.tap die else none

/-- Whether JTAG holds a die: its TAP has an instruction that takes the pins or the logic from the package (DESIGN CHOICE, log 160). -/
def State.tested (s : State) (die : Nat) : Bool := (s.tapIr die).any fun ir => Config.jtagClass (BitVec.ofNat 8 ir) != 0

/-- Whether a fence runs in a region: records of a core that no longer works are still carried (R407). -/
def State.fenceRuns (s : State) (rr : Nat) : Bool :=
  (List.range 8).any fun i => !(s.core (8 * rr + i)).outq.isEmpty && !s.coreRuns (8 * rr + i)

/-- Whether the region DMA still has records of a fenced core to carry, also once a spare has the core's number (R407). -/
def State.carriesRecords (s : State) (rr : Nat) : Bool :=
  (List.range 8).any fun i =>
    let k := s.core (8 * rr + i)
    k.outq.any fun x => k.units.any fun u => u.id == x.unit && u.carried

/-- Whether the lead role is moving: management requests go unanswered (R343, R415). -/
def State.leadMoves (s : State) : Bool := s.timeUs < s.fw.leadUntil

/-- Start-up, test and recovery, in which a grant is taken away only at a 256-byte boundary (R339). -/
def State.gentle (s : State) (a : Arb) : Bool :=
  s.boot != .ready || s.tested (arbDie a)
    || (match a with
        | .region rr => s.fenceRuns rr || s.copyingWindows.any fun c => c.1 / 9 == rr
        | .egress pp => (s.port pp).retraining || s.leadMoves)

/-- The die from which an egress requester's traffic comes (R333). -/
def ingressDie (atDie req : Nat) : Nat := if req - 32 < atDie then req - 32 else req - 31

/-- Whether a requester's request is masked (R336). -/
def State.arbMasked (s : State) (a : Arb) (req : Nat) : Bool :=
  match a with
  | .region rr => if req < 8 then !s.coreOn (8 * rr + req) else s.fnState .region rr != 2
  | .egress pp =>
    if req < 32 then !s.coreOn (32 * (pp / 8) + req)
    else if req < 35 then s.diesFenced.contains (ingressDie (pp / 8) req)
    else s.diesFenced.contains (pp / 8) || s.fw.dmpDown.contains (pp / 8)

/-- Slack of a kind of traffic at a region port (R342). -/
def State.slack (s : State) (rr : Nat) (k : Traffic) : Nat :=
  let v := s.odGet 0x3160 (rr + 1)
  match k with
  | .demand => field v 15 0
  | .outbound => field v 31 16
  | .fetchAhead => field v 47 32
  | .dma => field v 63 48

/-- Latest-service time of a request made at a cycle (R334). The region DMA carries a fenced core's records at "now" (R339). -/
def State.latest (s : State) (a : Arb) (cycle req : Nat) (k : Traffic) : Nat :=
  match a with
  | .region rr => (cycle + (if req == 8 && k == .outbound && (s.fenceRuns rr || s.carriesRecords rr) then 0 else s.slack rr k)) % 2 ^ 24
  | .egress _ => 0

/-- Whether a request ranks above another requester's (R333, R334). -/
def outranks (a : Arb) (owner : Option Nat) (x y : ArbReq) : Bool :=
  match a with
  | .egress _ => y.req < x.req
  | .region _ =>
    let d := signed 24 (x.latest + 2 ^ 24 - y.latest)
    if x.req == y.req then false
    else if d != 0 then d < 0
    else if owner == some x.req then true
    else if owner == some y.req then false
    else x.req < y.req

/-- The first request of each requester: a requester's transfers keep the order in which it issued them (R338). -/
def firstReqs (w : List ArbReq) : List ArbReq := w.foldl (fun l x => if l.any fun y => y.req == x.req then l else l ++ [x]) []

/-- The highest-ranked of a list of requests. -/
def topReq (a : Arb) (owner : Option Nat) : List ArbReq → Option ArbReq
  | [] => none
  | x :: xs =>
    match topReq a owner xs with
    | none => some x
    | some y => if outranks a owner y x then some y else some x

/-- The highest-ranked of the requests that wait; of one requester's, the first. -/
def bestReq (a : Arb) (owner : Option Nat) (w : List ArbReq) : Option ArbReq := topReq a owner (firstReqs w)

def Arbiter.rec_ (v : Arbiter) (req : Nat) (f : ArbRec → ArbRec) : Arbiter :=
  { v with recs := AMap.set v.recs req (f (AMap.getD v.recs req {})) }

/-- A grant, at a cycle (R341). -/
def Arbiter.give (v : Arbiter) (x : ArbReq) (cycle : Nat) : Arbiter :=
  { v with cur := some { x with granted := cycle }, owner := some x.req }.rec_ x.req fun r =>
    { r with grants := min (2 ^ 48 - 1) (r.grants + 1) }

/-- A transfer completes: its message is committed (R335), and LONGEST covers the time to the grant under which it did (R341). -/
def Arbiter.finish (v : Arbiter) (x : ArbReq) : Arbiter :=
  { v with cur := none, committed := v.committed ++ x.out.toList }.rec_ x.req fun r =>
    { r with longest := max r.longest (min (2 ^ 32 - 1) (x.granted - x.since)) }

/-- WAIT of every requester that has asked and does not hold the grant rises by a cycle (R341). -/
def Arbiter.waitCycle (v : Arbiter) : Arbiter :=
  let held := match v.cur with | some c => [c.req] | none => []
  ((v.waiting.map (·.req)).eraseDups.filter fun q => !held.contains q).foldl (fun v q =>
    v.rec_ q fun r => { r with wait := min (2 ^ 48 - 1) (r.wait + 1) }) v

/-- The grant goes to the highest-ranked waiting request. -/
def Arbiter.arbitrate (v : Arbiter) (a : Arb) : Arbiter :=
  match bestReq a v.owner v.waiting with
  | none => v
  | some x => { v with waiting := v.waiting.erase x }.give x (v.cycle + 1)

/-- At a boundary of 256 bytes a higher-ranked request takes the grant, and the loser keeps what it moved (R339). -/
def Arbiter.yieldAt (v : Arbiter) (a : Arb) (c : ArbReq) : Arbiter :=
  match bestReq a v.owner v.waiting with
  | some x =>
    if outranks a v.owner x c && (c.total - c.left) % 256 == 0 then
      { v with waiting := c :: v.waiting.erase x, cur := none }.give x (v.cycle + 1)
    else v
  | none => v

/-- The requester that has held the grant has its next request granted without an arbitration cycle, while no other asks (R337). -/
def Arbiter.parked (v : Arbiter) (c : ArbReq) : Arbiter :=
  match v.waiting with
  | [] => v
  | x :: w => if v.waiting.all fun y => y.req == c.req then { v with waiting := w }.give x (v.cycle + 1) else v

/-- One cycle of the arbiter's clock. -/
def Arbiter.tick (a : Arb) (gentle : Bool) (v : Arbiter) : Arbiter :=
  let v := v.waitCycle
  let v := match v.cur with
    | none => v.arbitrate a
    | some c =>
      let left := c.left - arbRate a
      let v := { v with cur := some { c with left := left } }
      if left == 0 then (v.finish c).parked c
      else if gentle then v.yieldAt a { c with left := left } else v
  { v with cycle := v.cycle + 1 }

def Arbiter.run (a : Arb) (gentle : Bool) : Nat → Arbiter → Arbiter
  | 0, v => v
  | n + 1, v => Arbiter.run a gentle n (v.tick a gentle)

/-- Turn estimate of a loser in units of 32 cycles (R340), rounded down (DESIGN CHOICE, log 32). -/
def Arbiter.turnOf (v : Arbiter) (a : Arb) (noCredit : Bool) (x : ArbReq) : Nat :=
  if noCredit then 0xFF
  else
    let cur := match v.cur with | some c => c.left | none => 0
    let higher := ((firstReqs v.waiting).filter fun y => outranks a v.owner y x).map (·.req)
    let above := v.waiting.foldl (fun n y => if higher.contains y.req then n + y.left else n) 0
    min 0xFE ((cur + above) / arbRate a / 32)

/-- Every waiting requester receives its turn estimate. -/
def Arbiter.turns (v : Arbiter) (a : Arb) (noCredit : Bool) : Arbiter :=
  (firstReqs v.waiting).foldl (fun w x => { w with turn := AMap.set w.turn x.req (v.turnOf a noCredit x) }) v

/-- A request: the parked owner is granted at once (R337); a higher-ranked request that is its requester's first takes the grant away in
service, and the loser asks again from the beginning, before what its requester issued after it (R338). -/
def Arbiter.ask (v : Arbiter) (a : Arb) (gentle : Bool) (x : ArbReq) (again : Nat) : Arbiter :=
  match v.cur with
  | none => if v.waiting.isEmpty && v.owner == some x.req then v.give x v.cycle else { v with waiting := v.waiting ++ [x] }
  | some c =>
    if !gentle && outranks a v.owner x c && v.waiting.all (fun y => y.req != x.req) then
      { v with cur := none, waiting := { c with left := c.total, latest := again } :: v.waiting ++ [x] }
    else { v with waiting := v.waiting ++ [x] }

/-- A message of the model's own asks at an egress arbiter. At an idle one it is granted at once, to the parked owner, or after the cycle that
arbitrates it (R337), and moves into the egress buffer in the same step; elsewhere it waits its turn (DESIGN CHOICE, log 32). -/
def Arbiter.send (v : Arbiter) (a : Arb) (gentle : Bool) (x : ArbReq) : Arbiter :=
  if v.cur.isNone && v.waiting.isEmpty then
    let w := if v.owner == some x.req then v.give x v.cycle else ({ v with waiting := [x] }).tick a gentle
    match w.cur with
    | some c => w.finish c
    | none => w
  else v.ask a gentle x 0

/-- No grant stays parked on a masked requester (R336). -/
def State.unpark (s : State) (a : Arb) : State :=
  let v := s.arbiter a
  match v.owner with
  | some q => if s.arbMasked a q then s.setArbiter a { v with owner := none } else s
  | none => s

def clearRecs (m : AMap Arbiter) (per die : Nat) : AMap Arbiter :=
  m.map fun kv => if kv.1 / per == die then (kv.1, { kv.2 with recs := [] }) else kv

/-- Every counter record of the die's arbiters is cleared (R341). -/
def effArbiterCountersClear (die : Nat) (s : State) : State :=
  { s with regionArb := clearRecs s.regionArb 4 die, egressArb := clearRecs s.egressArb 8 die }

/-- ARBITER_COUNTERS_CLEAR (R341). -/
def execArbiterCountersClear (die : Nat) (s : State) : Out := answer (okDie die) (if s.serving then effArbiterCountersClear die s else s)

end Sys2Proof.Machine
end

