-- ==== Sys2Proof/Machine/Scoreboard.lean ====
section
/-! DEFINITION. The scoreboards of the cores (R279 to R281). An entry belongs to a command by its ring and position; that of an accepted
write from another package to the number 513 and the request's number. -/

namespace Sys2Proof.Machine

def SbEntry.overlaps (a b : SbEntry) : Bool := a.lo < b.hi && b.lo < a.hi

/-- Whether a new entry waits for an older one of another op: a fill over a HOLD or FILL, or a hold over a FILL (R280). -/
def SbEntry.waitsFor (new old : SbEntry) : Bool :=
  new.overlaps old && (new.wr || old.wr) && !(new.r == old.r && new.p == old.p)

/-- States of entries in issue order: PEND while an older one blocks it. -/
def settle : List SbEntry → List SbEntry → List SbEntry
  | _, [] => []
  | older, e :: es =>
    let e := { e with st := if older.any e.waitsFor then .pend else if e.wr then .fill else .hold }
    e :: settle (older ++ [e]) es

def SbEntry.is (e : SbEntry) (r p lo hi : Nat) (wr : Bool) : Bool := e.r == r && e.p == p && e.lo == lo && e.hi == hi && e.wr == wr

/-- A range of a core's scratchpad enters its scoreboard, unless all 64 entries are in use. -/
def Core.sbEnter (c : Core) (r p lo hi : Nat) (wr : Bool) : Core :=
  if c.sb.any (fun e => e.is r p lo hi wr) || 64 ≤ c.sb.length then c
  else { c with sb := settle [] (c.sb ++ [{ r := r, p := p, lo := lo, hi := hi, wr := wr, st := .pend }]) }

/-- Whether the entry of a range is there and nothing blocks it. -/
def Core.sbReady (c : Core) (r p lo hi : Nat) (wr : Bool) : Bool := c.sb.any fun e => e.is r p lo hi wr && e.st != .pend

/-- The entries that a test names free, and those they blocked proceed. -/
def Core.sbFree (c : Core) (gone : SbEntry → Bool) : Core := { c with sb := settle [] (c.sb.filter fun e => !gone e) }

/-- An op's entries on a core free. -/
def State.sbFree (s : State) (core r p : Nat) : State :=
  let c := s.core core
  if c.sb.isEmpty then s else s.setCore core (c.sbFree fun e => e.r == r && e.p == p)

/-- A range that the scoreboards watch, by the key of its memory, and whether it is written. -/
structure SbRange where
  key : Nat
  len : Nat
  wr : Bool
  deriving DecidableEq, Repr

/-- The core whose scratchpad holds a key, with the granules of a range (64 bytes each). -/
def scratchRange (key len : Nat) : Option (Nat × Nat × Nat) :=
  if key / 2 ^ 48 % 4 == 2 then
    some (32 * (key / 2 ^ 50) + key % 2 ^ 48 / 2 ^ 23, key % 2 ^ 23 / 64, (key % 2 ^ 23 + len + 63) / 64)
  else none

/-- A range enters where it lies in a scratchpad; elsewhere nothing watches it. -/
def State.sbEnter (s : State) (r p : Nat) (x : SbRange) : State :=
  match scratchRange x.key x.len with
  | none => s
  | some (core, lo, hi) => s.setCore core ((s.core core).sbEnter r p lo hi x.wr)

def State.sbReady (s : State) (r p : Nat) (x : SbRange) : Bool :=
  match scratchRange x.key x.len with
  | none => true
  | some (core, lo, hi) => (s.core core).sbReady r p lo hi x.wr

/-- Whether a range overlaps one that another op fills: a read of it stalls (R280). -/
def State.filling (s : State) (r p key len : Nat) : Bool :=
  match scratchRange key len with
  | none => false
  | some (core, lo, hi) => (s.core core).sb.any fun e => e.st == .fill && e.lo < hi && lo < e.hi && !(e.r == r && e.p == p)

/-- Whether a control input waits to be read: it lies in an HBM unit that is still being cleared, or in a scratchpad where a range that it overlaps
is filling (R271, R280, R390). -/
def State.readWaits (s : State) (c : Cmd) (a n : Nat) : Bool := s.clearingIn (memKey a) n || s.filling c.r c.p (memKey a) n

/-- The core whose 64 entries are all in use, so that a range could not enter. -/
def State.sbFull (s : State) (r p : Nat) (x : SbRange) : Option Nat :=
  match scratchRange x.key x.len with
  | none => none
  | some (core, lo, hi) => if (s.core core).sb.any (fun e => e.is r p lo hi x.wr) then none else some core

/-- The ranges of an issue enter the scoreboards; whether none of them stalls it. A core without a free entry counts the stall once (R281). -/
def State.sbIssue (s : State) (r p : Nat) (xs : List SbRange) : State × Bool :=
  let s := xs.foldl (fun s x => s.sbEnter r p x) s
  let full := (xs.filterMap fun x => s.sbFull r p x).eraseDups
  let s := full.foldl (fun s core => s.coreBump 0x5140 core 1) s
  (s, xs.all fun x => s.sbReady r p x)

/-- The entry of a range frees. -/
def State.sbDrop (s : State) (r p : Nat) (x : SbRange) : State :=
  match scratchRange x.key x.len with
  | none => s
  | some (core, lo, hi) => s.setCore core ((s.core core).sbFree fun e => e.is r p lo hi x.wr)

/-- A write of one range lands in the same step in which nothing blocks its entry any more: the state without the entry, or none while it
stalls. -/
def State.sbWrite (s : State) (r p key len : Nat) : State × Bool :=
  let x : SbRange := ⟨key, len, true⟩
  let i := s.sbIssue r p [x]
  if i.2 then (i.1.sbDrop r p x, true) else i

/-- An op's entries on the core whose scratchpad holds a key free. -/
def State.sbFreeMem (s : State) (r p key : Nat) : State :=
  match scratchRange key 1 with
  | none => s
  | some (core, _, _) => s.sbFree core r p

/-- A fill that ends in an error leaves what it did not write of a scratchpad undefined (R280): free bytes. -/
def State.undefine (s : State) (key len : Nat) : State :=
  if key / 2 ^ 48 % 4 == 2 then
    { s with mem := (List.range len).foldl (fun m i => Mem.write m (key + i) (Config.freeByte (s.freeCtr + i))) s.mem }.useFree len
  else s

/-- Every HOLD of an op frees: it has read its last byte (R280). -/
def State.freeHolds (s : State) (r p : Nat) : State :=
  { s with cores := s.cores.map fun kc =>
      if kc.2.sb.any fun e => e.r == r && e.p == p && !e.wr then (kc.1, kc.2.sbFree fun e => e.r == r && e.p == p && !e.wr) else kc }

end Sys2Proof.Machine
end

