-- ==== Sys2Proof/Machine/Transcend.lean ====
section
/-! DEFINITION. The transcendental stages (R218): what each function gives, to far more places than its bound needs, its special results, and
the free value within the bound that the stage answers. -/

namespace Sys2Proof.Machine

-- ## Fixed-point numbers of 448 fraction bits

def fxBits : Nat := 448
def fxOne : Int := 2 ^ fxBits
def fxMul (a b : Int) : Int := a * b / fxOne
def fxDiv (a b : Int) : Int := a * fxOne / b

/-- A finite value as a fixed-point number: exact for every FP32 value. -/
def fxOf (v : Val) : Int :=
  match v with
  | .fin n m e => intAt n m (max e (-448)) (-448)
  | _ => 0

/-- A fixed-point number times `2^k`. -/
def fxVal (a : Int) (k : Int) : Val := .fin (decide (a < 0)) a.natAbs (k - 448)

def fxClamp (a : Int) (limit : Nat) : Int := max (-(limit * fxOne)) (min (limit * fxOne) a)

/-- The sum of `t`, `t r / (k + 1)`, `t r^2 / ((k + 1) (k + 2))` and so on. -/
def expSum (r : Int) : Nat → Nat → Int → Int
  | 0, _, _ => 0
  | n + 1, k, t => t + expSum r n (k + 1) (fxMul t r / (k + 1))

/-- The sum of `p / (2k + 1)`, `p z2 / (2k + 3)` and so on. -/
def atanhSum (z2 : Int) : Nat → Nat → Int → Int
  | 0, _, _ => 0
  | n + 1, k, p => p / (2 * k + 1) + atanhSum z2 n (k + 1) (fxMul p z2)

/-- The alternating series of the sine (from `k` = 1 and `t` = x) and the cosine (from `k` = 0 and `t` = 1). -/
def sinSum (x2 : Int) : Nat → Nat → Int → Int
  | 0, _, _ => 0
  | n + 1, k, t => t + sinSum x2 n (k + 2) (-(fxMul t x2) / ((k + 1) * (k + 2)))

def fxAtanh (z : Int) : Int := atanhSum (fxMul z z) 200 0 z
def fxAtan (z : Int) : Int := atanhSum (-(fxMul z z)) 200 0 z
def fxLn2 : Int := 2 * fxAtanh (fxOne / 3)
def fxPi : Int := 16 * fxAtan (fxOne / 5) - 4 * fxAtan (fxOne / 239)

/-- e^a as a fixed-point number and a power of two. -/
def fxExp (a : Int) : Int × Int :=
  let n := (2 * a + fxLn2) / (2 * fxLn2)
  (expSum (a - n * fxLn2) 120 0 fxOne, n)

/-- The natural logarithm of `m * 2^e`, for `m` not 0. -/
def fxLn (m : Nat) (e : Int) : Int :=
  let l := Nat.log2 m
  let f : Int := ((m * 2 ^ fxBits / 2 ^ l : Nat) : Int)
  2 * fxAtanh (fxDiv (f - fxOne) (f + fxOne)) + ((l : Int) + e) * fxLn2

/-- The sine, or the cosine, of a fixed-point number. -/
def fxSin (cosine : Bool) (a : Int) : Int :=
  let n := (a + fxPi) / (2 * fxPi)
  let r := a - n * (2 * fxPi)
  if cosine then sinSum (fxMul r r) 120 0 fxOne else sinSum (fxMul r r) 120 1 r

/-- 1 / (1 + e^(-a)), for an argument cut off at 200 either way, where the result no longer moves within its bound. -/
def fxSigmoid (a : Int) : Int :=
  let x := fxExp (-(fxClamp a 200))
  let p : Int := if 0 ≤ x.2 then x.1 * 2 ^ x.2.toNat else x.1 / 2 ^ (-x.2).toNat
  fxDiv fxOne (fxOne + p)

/-- 1 / √(m * 2^e). -/
def rsqrtVal (m : Nat) (e : Int) : Val :=
  let me := if e % 2 == 0 then (m, e) else (2 * m, e - 1)
  .fin false (isqrt (2 ^ 896 / me.1)) (-448 - me.2 / 2)

/-- 2 √(2/π). -/
def fxGeluRate : Int := 2 * ((isqrt (2 * 2 ^ (3 * fxBits) / fxPi.toNat) : Nat) : Int)

/-- What the function of a stage gives for a finite input outside its special results (R218), with an error far below any bound. -/
def transExact (o : Nat) (v : Val) : Val :=
  let a := fxOf v
  match v with
  | .fin n m e =>
    match o with
    | 0x12 => rsqrtVal m e
    | 0x13 => let x := fxExp (fxClamp a 200); fxVal x.1 x.2
    | 0x14 => let x := fxExp (fxMul (fxClamp a 400) fxLn2); fxVal x.1 x.2
    | 0x15 => fxVal (fxLn m e) 0
    | 0x16 => fxVal (fxDiv (fxLn m e) fxLn2) 0
    | 0x17 => fxVal (fxSigmoid a) 0
    | 0x18 => fxVal (2 * fxSigmoid (2 * a) - fxOne) 0
    | 0x19 => .mul (.fin n m e) (fxVal (fxSigmoid a) 0)
    | 0x1A =>
      let cube := fxMul (fxMul a a) a
      .mul (.fin n m e) (fxVal (fxSigmoid (fxMul fxGeluRate (a + cube * 44715 / 1000000))) 0)
    | 0x1B => fxVal (fxSin false a) 0
    | _ => fxVal (fxSin true a) 0
  | w => w

/-- The bound of a stage at an input (R218): ulps, and the absolute error where there is one, as a power of two. -/
def transBound (o : Nat) (v : Val) : Nat × Option Int :=
  match o with
  | 0x13 => (2, none)
  | 0x15 => (2, none)
  | 0x17 => (2, some (-26))
  | 0x18 => (2, some (-26))
  | 0x19 => (3, some (-25))
  | 0x1A => (4, some (-25))
  | 0x1B => if (Val.fin false 1 12).lt v.abs then (0, some (-22)) else (2, some (-24))
  | 0x1C => if (Val.fin false 1 12).lt v.abs then (0, some (-22)) else (2, some (-24))
  | _ => (1, none)

/-- An ulp of an FP32 code. -/
def fp32Ulp (c : Nat) : Val := .fin false 1 ((max 1 (field c 30 23) : Nat) - 150)

/-- Whether a result meets the bound of a stage whose exact value is `y` and rounded code `c`. -/
def transMeets (o : Nat) (v y w : Val) (c : Nat) : Bool :=
  let b := transBound o v
  let err := (Val.sub 0 w y).abs
  let within (t : Val) : Bool := !t.lt err
  match w with
  | .fin _ _ _ => within (Val.mul (.fin false b.1 0) (fp32Ulp c)) || (match b.2 with | some k => within (.fin false 1 k) | none => false)
  | _ => false

/-- Special results of the transcendental stages (R218); none where only the bound is stated. -/
def transSpecial (o : Nat) (v : Val) : Option Val :=
  match v with
  | .nan _ _ => some v.quiet
  | .inf n =>
    match o with
    | 0x12 => some (if n then qnan else .zero)
    | 0x13 => some (if n then .zero else .inf false)
    | 0x14 => some (if n then .zero else .inf false)
    | 0x15 => some (if n then qnan else .inf false)
    | 0x16 => some (if n then qnan else .inf false)
    | 0x17 => some (if n then .zero else .fin false 1 0)
    | 0x18 => some (.fin n 1 0)
    | 0x19 => some (if n then .fin true 0 0 else .inf false)
    | 0x1A => some (if n then .fin true 0 0 else .inf false)
    | _ => some qnan
  | .fin n m e =>
    if o == 0x12 && m == 0 then some (.inf n)
    else if (o == 0x15 || o == 0x16) && m == 0 then some (.inf true)
    else if (o == 0x12 || o == 0x15 || o == 0x16) && n then some qnan
    else if o == 0x16 && m == 2 ^ Nat.log2 m then some (Val.ofInt (e + Nat.log2 m))
    else none

/-- A transcendental stage (R218): its special results; an infinity where the result overflows FP32; else a fixed function of the input and
ROUND, free within the bound: the free value where it meets the bound, and the result rounded to nearest even where it does not. -/
def trans (o round : Nat) (v : Val) : Val :=
  match transSpecial o v with
  | some w => w
  | none =>
    let y := transExact o v
    let c := (encode fp32 0 0 y).1
    let w := decodeVal fp32 (Config.transcendental o (BitVec.ofNat 32 (encode fp32 0 0 v).1) round).toNat
    if !(decodeVal fp32 c).isInf && transMeets o v y w c then w else decodeVal fp32 c

end Sys2Proof.Machine
end

