-- ==== Sys2Proof/Machine/Chain.lean ====
section
/-! DEFINITION. The chains of the vector engine (09_vector_engine.md): the chain block, its checks, and how one element passes through
its stages. -/

namespace Sys2Proof.Machine

-- ## The chain block (R197, R198)

structure Stage where
  op : Nat
  imm : Nat
  imm2 : Nat
  bsel : Nat
  csel : Nat
  save : Nat
  reserved : Bool
  deriving DecidableEq, Repr

def Stage.of (v : Nat) : Stage where
  imm := field v 127 96
  imm2 := field v 95 64
  op := field v 63 56
  bsel := field v 55 52
  csel := field v 51 48
  save := field v 47 46
  reserved := v % 2 ^ 46 != 0

structure Chain where
  zmask : Nat
  aux : List Nat
  f16 : Bool
  round : Nat
  kind : Nat
  width : Nat
  nstage : Nat
  reserved : Bool
  stages : List Stage
  deriving DecidableEq, Repr

/-- A chain block of 160 bytes: its header and the stages it counts. -/
def Chain.of (v : Nat) : Chain where
  zmask := field v 255 236
  aux := [field v 175 156, field v 195 176, field v 215 196, field v 235 216]
  f16 := bitOf v 12
  round := field v 10 8
  kind := field v 6 6
  width := field v 5 4
  nstage := field v 3 0
  reserved := field v 155 13 != 0 || bitOf v 11 || bitOf v 7
  stages := (List.range (min 8 (field v 3 0))).map fun k => Stage.of (field v (256 + 128 * k + 127) (256 + 128 * k))

/-- The chain of a CHAIN of 0 in a drain: no stage, at the accumulator's kind. -/
def Chain.none_ (kind : Nat) : Chain := ⟨0, [0, 0, 0, 0], false, 0, kind, 0, 0, false, []⟩

/-- The working format (R195, R197). -/
def Chain.work (ch : Chain) : Nat :=
  match ch.width with
  | 0 => if ch.kind == 1 then 0x04 else 0x15
  | 1 => if ch.kind == 1 then 0x03 else if ch.f16 then 0x13 else 0x14
  | _ => 0x02

def Chain.lanes (ch : Chain) : Nat := match ch.width with | 0 => 128 | 1 => 256 | _ => 512

def Chain.isInt (ch : Chain) : Bool := ch.kind == 1

-- Stage operations (R200).
def opCVT : Nat := 0x20
def opALMQ : Nat := 0x21
def opALMD : Nat := 0x22
def opPERM : Nat := 0x30
def opEXPAND : Nat := 0x38
def opCOMPRESS : Nat := 0x39
def opRED : Nat := 0x3A

def stageKnown (o : Nat) : Bool := o ≤ 0x1C || [0x20, 0x21, 0x22, 0x30, 0x38, 0x39, 0x3A].contains o

/-- The widths and kinds an operation admits (R200). -/
def Chain.admits (ch : Chain) (o : Nat) : Bool :=
  let float := ch.kind == 0
  if o == 0x04 then float
  else if o == 0x05 then ch.width == 0
  else if o == 0x0E then !float
  else if o == 0x0F || (0x11 ≤ o && o ≤ 0x1C) || o == opALMQ || o == opALMD then float && ch.width == 0
  else if o == opCVT then ch.width != 2
  else true

def stageNeedsB (st : Stage) : Bool :=
  (1 ≤ st.op && st.op ≤ 7) || (0x0A ≤ st.op && st.op ≤ 0x0E) || (st.op == opPERM && st.imm2 % 4 == 0)

def stageNeedsC (st : Stage) : Bool := st.op == 0x04 || st.op == 0x0A || st.op == 0x0D

/-- Whether a source is one that R199 names and is there; `saved` lists the holds that earlier stages save (R201). -/
def Chain.srcOk (ch : Chain) (src1 : Bool) (saved : List Nat) (x : Nat) : Bool :=
  match x with
  | 0 => true
  | 1 => true
  | 6 => saved.contains 1
  | 7 => saved.contains 2
  | 8 => src1
  | x => 2 ≤ x && x ≤ 5 && ch.aux.getD (x - 2) 0 != 0

/-- Whether a stage breaks R201. An operation without an operand it needs, and a parameter without a meaning, count as reserved
(DEDUCED, log 21). -/
def Chain.stageBad (ch : Chain) (src1 : Bool) (saved : List Nat) (k : Nat) (st : Stage) : Bool :=
  st.reserved || !stageKnown st.op || st.save == 3
    || !ch.srcOk src1 saved st.bsel || !ch.srcOk src1 saved st.csel
    || (stageNeedsB st && st.bsel == 0) || (stageNeedsC st && st.csel == 0)
    || (st.op == opEXPAND && k != 0)
    || ((st.op == opCOMPRESS || st.op == opRED) && k + 1 != ch.nstage)
    || (st.op == opCVT && ((fmtOf (st.imm % 256)).isNone || 4 < st.imm2 % 8))
    || (st.op == opRED && 4 < st.imm % 8)

def Chain.stagesBad (ch : Chain) (src1 : Bool) : List Nat → Nat → List Stage → Bool
  | _, _, [] => false
  | saved, k, st :: sts =>
    ch.stageBad src1 saved k st || ch.stagesBad src1 (if st.save == 0 then saved else st.save :: saved) (k + 1) sts

/-- The conditions of R201. -/
def Chain.bad (ch : Chain) (src1 : Bool) : Bool :=
  ch.reserved || 8 < ch.nstage || ch.width == 3 || (ch.width == 2 && ch.kind == 0) || 4 ≤ ch.round
    || ch.stagesBad src1 [] 0 ch.stages

def Chain.uses (ch : Chain) (o : Nat) : Bool := ch.stages.any fun st => st.op == o

/-- Almanac entries of the ALMQ and of the ALMD stages, in stage order (R223). -/
def Chain.quants (ch : Chain) : List Nat := (ch.stages.filter fun st => st.op == opALMQ).map fun st => st.imm % 16384
def Chain.dequants (ch : Chain) : List Nat := (ch.stages.filter fun st => st.op == opALMD).map fun st => st.imm % 16384
/-- All Almanac entries in stage order. -/
def Chain.almEntries (ch : Chain) : List Nat :=
  (ch.stages.filter fun st => st.op == opALMQ || st.op == opALMD).map fun st => st.imm % 16384
/-- The first ALMD stage, to which a rescale adds (R230). -/
def Chain.firstD (ch : Chain) : Option Nat := ch.stages.findIdx? fun st => st.op == opALMD
/-- The stages before the first ALMQ of an entry, which a pre-pass runs (R235). -/
def Chain.beforeQ (ch : Chain) (e : Nat) : Nat :=
  (ch.stages.findIdx? fun st => st.op == opALMQ && st.imm % 16384 == e).getD ch.stages.length

/-- What a drain chain must not use (R220), and the Almanac stages that need a destination (R223). -/
def Chain.badDrain (ch : Chain) (outMode : Nat) (dst : Bool) : Bool :=
  ch.width != 0 || ch.stages.any (fun st => [0x30, 0x38, 0x39, 0x3A].contains st.op || st.bsel == 8 || st.csel == 8)
    || (outMode == 1 && ch.zmask != 0) || (!dst && !ch.almEntries.isEmpty)

/-- The address checks of a chain (R201, R57): the header, then its stages. A chain address of zero counts as misaligned (DEDUCED,
log 21). -/
def State.chainAddr (s : State) (part a bit : Nat) : Option Err :=
  if a == 0 then some (bodyErr 0x0301 bit)
  else firstErr [s.bodyAddr part a 32 16 bit,
    s.bodyAddr part a (32 + 16 * min 8 (Mem.readNat s.mem (memKey a) 1 % 16)) 16 bit]

/-- Whether a chain block of a command waits to be read: the header, or the stages that it counts (R271, R280). -/
def State.chainWaits (s : State) (c : Cmd) : Bool :=
  let a := c.chainAddr
  let waits (n : Nat) : Bool := (s.bodyAddr c.part a n 16 0).isNone && s.readWaits c a n
  a != 0 && (waits 32 || waits (32 + 16 * min 8 (Mem.readNat s.mem (memKey a) 1 % 16)))

/-- A chain block that fails its check twice (R456). -/
def State.chainLost (s : State) (a : Nat) : Option Err :=
  firstErr [s.controlErr a 32, s.controlErr a (32 + 16 * min 8 (Mem.readNat s.mem (memKey a) 1 % 16))]

-- ## One element through the stages

/-- A value converted into a format: what it then stands for, and whether it saturated (R39, R40). -/
def toFmt (code mode r : Nat) (v : Val) : Val × Bool :=
  let e := encode (fmtD code) mode r v
  (decodeVal (fmtD code) e.1, e.2)

def fp32Code (v : Val) : Nat := (encode fp32 0 0 v).1

/-- What the stages of one element read (R199): auxiliaries and SRC1 in the working format, the Almanac exponents of the op's
snapshots, the rescale step (R230) and the random value of a CVT (R200). -/
structure ElemEnv where
  aux : List Val := []
  src1 : Val := .zero
  use : AMap Int := []
  next : AMap Int := []
  j : Nat := 0
  seed : Nat := 0
  lin : Nat := 0
  deriving DecidableEq, Repr

/-- The running value of an element with its holds, whether anything saturated, and what its ALMQ stages contribute. -/
structure ElemRun where
  x : Val
  h0 : Val := .zero
  h1 : Val := .zero
  sat : Bool := false
  maxima : AMap Nat := []
  deriving DecidableEq, Repr

/-- The larger of two contributions of |x|, as FP32 codes (R228). -/
def contribute (m : AMap Nat) (e v : Nat) : AMap Nat := AMap.set m e (max v (AMap.getD m e 0))

def mergeMaxima (a b : AMap Nat) : AMap Nat := b.foldl (fun m ev => contribute m ev.1 ev.2) a

/-- |x| as it enters a maximum: a NaN is ignored, an infinity counts as the largest finite FP32 value (R228). -/
def absCode (v : Val) : Option Nat := match v with | .nan _ _ => none | w => some (fp32Code w.abs.finitised)

def noteMax (m : AMap Nat) (e : Nat) (v : Val) : AMap Nat := match absCode v with | some c => contribute m e c | none => m

def ElemRun.operand (run : ElemRun) (ch : Chain) (env : ElemEnv) (st : Stage) (sel : Nat) : Val :=
  match sel with
  | 1 => decodeVal (fmtD ch.work) (st.imm % 2 ^ elemBits ch.work)
  | 6 => run.h0
  | 7 => run.h1
  | 8 => env.src1
  | k => env.aux.getD (k - 2) .zero

def boolVal (b : Bool) : Val := .fin false (if b then 1 else 0) 0

/-- An integer value of the integer working formats. -/
def Val.toInt (v : Val) : Int :=
  match v with
  | .fin n m e =>
    let a : Int := if e < 0 then ((m / pow2 (-e) : Nat) : Int) else ((m * pow2 e : Nat) : Int)
    if n then -a else a
  | _ => 0

/-- The result of a stage that combines values, before it enters the working format (R200): the value in the working format and whether
it saturated. A CVT's result that the working width cannot hold exactly (an infinity or 2^31 in an INT32 chain, an FP32 value in a BF16 one)
is converted back to nearest even, saturating (DESIGN CHOICE, log 155). -/
def stageValue (ch : Chain) (st : Stage) (env : ElemEnv) (k : Nat) (x b c : Val) : Val × Bool :=
  let w := ch.work
  let rnd := ch.round
  let out (v : Val) : Val × Bool := toFmt w rnd 0 v
  match st.op with
  | 0x01 => out (Val.add rnd x b)
  | 0x02 => out (Val.sub rnd x b)
  | 0x03 => out (Val.mul x b)
  | 0x04 => out (if x.isNan then x.quiet else if b.isNan then b.quiet else if c.isNan then c.quiet else Val.add rnd (Val.mul x b) c)
  | 0x05 =>
    let q := if ch.isInt then divInt 32 rnd x.toInt b.toInt else divFloat fp32 rnd x b
    (decodeVal (fmtD w) q.1, q.2)
  | 0x06 => out (Val.max x b)
  | 0x07 => out (Val.min x b)
  | 0x08 => out x.abs
  | 0x09 => out x.neg
  | 0x0A => out (Val.min (Val.max x b) c)
  | 0x0B => (boolVal (b.lt x), false)
  | 0x0C => (boolVal (x.eqv b), false)
  | 0x0D => (if x.isZero then c else b, false)
  | 0x0E => out (x.scale (-(max 0 (min 31 b.toInt))))
  | 0x0F =>
    let q := divFloat fp32 rnd (.fin false 1 0) x
    (decodeVal fp32 q.1, q.2)
  | 0x10 => out (Val.max x .zero)
  | 0x11 =>
    let q := sqrtFloat rnd x
    (decodeVal fp32 q.1, q.2)
  | 0x20 =>
    let f := st.imm % 256
    let mode := st.imm2 % 8
    if isScaled f then
      let q := BitVec.ofNat 32 (encode (fmtD w) 0 0 x).1
      (decodeVal (fmtD w) (Config.scaledCvt f mode q).toNat, Config.scaledCvtSat f mode q)
    else
      let v := toFmt f mode (if mode == 4 then stochastic env.seed env.lin else 0) x
      let h := toFmt w 0 0 v.1
      (h.1, v.2 || h.2)
  | 0x21 => out (x.scale (-(AMap.getD env.next (st.imm % 16384) 0)))
  | 0x22 => out (x.scale (AMap.getD env.use (st.imm % 16384) 0 + (if ch.firstD == some k then (env.j : Int) else 0)))
  | o => if 0x12 ≤ o && o ≤ 0x1C then (trans o rnd x, false) else (x, false)

/-- One stage of one element (R199, R200). -/
def ElemRun.stage (ch : Chain) (env : ElemEnv) (k : Nat) (st : Stage) (run : ElemRun) : ElemRun :=
  let b := run.operand ch env st st.bsel
  let c := run.operand ch env st st.csel
  let v := stageValue ch st env k run.x b c
  let run := if st.op == opALMQ then { run with maxima := noteMax run.maxima (st.imm % 16384) run.x } else run
  let run := { run with x := v.1, sat := run.sat || v.2 }
  match st.save with
  | 1 => { run with h0 := v.1 }
  | 2 => { run with h1 := v.1 }
  | _ => run

/-- Stages `k` and up in order. -/
def ElemRun.stages (ch : Chain) (env : ElemEnv) : Nat → List Stage → ElemRun → ElemRun
  | _, [], run => run
  | k, st :: sts, run => ElemRun.stages ch env (k + 1) sts (run.stage ch env k st)

/-- An input on entry (R196): converted to the working format by the chain's ROUND. -/
def Chain.enter (ch : Chain) (v : Val) : Val × Bool := toFmt ch.work ch.round 0 v

/-- Entry conversions of an element and of what its stages read: the environment, and whether one saturated. -/
def Chain.mkEnv (ch : Chain) (aux : List Val) (src1 : Val) (use next : AMap Int) (j seed lin : Nat) : ElemEnv × Bool :=
  let a := aux.map ch.enter
  let b := ch.enter src1
  ({ aux := a.map (·.1), src1 := b.1, use := use, next := next, j := j, seed := seed, lin := lin }, a.any (·.2) || b.2)

/-- The Almanac snapshots of an op, split by use (R226, R227). -/
def Op.useMap (o : Op) : AMap Int := o.snaps.foldl (fun m x => AMap.set m x.entry x.use) []
def Op.nextMap (o : Op) : AMap Int := o.snaps.foldl (fun m x => AMap.set m x.entry x.next) []

-- ## Almanac checks and snapshots of an op at issue (R223, R224, R227, R235, R236, R240)

/-- The first entry that the partition does not own, in stage order (R224). -/
def State.almNotOwned (s : State) (die part : Nat) (ch : Chain) : Option Err :=
  (ch.almEntries.find? fun e => (s.almEntry (almIndex die e)).owner != some part).map fun e =>
    { code := 0x0113, dkind := 5, detail := e }

/-- The entries that a chain accesses, each checked by its code on the access (R234). -/
def State.touchChain (s : State) (die : Nat) (ch : Chain) : State := ch.almEntries.foldl (fun s e => s.touchAlm die e) s

/-- An op that names an entry being seeded, or one in the range of a pending load, is held at issue (R235, R240). -/
def State.almHeld (s : State) (die : Nat) (ch : Chain) : Bool :=
  ch.almEntries.any fun e => s.loadPending die e
    || s.ops.any fun o => s.almDieOf o.r o.p == die && o.snaps.any fun x => x.entry == e && x.seeding

/-- The first entry whose scale an ALMD cannot take (R236). -/
def State.almLost (s : State) (die : Nat) (ch : Chain) : Option Err :=
  (ch.dequants.find? fun e => !(s.almEntry (almIndex die e)).valid).map fun e => { code := 0x0602, dkind := 5, detail := e }

/-- The snapshots of an op (R227); an ALMQ of an invalid entry begins with a pre-pass (R235). -/
def State.almSnaps (s : State) (die : Nat) (ch : Chain) : List Snap :=
  ch.almEntries.eraseDups.map fun e =>
    let a := s.almEntry (almIndex die e)
    let q := ch.quants.contains e
    { entry := e, use := a.use, next := a.next, quant := q, seeding := q && !a.valid }

end Sys2Proof.Machine
end

