-- ==== Sys2Proof/Machine/Descriptors.lean ====
section
/-! DEFINITION. The descriptor table (03_tensor_descriptors.md): TD_CREATE, TD_DESTROY and the end of a destroy. -/

namespace Sys2Proof.Machine

-- ## The checks of R57 on an image

def imageErr (code bit : Nat) : Err := { code := code, dkind := 8, detail := bit }

/-- row_span of R53 with the local extents, and the directory size for LAYOUT TILED (R69). -/
def Desc.rowSpan (d : Desc) : Nat :=
  if d.tiled then d.dirSize
  else
    let e0 := d.localExts.getD 0 1
    let w := elemBits d.fmt
    let row :=
      if d.stride.getD 0 0 == 1 then (if isScaled d.fmt then ceilDiv e0 512 * packetBytes d.fmt else ceilDiv (e0 * w) 8)
      else ceilDiv w 8
    roundUp row 16

/-- Lowest and highest offset of the footprint (R53). -/
def Desc.footprint (d : Desc) : Int × Int :=
  let base : Int := ((if d.shx then d.base else addrOff d.base : Nat) : Int)
  let steps := (List.range d.rank).drop 1 |>.map fun i => d.stride.getD i 0 * ((d.localExts.getD i 1 : Nat) - 1 : Int)
  (steps.foldl (fun a x => a + min 0 x) base, steps.foldl (fun a x => a + max 0 x) base + (d.rowSpan : Int))

/-- The dimensions of a write-alias check in order of increasing |STRIDE| (R54): pairs of |STRIDE| and extent. -/
def insertStride (p : Nat × Nat) : List (Nat × Nat) → List (Nat × Nat)
  | [] => [p]
  | q :: qs => if p.1 < q.1 then p :: q :: qs else q :: insertStride p qs

def aliasLoop (span : Nat) : List (Nat × Nat) → Bool
  | [] => false
  | (st, e) :: rest => if st < span then true else aliasLoop (span + st * (e - 1)) rest

/-- Whether R54 refuses a descriptor. -/
def Desc.writeAlias (d : Desc) : Bool :=
  let from_ := if d.tiled then 2 else 1
  let dims := ((List.range d.rank).drop from_).filterMap fun i =>
    let e := d.localExts.getD i 1
    if 1 < e then some ((d.stride.getD i 0).natAbs, e) else none
  let sorted := dims.foldl (fun acc p => insertStride p acc) []
  (!d.tiled && d.stride.getD 0 0 == 0 && 1 < d.localExts.getD 0 1) || aliasLoop d.rowSpan sorted

def Desc.orderOk (d : Desc) : Bool := (List.range d.rank).all fun i => (d.order.take d.rank).contains i

/-- Steps 1 to 10 of R57. DETAIL is the lowest bit of the fields that the check reads: RANK where it runs over the dimensions of the tensor,
FORMAT where it depends on the format (log 13). -/
def imageChecks (img : Nat) (d : Desc) : Option Err :=
  firstErr [
    errIf (field img 15 13 != 0 || field img 23 19 != 0 || field img 31 29 != 0 || field img 63 50 != 0
      || (List.range 6).any (fun i => field img (319 + 128 * i) (288 + 128 * i) != 0
        || (d.rank ≤ i && (d.ext.getD i 0 != 0 || d.stride.getD i 0 != 0)))) (imageErr 0x0101 8),
    errIf (fmtOf d.fmt).isNone (imageErr 0x0201 0),
    errIf (d.rank == 0 || 6 < d.rank || 1 < field img 12 11) (imageErr 0x0102 8),
    errIf (d.exts.any fun e => e == 0 || 2 ^ 31 < e) (imageErr 0x0103 8),
    errIf (!d.orderOk) (imageErr 0x0104 8),
    errIf ((isScaled d.fmt || d.tiled) && d.order.getD 0 0 != 0 || d.tiled && 1 < d.rank && d.order.getD 1 0 != 1)
      (imageErr 0x0203 0),
    errIf (d.tiled && (d.rank < 2 || d.stride.getD 0 0 != 0 || d.stride.getD 1 0 != 0)) (imageErr 0x0204 8),
    errIf (d.stride.getD 0 0 != 0 && d.stride.getD 0 0 != 1) (imageErr 0x0107 320),
    errIf (isScaled d.fmt && !d.tiled && d.stride.getD 0 0 != 1) (imageErr 0x0202 0),
    errIf (d.base % 16 != 0 || (d.stride.drop 1).any fun x => x % 16 != 0) (imageErr 0x0301 96)]

/-- Step 15: the extension and the counts of the package list (R63 to R66, R56). The checks of the entries and of their product read RANK. -/
def Desc.shardErr (d : Desc) (x : Nat) : Option Err :=
  let bad (i : Nat) : Bool :=
    let sh := d.shards.getD i ⟨0, 0, 0⟩
    let e := d.ext.getD i 0
    if d.rank ≤ i then field x (191 + 64 * i) (128 + 64 * i) != 0
    else
      field x (159 + 64 * i) (146 + 64 * i) != 0 || sh.mode == 3 || sh.count == 0 || 4096 < sh.count
      || (sh.mode == 0 && (sh.block == 0 || sh.count * sh.block < e))
      || (sh.mode == 1 && sh.block == 0) || (sh.mode == 2 && sh.block != 0)
      || (d.tiled && i < 2 && sh.mode != 2 && sh.block % 128 != 0)
  firstErr [
    errIf (field x 127 64 != 0) (imageErr 0x0109 (1024 + 64)),
    errIf ((List.range 6).any bad || 65536 < (d.shards.take d.rank).foldl (fun a sh => a * sh.count) 1) (imageErr 0x0109 8)]

/-- The package list: its address, its reading (R456) and its entries (R66). -/
def State.listErr (s : State) (d : Desc) : Option Err :=
  let n := d.copies
  let code := if d.plist == 0 then some 0x0301 else s.addrCode d.part d.plist (8 * n) 16
  firstErr [
    code.map fun c => imageErr c (if c == 0x0301 || c == 0x0304 then 1024 else 8),
    s.controlErr d.plist (8 * n),
    ((List.range n).find? fun i => Mem.readNat s.mem (memKey d.plist + 8 * i) 8 / 2 ^ 31 != 0).map fun i =>
      addrErr 0x0109 (d.plist + 8 * i)]

/-- Steps 11 to 15 of R57. The footprint and the alias check of a STRIDED tensor read FORMAT, those of a TILED one RANK (R53, R54, R69). -/
def State.placeChecks (s : State) (d : Desc) (x : Nat) : Option Err :=
  let fp := d.footprint
  let lo : Int := (d.rangeLo : Int)
  let hi : Int := (d.rangeLo + d.rangeLen : Nat)
  let low := if d.tiled then 8 else 0
  firstErr [
    errIf (!d.shx && (addrPkg d.base != s.pkg || addrSpace d.base == 3)) (imageErr 0x0304 96),
    errIf (d.rangeLen == 0 || fp.1 < lo || hi < fp.2 || fp.1 < 0 || (2 ^ 48 : Int) < hi) (imageErr 0x0302 low),
    errIf (!d.shx && !s.rangeOwned d.part (d.base - addrOff d.base + d.rangeLo) d.rangeLen) (imageErr 0x0303 96),
    errIf (d.wr && !d.red && d.writeAlias) (imageErr 0x0105 low),
    if d.shx then firstErr [d.shardErr x, s.listErr d] else none]

/-- All that a TD_CREATE checks before it takes an entry: body, the reading of image and extension (R456), steps 1 to 15. The address of
the extension and its reading are checked before step 1, with those of the image (DESIGN CHOICE, log 148). -/
def State.tdCreateErr (s : State) (c : Cmd) : Option Err :=
  let a := c.f 63 0
  let img := Mem.readNat s.mem (memKey a) 128
  let shx := bitOf img 18
  let x := if shx then Mem.readNat s.mem (memKey a + 128) 64 else 0
  let d := Desc.ofImage img x c.part
  firstErr [
    c.reservedErr 0x0101 [(767, 66)],
    s.bodyAddr c.part a 128 16 0,
    s.controlErr a 128,
    if shx then firstErr [s.bodyAddr c.part a 192 16 0, s.controlErr a 192] else none,
    imageChecks img d,
    s.placeChecks d x]

/-- The generation an entry takes at its next use (R44). -/
def TdEntry.nextGen (e : TdEntry) (i : Nat) : Nat :=
  if !e.used then (if i == 0 then 1 else 0)
  else if i == 0 then e.gen % 3 + 1 else (e.gen + 1) % 4

/-- The entry of a valid image (R44, R58): PARTITION is the command's. -/
def State.newTd (s : State) (c : Cmd) (i : Nat) : TdEntry :=
  let a := c.f 63 0
  let img := Mem.readNat s.mem (memKey a) 128
  { st := .live
    gen := (s.tdEntry i).nextGen i
    used := true
    part := c.part
    image := BitVec.ofNat 1024 (setField img 28 26 c.part)
    ext := if bitOf img 18 then BitVec.ofNat 512 (Mem.readNat s.mem (memKey a + 128) 64) else 0 }

def handleOf (die gen index : Nat) : Nat := die <<< 18 + gen <<< 16 + index

/-- A free entry of the die takes the descriptor and the handle is the result; with none free, 0x0801 (R57 step 16). -/
def State.tdInstall (s : State) (c : Cmd) : State :=
  let die := c.f 65 64
  match s.pickFree 65536 fun i => (s.tdEntry (die * 65536 + i)).st != .free with
  | none => s.cmdFail c.r c.p { code := 0x0801 }
  | some i =>
    let e := s.newTd c (die * 65536 + i)
    ((s.setTd (die * 65536 + i) e).useFree 1).cmdDone c.r c.p (handleOf die e.gen i)

/-- Whether the image, its shard extension or its package list lies in an HBM unit that is still being cleared, or in a scratchpad where a
range that it overlaps is filling: the read waits (R271, R280, R390). -/
def State.tdWaits (s : State) (c : Cmd) : Bool :=
  let a := c.f 63 0
  let waits (n : Nat) : Bool := (s.bodyAddr c.part a n 16 0).isNone && s.readWaits c a n
  let img := Mem.readNat s.mem (memKey a) 128
  let d := Desc.ofImage img (Mem.readNat s.mem (memKey a + 128) 64) c.part
  (c.reservedErr 0x0101 [(767, 66)]).isNone && (waits 128 || (bitOf img 18 && (waits 192
    || ((s.addrCode c.part d.plist (8 * d.copies) 16).isNone && s.readWaits c d.plist (8 * d.copies)))))

def effTdCreate (r p : Nat) (s : State) : State :=
  s.started r p 0x01 fun c => if s.tdWaits c then s else s.orFail c (s.tdCreateErr c) (s.tdInstall c)

/-- TD_CREATE (R57, R58). -/
def execTdCreate (r p : Nat) (s : State) : Out := answer (okRing r) (effTdCreate r p s)

def State.tdDestroyErr (s : State) (c : Cmd) : Option Err :=
  firstErr [
    c.reservedErr 0x0101 [(767, 20)],
    errIf (s.liveHandle c.part (c.f 19 0)).isNone (bodyErr 0x0106 0)]

def effTdDestroy (r p : Nat) (s : State) : State :=
  s.started r p 0x02 fun c =>
    let h := c.f 19 0
    s.orFail c (s.tdDestroyErr c)
      ((s.setTd (handleIndex h) { s.tdEntry (handleIndex h) with st := .dying }).cmdPhase r p .running)

/-- TD_DESTROY: the entry enters the dying state (R59). -/
def execTdDestroy (r p : Nat) (s : State) : Out := answer (okRing r) (effTdDestroy r p s)

/-- Handles that an op's chain block names (R197). -/
def chainHandles (chain : Nat) : List Nat :=
  [field chain 175 156, field chain 195 176, field chain 215 196, field chain 235 216, field chain 255 236].filter (· != 0)

/-- The chain block of a command: as its op has read it, or as it stands in memory until the op is issued (R456). -/
def State.chainOf (s : State) (c : Cmd) : Nat :=
  match s.op c.r c.p with
  | some o => o.chain
  | none => if c.chainAddr == 0 then 0 else s.chainAt c.chainAddr

/-- Whether an outstanding command that has started still uses a handle, by its body or by its chain (R59). -/
def State.handleUsed (s : State) (h : Nat) : Bool :=
  s.cmds.any fun c =>
    (c.phase == .started || c.phase == .running) && (c.bodyHandles.contains h || (chainHandles (s.chainOf c)).contains h)

def effTdDestroyDone (r p : Nat) (s : State) : State :=
  s.running r p 0x02 fun c =>
    let h := c.f 19 0
    if s.handleUsed h then s
    else (s.setTd (handleIndex h) { s.tdEntry (handleIndex h) with st := .free, bad := false }).cmdDone r p 0

/-- TD_DESTROY_DONE: once the last op accepted before has completed, the destroy completes and the entry can be reused (R59). -/
def execTdDestroyDone (r p : Nat) (s : State) : Out := answer (okRing r) (effTdDestroyDone r p s)

end Sys2Proof.Machine
end

