-- ==== Sys2Proof/Machine/Locks.lean ====
section
/-! DEFINITION. Lock cells, and the RELEASEs that a core holds (12_memories_queues_locks.md). -/

namespace Sys2Proof.Machine

/-- The partition of a requester: a host's function, a core's region; a DMP belongs to none (R288, R347). -/
def State.requesterPart (s : State) : Requester → Option Nat
  | .core n => s.regionPart (n / 8)
  | .host _ part => some part
  | .dmp => none

def lockIndex (region cell : Nat) : Nat := region * 4096 + cell

/-- OWNER of a requester (R297). -/
def ownerCode : Requester → Nat
  | .core n => n
  | .host port _ => 0x80 + port
  | .dmp => 0x82

/-- STATE of a cell: 0 FREE, 1 HELD, 2 ABANDONED; a cell that fails its check counts as ABANDONED (R298, R402). -/
def State.lockState (s : State) (l : Lock) : Nat :=
  if l.bad then 2 else if l.st == .free then 0 else if s.epoch l.owner == l.epoch then 1 else 2

/-- Whether a cell answers a requester: one of another partition changes nothing (R301, R347). -/
def State.mayLock (s : State) (who : Requester) (region : Nat) : Bool :=
  match who with
  | .dmp => true
  | _ => (s.requesterPart who).isSome && s.requesterPart who == s.regionPart region

/-- The requester becomes the owner with its current epoch; a cell that failed its check is logged (R402, R418). -/
def State.grantLock (s : State) (who : Requester) (i : Nat) : State :=
  (if (s.lock i).bad then s.lostQuietly 2 (i / 4096) else s).setLock i
    { st := .held, owner := ownerCode who, epoch := s.epoch (ownerCode who) }

/-- The status word of an operation on a cell: STATE before it, the owner and epoch recorded after it (R297; DEDUCED, log 45: the table says
"before" of STATE alone). `granted` for an ACQUIRE that succeeds. -/
def lockWord (before : Nat) (granted : Bool) (after : Lock) : Nat :=
  (if granted then 1 else 0) + (if granted && before == 2 then 2 else 0) + before <<< 2 + after.owner <<< 32 + after.epoch <<< 40

/-- The reply of a lock operation. One from another partition completes with 0x0303 (R301), or reads as 0 through BAR 2/3 (R347). -/
def State.lockAnswer (s : State) (who : Requester) (region cell before : Nat) (granted : Bool) : State :=
  { s with lockReply :=
      if s.mayLock who region then (lockWord before granted (s.lock (lockIndex region cell)), 0)
      else match who with
        | .host _ _ => (0, 0)
        | _ => (0, 0x0303) }

def effLockAcquire (who : Requester) (region cell : Nat) (s : State) : State :=
  let i := lockIndex region cell
  let st := s.lockState (s.lock i)
  (if !s.mayLock who region then s
    else match st with
      | 0 => s.grantLock who i
      | 2 => (s.grantLock who i).regionBump 0x5209 region 1
      | _ => s).lockAnswer who region cell st (st != 1)

/-- LOCK_ACQUIRE: an 8-byte read at offset 0 (R299). -/
def execLockAcquire (who : Requester) (region cell : Nat) (s : State) : Out :=
  answer (who.ok && okRegion region && okCell cell) (effLockAcquire who region cell s)

def effLockTest (who : Requester) (region cell : Nat) (s : State) : State :=
  s.lockAnswer who region cell (s.lockState (s.lock (lockIndex region cell))) false

/-- LOCK_TEST: an 8-byte read at offset 8 returns the status word and changes nothing (R297). -/
def execLockTest (who : Requester) (region cell : Nat) (s : State) : Out :=
  answer (who.ok && okRegion region && okCell cell) (effLockTest who region cell s)

def State.lockMisuse (s : State) (region : Nat) : State := (s.setBit 0x4200 (region + 1) 3).regionBump 0x520A region 1

/-- A RELEASE reaches its cell: by the recorded owner with its current epoch it frees it; any other is misuse (R300). -/
def State.releaseLock (s : State) (who : Requester) (region cell : Nat) : State :=
  let i := lockIndex region cell
  let l := s.lock i
  let st := s.lockState l
  (if !s.mayLock who region then s
    else if st == 1 && l.owner == ownerCode who then s.setLock i { l with st := .free }
    else s.lockMisuse region).lockAnswer who region cell st false

/-- Whether a record that entered a core's outbound queue before the one numbered `seq` still has to be accepted at its destination: it is in the
queue, or its response has not come (R300, R328). -/
def State.recordsBefore (s : State) (core seq : Nat) : Bool :=
  (s.core core).outq.any (fun x => x.seq < seq) || s.txns.any fun t => t.core == core && t.kind == .write && t.unit.isSome && t.seq < seq

/-- The RELEASEs that a core holds reach their cells, in order, once their records have been accepted (R300). -/
def State.letReleases (s : State) (core : Nat) : State :=
  let due (x : HeldRelease) : Bool := !s.recordsBefore core x.seq
  let c := s.core core
  if c.releases.any due then
    (c.releases.filter due).foldl (fun s x => s.releaseLock (.core core) x.region x.cell)
      (s.setCore core { c with releases := c.releases.filter fun x => !due x })
  else s

/-- The record number at which a core's RELEASE has to wait, if it has to: some record is on its way, or an earlier RELEASE waits (R300). -/
def State.releaseBehind (s : State) : Requester → Option Nat
  | .core n => if s.recordsBefore n (s.core n).nextRec || !(s.core n).releases.isEmpty then some (s.core n).nextRec else none
  | _ => none

def effLockRelease (who : Requester) (region cell : Nat) (s : State) : State :=
  match who, s.releaseBehind who with
  | .core n, some seq =>
    if !s.mayLock who region then s.releaseLock who region cell
    else
      let c := s.core n
      s.setCore n { c with releases := c.releases ++ [{ region := region, cell := cell, seq := seq }] }
  | _, _ => s.releaseLock who region cell

/-- LOCK_RELEASE: an 8-byte write at offset 8; a core holds its own until its earlier records have been accepted (R300). -/
def execLockRelease (who : Requester) (region cell : Nat) (s : State) : Out :=
  answer (who.ok && okRegion region && okCell cell) (effLockRelease who region cell s)

def effLockMisuseWrite (who : Requester) (region cell : Nat) (s : State) : State :=
  (if s.mayLock who region then s.lockMisuse region else s).lockAnswer who region cell
    (s.lockState (s.lock (lockIndex region cell))) false

/-- LOCK_MISUSE_WRITE: a write at offset 0 (R300). -/
def execLockMisuseWrite (who : Requester) (region cell : Nat) (s : State) : Out :=
  answer (who.ok && okRegion region && okCell cell) (effLockMisuseWrite who region cell s)

end Sys2Proof.Machine
end

