-- ==== Sys2Proof/Machine/Messages.lean ====
section
/-! DEFINITION. The Porinot link's messages and flits (13_links_and_windows.md): header fields, routing and classes, credits, and the
packing of a message into flits. -/

namespace Sys2Proof

-- ## The message header (R314)

def Msg.f (m : Msg) (hi lo : Nat) : Nat := field m.hdr.toNat hi lo
def Msg.type (m : Msg) : Nat := m.f 5 0
def Msg.len (m : Msg) : Nat := m.f 16 8
def Msg.req (m : Msg) : Nat := m.f 27 20
def Msg.tag (m : Msg) : Nat := m.f 43 28
def Msg.spart (m : Msg) : Nat := m.f 46 44
def Msg.spkg (m : Msg) : Nat := m.f 58 47
def Msg.dpkg (m : Msg) : Nat := m.f 70 59
def Msg.ddie (m : Msg) : Nat := m.f 72 71
def Msg.slot (m : Msg) : Nat := m.f 89 73
def Msg.isBound (m : Msg) : Bool := m.f 90 90 == 1
def Msg.gen (m : Msg) : Nat := m.f 106 91
def Msg.off (m : Msg) : Nat := m.f 175 128
def Msg.arg (m : Msg) : Nat := m.f 239 176
def Msg.status (m : Msg) : Nat := m.f 255 240

structure Hdr where
  type : Nat
  cls : Nat := 0
  len : Nat := 0
  req : Nat := 0
  tag : Nat := 0
  spart : Nat := 0
  spkg : Nat := 0
  dpkg : Nat := 0
  ddie : Nat := 0
  slot : Nat := 0
  bound : Bool := false
  gen : Nat := 0
  off : Nat := 0
  arg : Nat := 0
  status : Nat := 0
  deriving DecidableEq, Repr

def Hdr.bits (h : Hdr) : BitVec 256 :=
  BitVec.ofNat 256 (h.type % 64 + (h.cls % 2) <<< 7 + (h.len % 512) <<< 8 + (h.req % 256) <<< 20 + (h.tag % 65536) <<< 28
    + (h.spart % 8) <<< 44 + (h.spkg % 4096) <<< 47 + (h.dpkg % 4096) <<< 59 + (h.ddie % 4) <<< 71 + (h.slot % 131072) <<< 73
    + (if h.bound then 1 else 0) <<< 90 + (h.gen % 65536) <<< 91 + (h.off % 2 ^ 48) <<< 128 + (h.arg % 2 ^ 64) <<< 176
    + (h.status % 65536) <<< 240)

/-- The response to a request (R314): TAG is returned, SPKG and DPKG are swapped, GEN carries OGEN. -/
def Msg.reply (m : Msg) (type ogen len status : Nat) (data : List Byte) : Msg :=
  { hdr := Hdr.bits { type := type, len := len, req := m.req, tag := m.tag, spart := m.spart, spkg := m.dpkg, dpkg := m.spkg
                      ddie := m.ddie, slot := m.slot, bound := m.isBound, gen := ogen, off := m.off, status := status }
    data := data }

/-- The virtual channel of a type, none for an unknown type (R315). -/
def vcOf (type : Nat) : Option Nat :=
  match type with
  | 0x01 | 0x02 => some 0
  | 0x08 | 0x09 => some 2
  | 0x10 | 0x11 | 0x12 | 0x13 => some 1
  | 0x20 => some 3
  | _ => none

/-- Data slots that follow a header: an RD carries none (R315). -/
def dataSlots (type len : Nat) : Nat := if type == 0x01 then 0 else len

/-- Credit units of a message: 64 bytes each (R312). -/
def Msg.units (m : Msg) : Nat := ceilDiv (32 + m.data.length) 64

def Msg.withClass (m : Msg) (cls : Nat) : Msg := { m with hdr := BitVec.ofNat 256 (setField m.hdr.toNat 7 7 cls) }

end Sys2Proof

namespace Sys2Proof.Machine

-- ## Routing (R317 to R319)

/-- An entry of a die's routing table. -/
def State.route (s : State) (die pkg : Nat) : Nat := AMap.getD s.routes (die * 4096 + pkg) 0

/-- The egress port for a package, by the table of a die: none where V = 0. An entry that fails its check (R401) names no port either: R402 gives
it no action (DESIGN CHOICE, log 175). -/
def State.egressPort (s : State) (die pkg : Nat) : Option Nat :=
  let e := s.route die pkg
  if bitOf e 15 && !s.badRoutes.contains (die * 4096 + pkg) then some (8 * field e 11 10 + field e 7 5) else none

def State.linkOn (s : State) (pp : Nat) : Bool := s.fnState .link pp == 2

/-- Class on leaving by a port (R319); `from_` is the port a message in transit arrived by. -/
def State.leaveClass (s : State) (pp : Nat) (from_ : Option Nat) (cls : Nat) : Nat :=
  let cfg := s.odGet 0x3141 (pp + 1)
  let same := match from_ with
    | some q => field (s.odGet 0x3141 (q + 1)) 7 6 == field cfg 7 6
    | none => false
  if bitOf cfg 8 then 1 else if same then cls else 0

-- ## Flits (R310)

/-- The IEEE 802.3 frame check sequence, reflected, over the low `n` bits of `d`, from the register `c`. -/
def crcBits : Nat → Nat → Nat → Nat
  | 0, _, c => c
  | n + 1, d, c =>
    match (c ^^^ d) % 2 with
    | 0 => crcBits n (d / 2) (c / 2)
    | _ => crcBits n (d / 2) ((c / 2) ^^^ 0xEDB88320)

/-- FCRC over bytes 0 to 11 and 16 to 255 (R310). -/
def flitCrc (f : BitVec 2048) : Nat :=
  crcBits 2016 (f.toNat % 2 ^ 96 + f.toNat / 2 ^ 128 * 2 ^ 96) 0xFFFFFFFF ^^^ 0xFFFFFFFF

/-- A flit with its check. `body` is 240 bytes. -/
def mkFlit (seq ack : Nat) (nak : Bool) (first : Nat) (cred : List Nat) (body : List Byte) : BitVec 2048 :=
  let credits := (List.range 8).foldl (fun a i => a + min 63 (cred.getD i 0) <<< (16 + 6 * i)) 0
  let h := credits + (first % 16) <<< 64 + (if nak then 1 else 0) <<< 71 + (ack % 4096) <<< 72 + (seq % 4096) <<< 84
  let v := BitVec.ofNat 2048 (h + natOf body <<< 128)
  BitVec.ofNat 2048 (v.toNat + flitCrc v <<< 96)

/-- The last sequence number received in order. -/
def Port.lastAck (p : Port) : Nat := (p.rxSeq + 4095) % 4096

/-- One flit leaves: its sequence number, the acknowledgement, a NAK that is due, and up to 63 credits of each pool. It stays in the
retry buffer (R311). -/
def State.sendFlit (s : State) (pp first : Nat) (body : List Byte) : State :=
  let p := s.port pp
  let f := mkFlit p.txSeq p.lastAck p.nak first p.owed body
  (s.setPort pp { p with
    txSeq := (p.txSeq + 1) % 4096
    retry := p.retry ++ [(p.txSeq, f)]
    owed := p.owed.map fun o => o - min 63 o
    nak := false }).bump 0x5400 (pp + 1) 1

/-- A message's bytes leave in fresh flits of 15 slots, the last one filled with zero slots (DESIGN CHOICE, log 14). -/
def State.sendBody (s : State) (pp : Nat) (first : Nat) (bytes : List Byte) : Nat → State
  | 0 => s
  | n + 1 =>
    let b := bytes.take 240
    (s.sendFlit pp first (b ++ List.replicate (240 - b.length) 0)).sendBody pp 15 (bytes.drop 240) n

/-- A message leaves by a port (R313), and its pool's credit is used (R312). -/
def State.sendMessage (s : State) (pp cls : Nat) (m : Msg) : State :=
  let bytes := bytesOf m.hdr.toNat 32 ++ m.data
  let pool := 2 * (vcOf m.type).getD 0 + cls
  let p := s.port pp
  let s := s.setPort pp { p with credits := p.credits.set pool (p.credits.getD pool 0 - m.units) }
  s.sendBody pp 0 bytes (ceilDiv bytes.length 240)

-- ## What leaves next (R312, R335)

/-- Messages of a port's first-in first-out path: responses, and transit from a port of the same die. -/
def State.fifoOf (s : State) (pp : Nat) : List Egress := s.egress.filter fun e => e.pp == pp

/-- Messages that a port's arbiter has committed. -/
def State.committedOf (s : State) (pp : Nat) : List Egress := (s.arbiter (.egress pp)).committed

/-- The class in which a message would leave now. -/
def State.classOf (s : State) (e : Egress) : Nat := s.leaveClass e.pp e.via (e.msg.f 7 7)

/-- The credit pool of a message: 2v + c (R310, R312). -/
def State.poolOf (s : State) (e : Egress) : Nat := 2 * (vcOf e.msg.type).getD 0 + s.classOf e

/-- Whether a message's pool holds credit for all of it. -/
def State.credited (s : State) (e : Egress) : Bool := e.msg.units ≤ (s.port e.pp).credits.getD (s.poolOf e) 0

def Egress.isMgmt (e : Egress) : Bool := vcOf e.msg.type == some 3

/-- The first message of a path that has credit; none passes another of its pool. `seen` are the pools that wait for credit. -/
def State.firstOut (s : State) (mgmt : Bool) : List Nat → List Egress → Option Egress
  | _, [] => none
  | seen, e :: es =>
    if e.isMgmt != mgmt || seen.contains (s.poolOf e) then s.firstOut mgmt seen es
    else if s.credited e then some e
    else s.firstOut mgmt (seen ++ [s.poolOf e]) es

/-- The message that a port sends next, and whether it comes from the first-in first-out path: a management message first, and otherwise one of
the path whose turn it is, or of the other when that has none to send. -/
def State.nextOut (s : State) (pp : Nat) : Option (Bool × Egress) :=
  let pick (fifo mgmt : Bool) : Option (Bool × Egress) :=
    (s.firstOut mgmt [] (if fifo then s.fifoOf pp else s.committedOf pp)).map fun e => (fifo, e)
  let turn := !(s.port pp).lastFifo
  (((pick true true).or (pick false true)).or (pick turn false)).or (pick (!turn) false)

/-- A message leaves its path. -/
def State.unqueue (s : State) (fifo : Bool) (e : Egress) : State :=
  if fifo then { s with egress := s.egress.erase e }
  else
    let v := s.arbiter (.egress e.pp)
    s.setArbiter (.egress e.pp) { v with committed := v.committed.erase e }

/-- Messages leave a port one after another, while it is ON and not retraining and its retry buffer has room. -/
def State.pump (s : State) (pp : Nat) : Nat → State
  | 0 => s
  | n + 1 =>
    match s.nextOut pp with
    | none => s
    | some (fifo, e) =>
      let p := s.port pp
      if !p.retraining && s.linkOn pp && p.retry.length + ceilDiv (32 + e.msg.data.length) 240 ≤ 512 then
        let c := s.classOf e
        let s := (s.setPort pp { p with lastFifo := if e.isMgmt then p.lastFifo else fifo }).unqueue fifo e
        (s.sendMessage pp c (e.msg.withClass c)).pump pp n
      else s

/-- Every message that can leave a port does. -/
def State.flush (s : State) (pp : Nat) : State := s.pump pp ((s.fifoOf pp).length + (s.committedOf pp).length)

/-- Whether messages wait to leave by a port: a busy port accepts no further record (R286). -/
def State.portBusy (s : State) (pp : Nat) : Bool :=
  let v := s.arbiter (.egress pp)
  !(s.fifoOf pp).isEmpty || !v.committed.isEmpty || v.waiting.any (fun x => x.out.isSome) || v.cur.any fun x => x.out.isSome

/-- Whether the output of an arbiter waits for link credits (R340). -/
def State.noCredit (s : State) : Arb → Bool
  | .region _ => false
  | .egress pp =>
    s.linkOn pp && !(s.port pp).retraining && (s.nextOut pp).isNone && !((s.fifoOf pp).isEmpty && (s.committedOf pp).isEmpty)

-- ## Into egress (R317, R333, R335)

/-- A response, or transit from a port of the same die, takes the path that does not pass the arbiter. -/
def State.enqueue (s : State) (e : Egress) : State := { s with egress := s.egress ++ [e] }.flush e.pp

/-- Whether a message of a masked requester is asked for none the less: a record that the region DMA carries on (R389, R407), or a read of the
region DMA's own (DESIGN CHOICE, log 174). -/
def State.carriesOn (s : State) (pp req : Nat) (x : ArbReq) : Bool :=
  req < 32 && (x.isRecord || (s.fnState .region (4 * (pp / 8) + req / 8) == 2 && s.dmaRead x))

/-- The waiting requesters of an arbiter receive their turn estimates (R340). -/
def State.tellTurns (s : State) (a : Arb) : State := s.setArbiter a ((s.arbiter a).turns a (s.noCredit a))

/-- Any other message asks at the port's arbiter as a requester; a masked one's request is ignored (R336). -/
def State.raise_ (s : State) (req : Nat) (e : Egress) : State :=
  let a : Arb := .egress e.pp
  let n := 32 + e.msg.data.length
  let v := s.arbiter a
  let x : ArbReq := { req := req, kind := .outbound, total := n, left := n, latest := 0, since := v.cycle, out := some e }
  if s.arbMasked a req && !s.carriesOn e.pp req x then s
  else (((s.setArbiter a (v.send a (s.gentle a) x)).flush e.pp).tellTurns a).unpark a

/-- A message that a die holds leaves by a port: its own requester's number there, or that of traffic from another die (R333, R335). -/
def State.depart (s : State) (die req : Nat) (e : Egress) : State :=
  if vcOf e.msg.type == some 1 then s.enqueue e
  else if die == e.pp / 8 then (if e.via.isSome then s.enqueue e else s.raise_ req e)
  else s.raise_ (ingressReq die (e.pp / 8)) e

/-- A routing table entry that fails its check as it is read is logged (R401, R417). -/
def State.noteRoute (s : State) (die pkg : Nat) : State := if s.badRoutes.contains (die * 4096 + pkg) then s.lostQuietly 1 die else s

/-- A message of this package leaves for another one by the table of `die` (R317). The port is ON and the route valid where a
requester has checked them; a message that meets neither is discarded and counted (R318). -/
def State.originate (s : State) (die : Nat) (m : Msg) : State :=
  match s.egressPort die m.dpkg with
  | none => (s.noteRoute die m.dpkg).dieBump 0x5312 die 1
  | some pp => if s.linkOn pp then s.depart die (if m.req < 128 then m.req % 32 else 35) ⟨pp, none, m⟩ else s.dieBump 0x5312 die 1

/-- Why a request to a package cannot be sent from a die (R318). -/
def State.routeErr (s : State) (die pkg : Nat) : Option Nat :=
  match s.egressPort die pkg with
  | none => some 0x0406
  | some pp => if s.linkOn pp then none else some 0x0A01

-- ## ARBITER_REQUEST

/-- Messages that an egress arbiter has committed leave. -/
def State.flushArb (s : State) : Arb → State
  | .region _ => s
  | .egress pp => s.flush pp

def effArbiterRequest (a : Arb) (cycles req : Nat) (kind : Traffic) (bytes : Nat) (s : State) : State :=
  let g := s.gentle a
  let s := (s.setArbiter a ((s.arbiter a).run a g cycles)).flushArb a
  let v := s.arbiter a
  if s.arbMasked a req || bytes == 0 then (s.tellTurns a).unpark a
  else
    let t := s.latest a v.cycle req kind
    let x : ArbReq := { req := req, kind := kind, total := bytes, left := bytes, latest := t, since := v.cycle }
    let again := match v.cur with | some c => s.latest a v.cycle c.req c.kind | none => 0
    ((s.setArbiter a (v.ask a g x again)).tellTurns a).unpark a

/-- ARBITER_REQUEST: `cycles` cycles after the arbiter's last event, a requester asks for a transfer of `bytes` (R333 to R341). -/
def execArbiterRequest (arb : Arb) (cycles req : Nat) (kind : Traffic) (bytes : Nat) (s : State) : Out :=
  answer (arb.ok && arb.okReq req && bytes ≤ arb.most) (effArbiterRequest arb cycles req kind bytes s)

end Sys2Proof.Machine
end

