-- ==== Sys2Proof/Machine/Bank.lean ====
section
/-! DEFINITION. The bank engines and HBM atomic stages (08_scatter_and_reductions.md): reads and coalescing, writes, lane adds, extrema
and fetch-adds on one 64-byte line, the stale-ticket drop, and what a failing HBM sector leads to. -/

namespace Sys2Proof.Machine

-- ## One lane

def laneFmt (fmt : Nat) : Fmt := fmtD fmt

/-- Lanes of a line and their bits: 32 of 16 for BF16, 16 of 32 otherwise (R167). -/
def laneCount (fmt : Nat) : Nat := if fmt == 0x14 then 32 else 16
def laneBits (fmt : Nat) : Nat := if fmt == 0x14 then 16 else 32

/-- A lane's sum, rounded to nearest even in the lane format or saturated, and whether an INT32 lane saturated (R168, R24). -/
def addLane (fmt a b : Nat) : Nat × Bool :=
  let f := laneFmt fmt
  encode f 0 0 (Val.add 0 (decodeVal f a) (decodeVal f b))

/-- A lane's extremum; a lane that already holds a NaN keeps it, quieted (R168, R41). -/
def extLane (isMax : Bool) (fmt a b : Nat) : Nat :=
  let f := laneFmt fmt
  let x := decodeVal f a
  let y := decodeVal f b
  if x.isNan then (encode f 0 0 x.quiet).1 else (encode f 0 0 (if isMax then Val.max x y else Val.min x y)).1

/-- A pair's extremum with winner index: value [31:0], index [63:32]; of two equal values the lower index wins (R168). -/
def extPair (isMax : Bool) (fmt a b : Nat) : Nat :=
  let f := laneFmt fmt
  let x := decodeVal f (a % 2 ^ 32)
  let y := decodeVal f (b % 2 ^ 32)
  if x.isNan then (encode f 0 0 x.quiet).1 + field a 63 32 <<< 32
  else if y.isNan then (encode f 0 0 y.quiet).1 + field b 63 32 <<< 32
  else
    let better := if isMax then x.rankLt y else y.rankLt x
    let worse := if isMax then y.rankLt x else x.rankLt y
    if better then b else if worse then a
    else a % 2 ^ 32 + min (field a 63 32) (field b 63 32) <<< 32

/-- The lanes of `width` bits of a line, combined where the mask has their bit. -/
def mapLanes (n width : Nat) (mask old data : Nat) (f : Nat → Nat → Nat) : Nat :=
  (List.range n).foldl (fun acc i =>
    let a := field old (width * i + width - 1) (width * i)
    let b := field data (width * i + width - 1) (width * i)
    acc + (if bitOf mask i then f a b else a) <<< (width * i)) 0

/-- Whether a masked add saturates a lane. -/
def addSaturates (fmt mask old data : Nat) : Bool :=
  (List.range (laneCount fmt)).any fun i =>
    let w := laneBits fmt
    bitOf mask i && (addLane fmt (field old (w * i + w - 1) (w * i)) (field data (w * i + w - 1) (w * i))).2

-- ## One line of memory

/-- The bytes of a line that a nibble mask names, merged by nibble (R29, R167). -/
def writeNibbles (mem : List Host.Cell) (key data nib : Nat) : List Host.Cell :=
  (List.range 64).foldl (fun m i =>
    let lo := bitOf nib (2 * i)
    let hi := bitOf nib (2 * i + 1)
    if lo || hi then
      let old := (Mem.read m (key + i)).toNat
      let new := field data (8 * i + 7) (8 * i)
      Mem.write m (key + i)
        (BitVec.ofNat 8 ((if lo then new % 16 else old % 16) + (if hi then new / 16 else old / 16) * 16))
    else m) mem

/-- Granules that a masked write of a line covers whole no longer fail their check (R410, R455). -/
def State.mend (s : State) (key nib : Nat) : State :=
  s.mendBy fun g => key ≤ g && g + granule g ≤ key + 64
    && field nib (2 * (g - key) + 2 * granule g - 1) (2 * (g - key)) == 2 ^ (2 * granule g) - 1

/-- A write or atomic operation on 64 bytes closes the open groups of the lines that they lie in (R170). -/
def State.closeGroup (s : State) (key : Nat) : State := s.closeGroups key 64

/-- A masked write of a line (R167); where it covers a failing granule in part, the merge meets it (R455). -/
def State.lineWrite (s : State) (key data nib : Nat) : State :=
  (({ s with mem := writeNibbles s.mem key data nib }.mend key nib).closeGroup key).noteGranules fun g =>
    key ≤ g && g < key + 64 && field nib (2 * (g - key) + 2 * granule g - 1) (2 * (g - key)) != 0

/-- A read-modify-write of a line: all 64 bytes are written back; a failing granule is met, and keeps failing (R401, R455). -/
def State.lineUpdate (s : State) (key new : Nat) : State :=
  ({ s with mem := Mem.writeNat s.mem key new 64 }.closeGroup key).noteBad key 64

def State.line (s : State) (key : Nat) : Nat := Mem.readNat s.mem key 64

def State.lineAdd (s : State) (key fmt mask data : Nat) : State :=
  s.lineUpdate key (mapLanes (laneCount fmt) (laneBits fmt) mask (s.line key) data fun a b => (addLane fmt a b).1)

def State.lineExt (s : State) (key : Nat) (isMax : Bool) (fmt mask data : Nat) : State :=
  s.lineUpdate key (mapLanes 16 32 mask (s.line key) data (extLane isMax fmt))

def State.lineExtIndex (s : State) (key : Nat) (isMax : Bool) (fmt mask data : Nat) : State :=
  s.lineUpdate key (mapLanes 8 64 mask (s.line key) data (extPair isMax fmt))

/-- A fetch-add on 8 bytes, saturating at 2^64 − 1; the old value is `Mem.readNat s.mem key 8` (R167). -/
def State.fetchAdd (s : State) (key amount : Nat) : State :=
  { s with mem := Mem.writeNat s.mem key (min (2 ^ 64 - 1) (Mem.readNat s.mem key 8 + amount)) 8 }.closeGroup (key / 64 * 64)

-- ## Coalescing (R170)

/-- A read joins the open group of its line, or opens one; a request served without a read of its own is counted for its region. -/
def State.coalesce (s : State) (key : Nat) : State :=
  let n := AMap.getD s.groups key 0
  if 0 < n && n < 64 then
    let s := { s with groups := AMap.set s.groups key (n + 1) }
    if key / 2 ^ 48 % 4 == 1 then s.regionBump 0x5207 (4 * (key / 2 ^ 50) + field key 31 30) 1 else s
  else { s with groups := AMap.set s.groups key 1 }

-- ## Reads served

/-- A read of a line is served: it joins its group, and a granule that fails its check is logged (R409, R418). -/
def State.serveRead (s : State) (key : Nat) : State :=  (s.coalesce key).noteBad key 64

-- ## Tickets (R171)

def ticketRegion (t : Ticket) : Nat := field t.toNat 63 60

/-- A record whose ticket matches the stale-ticket list is dropped and counted for its region. -/
def State.staleDrop (s : State) (t : Ticket) : State :=
  let rr := ticketRegion t
  (s.regionBump 0x5206 rr 1).setBit 0x4200 (rr + 1) 2

def State.isStale (s : State) : Option Ticket → Bool
  | some t => s.stale.contains t
  | none => false

-- ## Answers of a window request (R321)

def State.acceptedReq (s : State) (id : Nat) : Option Accepted := s.accepted.find? fun a => a.id == id

/-- INFLIGHT of a slot falls by one. -/
def State.landed (s : State) (die slot : Nat) : State :=
  let i := slotIndex die slot
  let sl := s.slot i
  s.setSlot i { sl with inflight := sl.inflight - 1 }

/-- An accepted request has been applied: INFLIGHT falls, and its response enters egress by the table of the die that served it
(R317, R321). -/
def State.answerReq (s : State) (a : Accepted) (type len : Nat) (data : List Byte) : State :=
  let s := { s with accepted := s.accepted.filter fun b => b.id != a.id }
  (s.landed a.die a.slot).originate a.die (a.msg.reply type a.ogen len 0 data)

/-- An accepted read whose data fails its check has nothing to answer with: it is dropped, and its requester meets its timeout
(DESIGN CHOICE, log 15). -/
def State.dropReq (s : State) (a : Accepted) : State :=
  { s with accepted := s.accepted.filter fun b => b.id != a.id }.landed a.die a.slot

/-- All lines of an accepted read. -/
def linesOf (key len : Nat) : List Nat :=
  (List.range ((key + len + 63) / 64 - key / 64)).map fun i => (key / 64 + i) * 64

-- ## The commands

/-- An atomic operation of R167, as `Config.atCode` numbers them: its format, its lane mask, its data, and the key of a fetch-add's word. -/
structure BankArgs where
  op : Nat
  fmt : Nat
  lanes : Nat
  data : Nat
  key : Nat
  deriving DecidableEq, Repr

/-- Operations and lane formats that an AT can carry. -/
def atKinds : List (Nat × Nat) :=
  [(2, 0x04), (2, 0x15), (2, 0x14), (3, 0x04), (3, 0x15), (4, 0x04), (4, 0x15), (5, 0x04), (5, 0x15), (6, 0x04), (6, 0x15), (7, 0)]

/-- What the ARG and the data slots of an accepted AT ask for, on the 64 bytes at BASE + OFFSET (R314, R315, R321); none for a code that stands for nothing. -/
def Accepted.bankArgs (a : Accepted) : Option BankArgs :=
  (atKinds.find? fun x => (Config.atCode x.1 x.2).toNat == a.msg.arg % 256).map fun x =>
    let lanes := field a.msg.arg 39 8
    let data := natOf (a.msg.data.take 64)
    let line := a.addr
    if x.1 == 7 then
      let lane := Nat.log2 lanes % 8
      ⟨7, 0, lanes, field data (64 * lane + 63) (64 * lane), line + 8 * lane⟩
    else ⟨x.1, x.2, lanes, data, line⟩

/-- An accepted request ends without being applied, and its requester is told the code. -/
def State.endReq (s : State) (a : Accepted) (code : Nat) : State :=
  (({ s with accepted := s.accepted.filter fun b => b.id != a.id }.sbFreeMem 513 a.id a.addr).landed a.die a.slot).originate a.die
    (a.msg.reply 0x13 a.ogen 0 code [])

/-- An access that is not served ends its op (R12, R267, R389), and an accepted request for those bytes, so that its slot can close (R321, R416;
DEDUCED, log 213). -/
def State.accessFails (s : State) (src : Src) (addr : Nat) (e : Err) : State :=
  match src with
  | .eng r p _ => s.cmdError r p e
  | .win id => match s.acceptedReq id with
    | some a => if a.addr / 64 == memKey addr / 64 then s.endReq a e.code else s
    | none => s

/-- The claim ticket of the record that an operation comes from. -/
def srcTicket : Src → Option Ticket
  | .eng _ _ t => t
  | .win _ => none

/-- An operation on the bytes at an address, once memory serves it: an access that is not served fails, and one to a unit that is being
cleared waits (R12, R267, R271, R389). -/
def State.bankAccess (s : State) (src : Src) (addr : Nat) (serve : State) : State :=
  match s.accessErr addr 1 (srcTicket src) with
  | some e => s.accessFails src addr e
  | none => if s.clearingIn (memKey addr / 64 * 64) 64 then s else serve

/-- A bank operation comes from a record of an op, with its own operands, or from an accepted AT, with those of the message; `apply` is its
effect. An old value that fails its check is not returned (R401): it ends an op with 0x0701 (R402), and a request is dropped (log 15). A stale record is dropped (R171), an operation from no accepted request of its kind changes nothing, and one on memory that is being
cleared waits (R271). -/
def State.bankOp (s : State) (src : Src) (addr : Nat) (own : BankArgs) (apply : BankArgs → State → State)
    (reply : BankArgs → State → List Byte) : State :=
  let line := memKey addr / 64 * 64
  s.bankAccess src addr <| match src with
  | .eng r p t =>
    if s.isStale t then (match t with | some t => s.staleDrop t | none => s)
    else match if own.op == 7 then s.badIn own.key 8 else none with
    | some g => let e := addrErr 0x0701 (g + s.pkg <<< 52); ((apply own s).lostAt g e).cmdError r p e
    | none => apply own s
  | .win id =>
    match s.acceptedReq id with
    | none => s
    | some a =>
      match a.bankArgs with
      | none => s
      | some x =>
        if a.msg.type == 0x08 && a.addr / 64 * 64 == line && x.op == own.op && !s.clearingIn a.addr 64 then
          let w := s.sbWrite 513 a.id a.addr 64
          let s := w.1
          if !w.2 then s else
          let data := reply x s
          match if x.op == 7 then s.badIn x.key 8 else none with
          | some g => (((apply x s).lostQuietly (s.siteOf g).1 (s.siteOf g).2).checkFailed g).dropReq a
          | none => (apply x s).answerReq a (if data.isEmpty then 0x11 else 0x12) (data.length / 16) data
        else s

def effBankRead (src : Src) (addr : Nat) (s : State) : State :=
  s.bankAccess src addr <| match src with
  | .eng r p _ => if s.filling r p (memKey addr / 64 * 64) 64 then s else s.serveRead (memKey addr / 64 * 64)
  | .win id =>
    match s.acceptedReq id with
    | none => s
    | some a =>
      let n := 16 * a.msg.len
      if a.msg.type == 0x01 && a.addr == memKey addr && !s.clearingIn a.addr n && !s.filling 513 a.id a.addr n then
        let s := (linesOf a.addr n).foldl State.serveRead s
        match s.badIn a.addr n with
        | some _ => s.dropReq a
        | none => s.answerReq a 0x10 a.msg.len (bytesOf (Mem.readNat s.mem a.addr n) n)
      else s

/-- BANK_READ: a read request is served, joining or opening a coalescing group (R167, R170); one that a window accepted is answered
with its data. -/
def execBankRead (src : Src) (addr : Nat) (s : State) : Out := answer (src.ok && okBank addr) (effBankRead src addr s)

/-- The nibbles of byte `i` that a WR writes: both, unless its record carries a mask (R29). -/
def wrNibbles (m : Msg) (i : Nat) : Nat := match m.mask with | some n => field n (2 * i + 1) (2 * i) | none => 3

/-- The WR data of an accepted request lands line by line, merged by nibble; a granule that it writes whole passes its check again (R455). -/
def State.landWr (s : State) (a : Accepted) : State :=
  (linesOf a.addr a.msg.data.length).foldl (fun s l =>
    let mine := a.msg.data.zipIdx.filter fun bi => l ≤ a.addr + bi.2 && a.addr + bi.2 < l + 64
    let at_ (bi : Byte × Nat) : Nat := a.addr + bi.2 - l
    s.lineWrite l (mine.foldl (fun v bi => v + bi.1.toNat <<< (8 * at_ bi)) 0)
      (mine.foldl (fun v bi => v + wrNibbles a.msg bi.2 <<< (2 * at_ bi)) 0)) s

/-- A write accepted from another package enters the scoreboard of a scratchpad it reaches as a fill, and lands once nothing blocks it (R279,
R280). -/
def State.landRemote (s : State) (a : Accepted) : State :=
  let w := s.sbWrite 513 a.id a.addr a.msg.data.length
  if w.2 then (w.1.landWr a).answerReq a 0x11 0 [] else w.1

def effBankWrite (src : Src) (addr : Nat) (data : Line) (nibbles : BitVec 128) (s : State) : State :=
  s.bankAccess src addr <| match src with
  | .eng _ _ t =>
    if s.isStale t then (match t with | some t => s.staleDrop t | none => s)
    else s.lineWrite (memKey addr / 64 * 64) data.toNat nibbles.toNat
  | .win id =>
    match s.acceptedReq id with
    | none => s
    | some a =>
      if a.msg.type == 0x02 && a.addr == memKey addr && !s.clearingIn a.addr a.msg.data.length then s.landRemote a else s

/-- BANK_WRITE: a masked write to a line or sector (R167, R29, R410, R455); from an accepted WR, the data of its message. -/
def execBankWrite (src : Src) (addr : Nat) (data : Line) (nibbles : BitVec 128) (s : State) : Out :=
  answer (src.ok && okBank addr) (effBankWrite src addr data nibbles s)

/-- The saturated lanes of an op's add set its flag (R168). -/
def State.flagSaturated (s : State) (src : Src) (sat : Bool) : State :=
  match src with
  | .eng r p _ => if sat then s.addFlags r p (2 ^ flagSATURATED) else s
  | .win _ => s

def effBankAdd (src : Src) (addr fmt : Nat) (lanes : BitVec 32) (data : Line) (s : State) : State :=
  s.bankOp src addr ⟨2, fmt, lanes.toNat, data.toNat, memKey addr / 64 * 64⟩ (fun a s =>
    (s.lineAdd a.key a.fmt a.lanes a.data).flagSaturated src (addSaturates a.fmt a.lanes (s.line a.key) a.data)) fun _ _ => []

/-- BANK_ADD: a lane-wise add, rounded or saturated (R167, R168). -/
def execBankAdd (src : Src) (addr fmt : Nat) (lanes : BitVec 32) (data : Line) (s : State) : Out :=
  answer (src.ok && okBank addr && okAddFmt fmt) (effBankAdd src addr fmt lanes data s)

def effBankMaxMin (src : Src) (addr : Nat) (isMax : Bool) (fmt : Nat) (lanes : BitVec 16) (data : Line) (s : State) : State :=
  s.bankOp src addr ⟨if isMax then 3 else 4, fmt, lanes.toNat, data.toNat, memKey addr / 64 * 64⟩
    (fun a s => s.lineExt a.key isMax a.fmt a.lanes a.data) fun _ _ => []

/-- BANK_MAX_MIN: a lane-wise maximum or minimum (R167, R168). -/
def execBankMaxMin (src : Src) (addr : Nat) (isMax : Bool) (fmt : Nat) (lanes : BitVec 16) (data : Line) (s : State) : Out :=
  answer (src.ok && okBank addr && okExtFmt fmt) (effBankMaxMin src addr isMax fmt lanes data s)

def effBankMaxMinIndex (src : Src) (addr : Nat) (isMax : Bool) (fmt : Nat) (lanes : BitVec 8) (data : Line) (s : State) : State :=
  s.bankOp src addr ⟨if isMax then 5 else 6, fmt, lanes.toNat, data.toNat, memKey addr / 64 * 64⟩
    (fun a s => s.lineExtIndex a.key isMax a.fmt a.lanes a.data) fun _ _ => []

/-- BANK_MAX_MIN_INDEX: an extremum with winner index on value and index pairs (R167, R168). -/
def execBankMaxMinIndex (src : Src) (addr : Nat) (isMax : Bool) (fmt : Nat) (lanes : BitVec 8) (data : Line) (s : State) : Out :=
  answer (src.ok && okBank addr && okExtFmt fmt) (effBankMaxMinIndex src addr isMax fmt lanes data s)

/-- The old value returns to the issuer: of an accepted AT, as ADATA (R315). -/
def effBankFetchAdd (src : Src) (addr : Nat) (amount : W64) (s : State) : State :=
  s.bankOp src addr ⟨7, 0, 0, amount.toNat, memKey addr⟩
    (fun a s => (s.fetchAdd a.key a.data).flagSaturated src (2 ^ 64 ≤ Mem.readNat s.mem a.key 8 + a.data))
    fun a s => bytesOf (Mem.readNat s.mem a.key 8) 16

/-- BANK_FETCH_ADD: a saturating 8-byte fetch-add (R167). -/
def execBankFetchAdd (src : Src) (addr : Nat) (amount : W64) (s : State) : Out :=
  answer (src.ok && okBank addr) (effBankFetchAdd src addr amount s)

end Sys2Proof.Machine
end

