-- ==== Sys2Proof/Machine/Streams.lean ====
section
/-! DEFINITION. The entries of a stream queue: where they lie, how they come and leave, and the deliveries of a POP (R287, R290 to R293,
R296). -/

namespace Sys2Proof.Machine

/-- Entries a queue can hold (R287). -/
def queueCap (q : Queue) : Nat := 128 + (if q.ringLog2 == 0 then 0 else 2 ^ q.ringLog2)
def Queue.full (q : Queue) : Bool := queueCap q ≤ q.wr - q.rel

-- ## Where an entry lies (R287)

/-- The head window holds the oldest 64 held entries, the tail window the newest 64 of the others, the ring the rest. -/
def Queue.inHead (q : Queue) (i : Nat) : Bool := i < q.rel + 64
def Queue.inRing (q : Queue) (i : Nat) : Bool := !q.inHead i && i + 64 < q.wr

/-- The place of an entry in the ring. -/
def Queue.ringKey (q : Queue) (i : Nat) : Nat := memKey q.ringBase + 256 * (i % 2 ^ q.ringLog2)

/-- The die core, window slot and number in it that hold an entry outside the ring (R275, R287). -/
def Queue.window (q : Queue) (i : Nat) : Nat × Nat × Nat :=
  if q.inHead i then (q.headCore, q.headWin, i % 64) else (q.tailCore, q.tailWin, i % 64)

/-- Why an access to an entry's place in the ring is not served (R12, R267, R389). -/
def State.ringErr (s : State) (q : Queue) (i : Nat) : Option Err := s.accessErr (q.ringBase + 256 * (i % 2 ^ q.ringLog2)) 256 none

/-- An entry as it lies in the ring, and whether it is lost: it fails its check or its place is not served. -/
def State.ringEntry (s : State) (q : Queue) (i : Nat) : BitVec 2048 × Bool :=
  (BitVec.ofNat 2048 (Mem.readNat s.mem (q.ringKey i) 256), (s.ringErr q i).isSome || (s.badIn (q.ringKey i) 256).isSome || q.badEntries.contains i)

/-- A held entry wherever it lies, and whether it fails its check. -/
def State.queueEntry (s : State) (q : Queue) (i : Nat) : BitVec 2048 × Bool :=
  if q.inRing i then s.ringEntry q i else (AMap.getD q.held i 0, q.badEntries.contains i)

def State.queueEntries (s : State) (q : Queue) (lo hi : Nat) : List (BitVec 2048 × Bool) :=
  (List.range (hi - lo)).map fun i => s.queueEntry q (lo + i)

-- ## Entries come and leave

def Queue.append (q : Queue) (e : BitVec 2048) : Queue := { q with held := AMap.set q.held q.wr e, wr := q.wr + 1 }

/-- An entry is written through the tail window; the oldest entry of a full tail window goes to the ring (R287). -/
def State.appendEntry (s : State) (qi : Nat) (e : BitVec 2048) : State :=
  let q := (s.queue qi).append e
  let i := q.wr - 65
  if 65 ≤ q.wr && q.inRing i then
    (s.writeRange (q.ringKey i) 256 (AMap.getD q.held i 0).toNat).setQueue qi { q with held := AMap.erase q.held i }
  else s.setQueue qi q

/-- Entries that leave the ring for the head window when those below `rel` are released (R293). -/
def Queue.refills (q : Queue) (rel : Nat) : List Nat :=
  ((List.range 64).map (rel + ·)).filter fun i => q.inRing i && !{ q with rel := rel }.inRing i

/-- The entries below `rel` are released; the head window refills in order from the ring, or from the tail window when the ring is empty
(R293). -/
def State.releaseTo (s : State) (q : Queue) (rel : Nat) : Queue :=
  let back := q.refills rel
  { q with
    rel := rel
    held := back.foldl (fun m i => AMap.set m i (s.ringEntry q i).1) (q.held.filter fun h => rel ≤ h.1)
    badEntries := (q.badEntries.filter fun b => rel ≤ b) ++ back.filter fun i => (s.ringEntry q i).2 && !q.badEntries.contains i }

/-- The windows of a core are zeroed with its scratchpad (R278, R389): the entries they held read as zeros. -/
def State.zeroWindows (s : State) (core : Nat) : State :=
  { s with queues := s.queues.map fun kq =>
      let mine (i : Nat) : Bool := !kq.2.inRing i && 32 * (kq.1 / 1024) + (kq.2.window i).1 == core
      if kq.2.held.any (fun h => mine h.1) || kq.2.badEntries.any mine then
        (kq.1, { kq.2 with held := kq.2.held.map fun h => (h.1, if mine h.1 then 0 else h.2), badEntries := kq.2.badEntries.filter fun b => !mine b })
      else kq }

-- ## Deliveries (R291, R292, R296)

/-- Whether the ring of a queue lies in an HBM unit that is being cleared (R271). -/
def State.ringClearing (s : State) (q : Queue) : Bool := q.ringLog2 != 0 && s.clearingIn (memKey q.ringBase) (256 * 2 ^ q.ringLog2)

/-- Whether the next entry of a queue moves entry WR − 64 to its ring. -/
def Queue.moves (q : Queue) : Bool := 64 ≤ q.wr && { q with wr := q.wr + 1 }.inRing (q.wr - 64)

/-- Whether the next entry moves one to a ring that no requester can reach yet. -/
def State.pushWaits (s : State) (q : Queue) : Bool := q.moves && s.ringClearing q

/-- Why the entry that the next one moves finds no place in the ring: then neither is written. -/
def State.pushErr (s : State) (q : Queue) : Option Err := if q.moves then s.ringErr q (q.wr - 64) else none

/-- Entries are read from the ring: a sector that fails its check counts toward the retirement of its channel (R402, R409). -/
def State.readRing (s : State) (q : Queue) (is : List Nat) : State :=
  ((is.filter fun i => (s.ringErr q i).isNone).filterMap fun i => s.badIn (q.ringKey i) 256).foldl State.checkFailed s

/-- Entry `i` of a queue as a POP delivers it: 256 zero bytes where it fails its check. -/
def State.deliver (s : State) (q : Queue) (i : Nat) : BitVec 2048 := if (s.queueEntry q i).2 then 0 else (s.queueEntry q i).1

/-- A POP of `want` entries ends without them, and its FILL frees: what it did not write is undefined (R280). -/
def State.popFails (s : State) (r p addr want : Nat) (e : Err) : State :=
  let x : SbRange := ⟨memKey addr, 256 * want, true⟩
  ((if s.sbReady r p x then s.undefine x.key x.len else s).sbFreeMem r p x.key).cmdFail r p e

/-- Entries a POP may take: min(COUNT, REL + 64 − RD) (R292). -/
def Queue.popCount (q : Queue) (count : Nat) : Nat := min count (q.rel + 64 - q.rd)

/-- `n` entries are copied to a destination that a POP of `want` fills, and RD advances; a lost entry gives 0x0708, its count and QUEUE_LOST. A destination that memory
does not serve ends the POP (R12, R267, R389). -/
def State.popEntries (s : State) (qi : Nat) (r p addr want n : Nat) : State :=
  let q := s.queue qi
  match s.accessErr addr (256 * n) none with
  | some e => s.popFails r p addr want e
  | none =>
    let idx := (List.range n).map fun i => q.rd + i
    let data := idx.foldr (fun i a => (s.deliver q i).toNat + a <<< 2048) 0
    let lost := (idx.filter fun i => (s.queueEntry q i).2).length
    let die := qi / 1024
    let s := (s.writeRange (memKey addr) (256 * n) data).setQueue qi { q with rd := q.rd + n }
    let s := if lost == 0 then s else (((s.dieBump 0x5304 die lost).dieBit die 2).lostResult 1 die { code := 0x0708 }).cmdError r p
      { code := 0x0708 }
    (s.sbFreeMem r p (memKey addr)).cmdDone r p n

/-- The waiting POPs of a queue whose entries have come. What a POP may take is known once no other waits before it: then one with n = 0
ends with 0x0503 (R292; DEDUCED, log 169). -/
def State.servePops (s : State) (qi : Nat) : Nat → State
  | 0 => s
  | n + 1 =>
    let q := s.queue qi
    match q.pops with
    | [] => s
    | w :: rest =>
      let k := q.popCount w.want
      let s' := s.setQueue qi { q with pops := rest }
      if k == 0 then (s'.popFails w.r w.p w.addr w.want { code := 0x0503 }).servePops qi n
      else if k ≤ q.wr - q.rd && s.sbReady w.r w.p ⟨memKey w.addr, 256 * w.want, true⟩ then
        (s'.popEntries qi w.r w.p w.addr w.want k).servePops qi n
      else s

/-- A queue's waiting POPs are served as far as entries allow. -/
def State.wakePops (s : State) (qi : Nat) : State := s.servePops qi ((s.queue qi).pops.length + 1)

end Sys2Proof.Machine
end

