-- ==== Sys2Proof/Machine/Windows.lean ====
section
/-! DEFINITION. Windows (13_links_and_windows.md): opening, rewriting and closing slots, requests that arrive at a slot table, requests
that leave, and messages in transit. -/

namespace Sys2Proof.Machine

-- ## Bodies (R324)

def anyTag (acl : Nat) : Bool := (List.range 4).any fun t => bitOf acl (16 * t + 15)

/-- The field checks of WINDOW_OPEN and SLOT_WRITE, then the address (R324). -/
def State.windowErr (s : State) (c : Cmd) : Option Err :=
  firstErr [
    c.reservedErr 0x040B [(19, 19)],
    errIf (c.f 22 20 == 0) (bodyErr 0x040B 20),
    errIf (c.opcode == 0x50 && bitOf c.body 23 && c.f 16 0 != 0) (bodyErr 0x040B 0),
    c.reservedErr 0x040B [(127, 24), (207, 192)],
    errIf (c.f 255 208 == 0 || c.f 255 208 % 16 != 0) (bodyErr 0x040B 208),
    errIf (!anyTag (c.f 319 256)) (bodyErr 0x040B 256),
    c.reservedErr 0x040B [(767, 320)],
    s.bodyAddr c.part (c.f 191 128) (c.f 255 208) 16 128]

def Cmd.closeErr (c : Cmd) : Option Err := c.reservedErr 0x040B [(767, 19)]

/-- RESULT of the window commands (R368). -/
def slotResult (slot : Nat) (sl : Slot) : Nat := slot + sl.gen <<< 17 + sl.ogen <<< 33

/-- The lowest FREE slot of a die from `i`, over `n` slots. -/
def State.lowestFree (s : State) (die : Nat) : Nat → Nat → Option Nat
  | 0, _ => none
  | n + 1, i => if (s.slot (slotIndex die i)).st == .free then some i else s.lowestFree die n (i + 1)

def Slot.nextGen (sl : Slot) : Nat := (sl.gen + 1) % 65536

/-- A slot opens with OGEN = GEN (R324). -/
def Slot.open_ (sl : Slot) (c : Cmd) : Slot :=
  { sl with acl := c.f 319 256, perm := c.f 22 20, len := c.f 255 208, base := c.f 191 128
            st := .opened, owner := c.part, ogen := sl.gen, inflight := 0, bad := false }

def effWindowOpen (r p : Nat) (s : State) : State :=
  s.started r p 0x50 fun c =>
    let die := c.f 18 17
    s.orFail c (s.windowErr c)
      (if bitOf c.body 23 then
        match s.lowestFree die 131072 0 with
        | none => s.cmdFail r p (bodyErr 0x0806 23)
        | some i =>
          let sl := (s.slot (slotIndex die i)).open_ c
          (s.setSlot (slotIndex die i) sl).cmdDone r p (slotResult i sl)
      else
        let i := c.f 16 0
        if (s.slot (slotIndex die i)).st == .free then
          let sl := (s.slot (slotIndex die i)).open_ c
          (s.setSlot (slotIndex die i) sl).cmdDone r p (slotResult i sl)
        else s.cmdFail r p (bodyErr 0x0408 0))

/-- WINDOW_OPEN (R324). -/
def execWindowOpen (r p : Nat) (s : State) : Out := answer (okRing r) (effWindowOpen r p s)

-- ## Requests (R321, R325)

def msgBytes (m : Msg) : Nat := 16 * m.len

/-- The permission bit of a request's type (R320). -/
def permBit (type : Nat) : Nat := if type == 0x01 then 0 else if type == 0x02 then 1 else 2

/-- A refusal: REFUSE returns and the data is dropped (R321). -/
def State.refuseReq (s : State) (die code : Nat) (m : Msg) : State :=
  let sl := s.slot (slotIndex die m.slot)
  (s.dieBump 0x5310 die 1).originate die (m.reply 0x13 sl.ogen 0 code [])

/-- A request is accepted: INFLIGHT rises by 1 and it waits to be applied. A write enters the scoreboard of a scratchpad that it reaches now,
before its first byte lands (R279). -/
def State.acceptReq (s : State) (die : Nat) (m : Msg) : State :=
  let i := slotIndex die m.slot
  let sl := s.slot i
  let a : Accepted := { id := s.nextAccept, die := die, slot := m.slot, addr := memKey (sl.base + m.off), ogen := sl.ogen, msg := m }
  let len := if m.type == 0x02 then m.data.length else 64
  let s := if m.type == 0x02 || m.type == 0x08 then (s.sbIssue 513 a.id [⟨a.addr, len, true⟩]).1 else s
  { s.setSlot i { sl with inflight := sl.inflight + 1 } with accepted := s.accepted ++ [a], nextAccept := s.nextAccept + 1 }

/-- The checks of R321 in order on a request that is not held. A window that lies in no memory of this package serves none (R12; DEDUCED, log
213). -/
def State.judgeReq (s : State) (die : Nat) (m : Msg) : State :=
  let sl := s.slot (slotIndex die m.slot)
  match sl.judge (if m.isBound then some m.gen else none) m.spkg m.spart (permBit m.type) m.off (msgBytes m) with
  | .refused code => s.refuseReq die code m
  | .held => s
  | .accepted => match s.placeErr (sl.base + m.off) (msgBytes m) with
    | some e => s.refuseReq die e.code m
    | none => s.acceptReq die m

/-- Entries in use of a die's held-request buffer: requests from the ports, and those of the package's own cores (R325). -/
def State.heldCount (s : State) (die : Nat) : Nat :=
  (s.heldReqs.filter fun h => h.1 == die).length
    + s.cores.foldl (fun n kc => n + (kc.2.atSlots.filter fun x => x.verdict.isNone && x.slot / 131072 == die).length) 0

/-- A request of a core meets a PENDING slot of its own package: held once, while the buffer has room (R321, R325). -/
def State.holdOwn (s : State) (w : Who) (i off len bit : Nat) : State :=
  let c := s.core w.core
  if c.atSlots.any (fun x => x.is w i off bit) || 256 ≤ s.heldCount (i / 131072) then s
  else (s.setCore w.core { c with atSlots := c.atSlots ++ [{ r := w.r, p := w.p, slot := i, off := off, len := len, bit := bit }] }).dieBump
    0x5311 (i / 131072) 1

/-- INFLIGHT of a slot of this package by its index changes. -/
def State.inflight (s : State) (i : Nat) (f : Nat → Nat) : State := s.setSlot i { s.slot i with inflight := f (s.slot i).inflight }

/-- A core's own requests held at a slot meet it as it now is (R325, R327): each takes its answer, and an accepted one counts in INFLIGHT. -/
def State.letCore (s : State) (core i : Nat) : State :=
  let judge (x : OwnReq) : OwnReq :=
    if x.slot != i || x.verdict.isSome then x
    else match s.judgeOwn ⟨x.r, x.p, core, ringPart x.r⟩ (i / 131072) (i % 131072) x.bit x.off x.len with
      | .accepted => { x with verdict := some none }
      | .refused code => { x with verdict := some (some code) }
      | .held => x
  let old := (s.core core).atSlots
  let won := (old.filter fun x => x.verdict.isNone && (judge x).verdict == some none).length
  if old.any fun x => x.slot == i && x.verdict.isNone then
    (s.setCore core { s.core core with atSlots := old.map judge }).inflight i (· + won)
  else s

def State.letOwn (s : State) (i : Nat) : State := s.cores.foldl (fun s kc => s.letCore kc.1 i) s

/-- Requests of a core's own that a test names have been served or are given up: those accepted leave INFLIGHT. -/
def State.dropOwn (s : State) (core : Nat) (gone : OwnReq → Bool) : State :=
  let c := s.core core
  let mine := c.atSlots.filter gone
  if mine.isEmpty then s
  else (mine.filter fun x => x.verdict == some none).foldl (fun s x => s.inflight x.slot (· - 1))
    (s.setCore core { c with atSlots := c.atSlots.filter fun x => !gone x })

/-- The reads of a step or a part of an op are done: their windows are bound (R323), and those that a slot of the package held and then accepted
leave INFLIGHT (R321). -/
def State.readsDone (s : State) (w : Who) (xs : Reads) : State :=
  (s.bindReads w xs).dropOwn w.core fun x => x.r == w.r && x.p == w.p && x.bit == 0 && x.verdict == some none

/-- A slot is closed as by WINDOW_CLOSE: a pending rewrite ends with 0x0401 and held requests are refused (R326, R327). -/
def State.closeSlot (s : State) (die slot : Nat) : State :=
  let i := slotIndex die slot
  let sl := s.slot i
  match sl.st with
  | .opened => s.setSlot i { sl with st := .closing }
  | .pending =>
    let s := (s.setSlot i { sl with st := .closing, writer := none }).letOwn i
    let s := match sl.writer with
      | some w => s.cmdFail w.1 w.2 { code := 0x0401 }
      | none => s
    let mine := s.heldReqs.filter fun h => h.1 == die && h.2.1 == slot
    let s := { s with heldReqs := s.heldReqs.filter fun h => !(h.1 == die && h.2.1 == slot) }
    mine.foldl (fun s h => s.refuseReq die 0x0401 h.2.2) s
  | _ => s

/-- A slot that fails its check closes (R402). -/
def State.closeLost (s : State) (die slot : Nat) : State :=
  if (s.slot (slotIndex die slot)).bad && (s.slot (slotIndex die slot)).st != .closing then (s.lostQuietly 1 die).closeSlot die slot else s

/-- A request of the package's own that a slot refused is counted for its die (R332); a slot that fails its check closes (R402). -/
def State.refusedLocal (s : State) : Option Nat → State
  | none => s
  | some i =>
    if s.diesFenced.contains (i / 131072) then s else (s.dieBump 0x5310 (i / 131072) 1).closeLost (i / 131072) (i % 131072)

/-- A message leaves the receive buffer, and its pool's credit returns (R312). -/
def State.consume (s : State) (m : Msg) : State :=
  match s.rx.find? fun q => q.2 == m with
  | none => s
  | some q =>
    let p := s.port q.1
    let pool := 2 * (vcOf m.type).getD 0 + m.f 7 7
    { s.setPort q.1 { p with owed := p.owed.set pool (p.owed.getD pool 0 + m.units) } with rx := s.rx.erase q }

/-- Whether a message of a receive buffer is a request that a full held-request buffer keeps there (R325). -/
def State.withheld (s : State) (m : Msg) : Bool :=
  m.dpkg == s.pkg && (vcOf m.type == some 0 || vcOf m.type == some 2) && (s.slot (slotIndex m.ddie m.slot)).st == .pending
    && 256 ≤ s.heldCount m.ddie

/-- A message behind such a request, which stalls all of its port's request and atomic traffic. -/
def State.portStalled (s : State) (m : Msg) : Bool :=
  (vcOf m.type == some 0 || vcOf m.type == some 2)
    && match s.rx.find? fun q => q.2 == m with
      | none => false
      | some q => (s.rx.takeWhile fun x => x.2 != m).any fun x => x.1 == q.1 && s.withheld x.2

/-- Whether a message may leave its receive buffer: none before it came by the same port on the same virtual channel and class (R312, R316). A
message that no buffer holds comes by itself. -/
def State.isFront (s : State) (m : Msg) : Bool :=
  match s.rx.find? fun q => q.2 == m with
  | none => true
  | some q => (s.rx.find? fun x => x.1 == q.1 && vcOf x.2.type == vcOf m.type && x.2.f 7 7 == m.f 7 7) == some q

/-- A request reaches the slot table of its die. For a PENDING slot it is held, 256 requests per die; with the buffer full it stays in
its receive buffer, whose credit is withheld, and what follows it stays as well (R325). -/
def State.arriveReq (s : State) (type : Nat) (m : Msg) : State :=
  if m.type != type || m.dpkg != s.pkg || !s.isFront m || s.portStalled m then s
  else
    let die := m.ddie
    let s := s.closeLost die m.slot
    let sl := s.slot (slotIndex die m.slot)
    if sl.st == .pending then
      if 256 ≤ s.heldCount die then s
      else
        let s := (s.consume m).dieBump 0x5311 die 1
        { s with heldReqs := s.heldReqs ++ [(die, m.slot, m)] }
    else (s.consume m).judgeReq die m

/-- LINK_RD (R321, R325). -/
def effLinkRd (m : Msg) (s : State) : State := s.arriveReq 0x01 m
def execLinkRd (m : Msg) (s : State) : Out := answer true (effLinkRd m s)

/-- LINK_WR (R321, R325). -/
def effLinkWr (m : Msg) (s : State) : State := s.arriveReq 0x02 m
def execLinkWr (m : Msg) (s : State) : Out := answer true (effLinkWr m s)

/-- LINK_AT (R321, R169). -/
def effLinkAt (m : Msg) (s : State) : State := s.arriveReq 0x08 m
def execLinkAt (m : Msg) (s : State) : Out := answer true (effLinkAt m s)

/-- LINK_KP (R321, R189). -/
def effLinkKp (m : Msg) (s : State) : State := s.arriveReq 0x09 m
def execLinkKp (m : Msg) (s : State) : Out := answer true (effLinkKp m s)

-- ## Closing and rewriting (R325 to R327)

def effWindowClose (r p : Nat) (s : State) : State :=
  s.started r p 0x51 fun c =>
    let die := c.f 18 17
    let i := slotIndex die (c.f 16 0)
    let sl := s.slot i
    s.orFail c c.closeErr
      (if sl.st == .free then s.cmdDone r p (slotResult (c.f 16 0) sl)
      else if sl.owner != c.part then s.cmdFail r p (bodyErr 0x0403 0)
      else
        let s := s.closeSlot die (c.f 16 0)
        let sl := s.slot i
        (s.setSlot i { sl with closers := sl.closers ++ [(r, p)] }).cmdPhase r p .running)

/-- WINDOW_CLOSE (R326, R327). -/
def execWindowClose (r p : Nat) (s : State) : Out := answer (okRing r) (effWindowClose r p s)

def effWindowCloseDone (die slot : Nat) (s : State) : State :=
  let i := slotIndex die slot
  let sl := s.slot i
  if sl.st == .closing && sl.inflight == 0 then
    let new := { sl with st := .free, gen := sl.nextGen, closers := [] }
    sl.closers.foldl (fun s c => s.cmdDone c.1 c.2 (slotResult slot new)) (s.setSlot i new)
  else s

/-- WINDOW_CLOSE_DONE: INFLIGHT has reached 0 (R326). -/
def execWindowCloseDone (die slot : Nat) (s : State) : Out :=
  answer (okDie die && okSlot slot) (effWindowCloseDone die slot s)

def effSlotWrite (r p : Nat) (s : State) : State :=
  s.started r p 0x52 fun c =>
    let i := slotIndex (c.f 18 17) (c.f 16 0)
    let sl := s.slot i
    s.orFail c (s.windowErr c)
      (if sl.st == .free || sl.st == .closing then s.cmdFail r p (bodyErr 0x0401 0)
      else if sl.owner != c.part then s.cmdFail r p (bodyErr 0x0403 0)
      else if sl.st == .pending then s.cmdFail r p (bodyErr 0x040A 0)
      else if sl.inflight == 0 then
        let new := { sl with base := c.f 191 128, len := c.f 255 208, perm := c.f 22 20, acl := c.f 319 256, gen := sl.nextGen }
        (s.setSlot i new).cmdDone r p (slotResult (c.f 16 0) new)
      else
        (s.setSlot i { sl with
          shBase := c.f 191 128, shLen := c.f 255 208, shPerm := c.f 22 20, shAcl := c.f 319 256
          st := .pending, writer := some (r, p) }).cmdPhase r p .running)

/-- SLOT_WRITE (R325, R327). -/
def execSlotWrite (r p : Nat) (s : State) : Out := answer (okRing r) (effSlotWrite r p s)

/-- Held requests of a slot proceed in arrival order under the mapping now live (R325). -/
def State.releaseHeld (s : State) (die slot : Nat) : State :=
  let mine := s.heldReqs.filter fun h => h.1 == die && h.2.1 == slot
  let s := { s with heldReqs := s.heldReqs.filter fun h => !(h.1 == die && h.2.1 == slot) }.letOwn (slotIndex die slot)
  mine.foldl (fun s h => s.judgeReq die h.2.2) s

def effSlotRewriteApply (die slot : Nat) (s : State) : State :=
  let i := slotIndex die slot
  let sl := s.slot i
  if sl.st == .pending && sl.inflight == 0 then
    let new := { sl with base := sl.shBase, len := sl.shLen, perm := sl.shPerm, acl := sl.shAcl
                         gen := sl.nextGen, st := .opened, writer := none }
    let s := (s.setSlot i new).releaseHeld die slot
    match sl.writer with
    | some w => s.cmdDone w.1 w.2 (slotResult slot new)
    | none => s
  else s

/-- SLOT_REWRITE_APPLY (R325). -/
def execSlotRewriteApply (die slot : Nat) (s : State) : Out :=
  answer (okDie die && okSlot slot) (effSlotRewriteApply die slot s)

def effSlotRewriteTimeout (die slot : Nat) (s : State) : State :=
  let i := slotIndex die slot
  let sl := s.slot i
  if sl.st == .pending && sl.inflight != 0 then
    let s := ((s.setSlot i { sl with st := .opened, writer := none }).releaseHeld die slot).dieBit die 3
    match sl.writer with
    | some w => s.cmdFail w.1 w.2 { code := 0x0409 }
    | none => s
  else s

/-- SLOT_REWRITE_TIMEOUT: the drain timeout 0x3142.dd has passed (R325). -/
def execSlotRewriteTimeout (die slot : Nat) (s : State) : Out :=
  answer (okDie die && okSlot slot) (effSlotRewriteTimeout die slot s)

-- ## Requests of this package (R323, R326)

/-- A request leaves for another package from a core or region DMA of `die`, and its response is awaited under a tag. -/
def State.request (s : State) (die type len : Nat) (w : Who) (kind : TxnKind) (pkg ddie slot off arg : Nat)
    (ticket : Option Ticket) (data : List Byte) (unit mask : Option Nat := none) (seq : Nat := 0) : State :=
  let b := s.bound w pkg ddie slot
  let m : Msg :=
    { hdr := Hdr.bits { type := type, len := len, req := w.core, tag := s.nextTag, spart := w.part, spkg := s.pkg, dpkg := pkg
                        ddie := ddie, slot := slot, bound := b.isSome, gen := b.getD 0, off := off, arg := arg }
      data := data, mask := mask }
  let t : Txn := { tag := s.nextTag, r := w.r, p := w.p, core := w.core, kind := kind, pkg := pkg, die := ddie, slot := slot
                   off := off, len := 16 * len, ticket := ticket, unit := unit, seq := seq }
  { s with txns := s.txns ++ [t], nextTag := (s.nextTag + 1) % 65536 }.originate die m

/-- A read ends with a code in place of its data. -/
def State.readEnds (s : State) (w : Who) (pkg die slot off code : Nat) : State :=
  { s with arrived := s.arrived ++ [{ r := w.r, p := w.p, core := w.core, pkg := pkg, die := die, slot := slot, off := off
                                      data := [], err := code }] }

/-- A read of a remote window is sent once, for the claim that reads; a route that is missing ends it at once (R318). One of the own package
waits at its PENDING slot. -/
def State.issueRead (s : State) (w : Who) (t : Option Ticket) (x : Want) : State :=
  if x.pkg == s.pkg then s.holdOwn w (slotIndex x.die x.slot) x.off x.len x.bit
  else if s.txns.any fun t => t.kind == .read && t.r == w.r && t.p == w.p && t.core == w.core && t.pkg == x.pkg && t.die == x.die
      && t.slot == x.slot && t.off == x.off then s
  else
    match s.routeErr (w.core / 32) x.pkg with
    | some code => (s.noteRoute (w.core / 32) x.pkg).readEnds w x.pkg x.die x.slot x.off code
    | none => s.request (w.core / 32) 0x01 (x.len / 16) w .read x.pkg x.die x.slot x.off 0 t []

/-- What a core does about a read that waits. -/
def State.issueWant (s : State) (w : Who) (t : Option Ticket) : Option Want → State
  | some x => s.issueRead w t x
  | none => s

/-- WAIT ends at the first read at or above its target (R361). -/
def State.waitRead (s : State) (r p v : Nat) : State :=
  match s.cmd r p with
  | some c => if c.phase == .running && c.f 127 64 ≤ v then s.cmdDone r p v else s
  | none => s

/-- What remote reads of an op on a core have brought is dropped, and its requests held at slots of the package are given up: a unit has ended
or is replayed. -/
def State.dropArrived (s : State) (r p core : Nat) : State :=
  { s with arrived := s.arrived.filter fun a => !(a.r == r && a.p == p && a.core == core) }.dropOwn core fun x =>
    x.r == r && x.p == p && x.bit == 0

def effMgmt (m : Msg) (s : State) : State :=
  if m.type == 0x20 && m.dpkg == s.pkg && s.isFront m then { s.consume m with mgmtIn := s.mgmtIn ++ [m] } else s

/-- MGMT: a message between DMPs arrives (R315); what it carries the spec does not lay down. -/
def execMgmt (m : Msg) (s : State) : Out := answer true (effMgmt m s)

def effTransitMessage (pp : Nat) (m : Msg) (s : State) : State :=
  if m.dpkg == s.pkg || !s.isFront m || s.portStalled m then s
  else
    let die := pp / 8
    let s := s.consume m
    match s.egressPort die m.dpkg with
    | none => (s.noteRoute die m.dpkg).dieBump 0x5312 die 1
    | some q => if s.linkOn q then s.depart die 35 ⟨q, some pp, m⟩ else s.dieBump 0x5312 die 1

/-- TRANSIT_MESSAGE: routed once by the table of the arrival port's die, or discarded (R317, R318, R319). -/
def execTransitMessage (pp : Nat) (m : Msg) (s : State) : Out := answer (okPort pp) (effTransitMessage pp m s)

end Sys2Proof.Machine
end

