-- ==== Sys2Proof/Machine/Sac.lean ====
section
/-! DEFINITION. The scatter accumulators (08_scatter_and_reductions.md): contexts, keyed records, spills and the merge. -/

namespace Sys2Proof.Machine

-- ## Context blocks (R180)

structure CtxBlock where
  pstore : Nat
  dest : Nat
  spillq : Nat
  splits : Nat
  reserved : Bool
  deriving DecidableEq, Repr

def CtxBlock.of (v : Nat) : CtxBlock where
  pstore := field v 63 44
  dest := field v 43 24
  spillq := field v 23 14
  splits := field v 11 8
  reserved := v / 2 ^ 64 != 0 || field v 13 12 != 0 || v % 256 != 0

def sacFmt (f : Nat) : Bool := f == 0x04 || f == 0x15 || f == 0x14

/-- Whether a block is valid for a partition (R180). -/
def State.ctxOk (s : State) (b : CtxBlock) (part : Nat) : Bool :=
  !b.reserved && b.splits ≤ 8 && (match s.liveHandle part b.dest with
    | none => false
    | some e =>
      let d := e.desc
      !d.tiled && d.rank == 2 && !d.shx && d.wr && d.red && sacFmt d.fmt
        && (if b.splits == 0 then b.pstore == 0
            else match s.liveHandle part b.pstore with
              | none => false
              | some e => e.desc.fmt == d.fmt && e.desc.rank == 3 && e.desc.wr
                  && e.desc.exts == [d.ext.getD 0 0, d.ext.getD 1 0, b.splits]))

/-- A descriptor entry that a block names and that fails its check as the context opens (R402). -/
def State.ctxBad (s : State) (b : CtxBlock) : Option Err :=
  ((if b.splits == 0 then [b.dest] else [b.dest, b.pstore]).find? fun h => (s.tdEntry (handleIndex h)).bad).map fun h =>
    { code := 0x0701, dkind := 3, detail := h }

/-- Lanes of a segment (R182). -/
def segLanes (fmt : Nat) : Nat := if fmt == 0x14 then 32 else 16
def Desc.segs (d : Desc) : Nat := ceilDiv (d.ext.getD 0 0) (segLanes d.fmt)

-- ## Adds into DEST and PSTORE

/-- One element is added by bank add, which meets its granule's check (R401); whether it saturated (R168). -/
def State.elemAdd (s : State) (key fmt v : Nat) : State × Bool :=
  let n := laneBits fmt / 8
  let r := addLane fmt (Mem.readNat s.mem key n) v
  (({ s with mem := Mem.writeNat s.mem key r.1 n }.closeGroup (key / 64 * 64)).noteBad key n, r.2)

/-- The keys of an element of a strided tensor in the package's memory, by stored index, one for each copy. An element of a shard is reached
through its window; a shard that no open window of this package serves has none (DESIGN CHOICE, log 158). -/
def State.elemKeys (s : State) (part : Nat) (d : Desc) (sidx : List Nat) : List Nat :=
  let at_ (lidx : List Nat) : Int :=
    let i0 := if d.stride.getD 0 1 == 0 then 0 else lidx.getD 0 0
    (d.base : Int) + strideOff d.stride lidx 1 + (i0 * elemBits d.fmt / 8 : Nat)
  match s.origin d sidx with
  | .error _ => []
  | .ok (.mem _, lidx) => if (s.accessErr (at_ lidx).toNat (elemBits d.fmt / 8) none).isSome then [] else [memKey (at_ lidx).toNat]
  | .ok (.win cs _, lidx) =>
    cs.filterMap fun c =>
      let sl := s.slot (slotIndex c.2.1 c.2.2)
      if c.1 == s.pkg && sl.judge none s.pkg part 2 (at_ lidx).toNat (elemBits d.fmt / 8) == .accepted
          && (s.accessErr (sl.base + (at_ lidx).toNat) (elemBits d.fmt / 8) none).isNone then
        some (memKey (sl.base + (at_ lidx).toNat))
      else none

/-- The lanes of a key inside EXTENT[0] and the rows: lane and stored index, with further stored indices `rest` (R182). -/
def segElems (d : Desc) (key : Nat) (rest : List Nat) : List (Nat × List Nat) :=
  let row := key / d.segs
  let e0 := segLanes d.fmt * (key % d.segs)
  ((List.range (segLanes d.fmt)).filter fun i => e0 + i < d.ext.getD 0 0 && row < d.ext.getD 1 0).map fun i => (i, (e0 + i) :: row :: rest)

/-- The lanes of a key are added into a tensor at its row, and whether an add saturated; lanes beyond EXTENT[0] are ignored (R182). -/
def State.segAdd (s : State) (part : Nat) (d : Desc) (key : Nat) (rest : List Nat) (value : Nat) : State × Bool :=
  let w := laneBits d.fmt
  (segElems d key rest).foldl (fun acc x =>
    (acc.1.elemKeys part d x.2).foldl (fun acc k =>
      let r := acc.1.elemAdd k d.fmt (field value (w * x.1 + w - 1) (w * x.1))
      (r.1, acc.2 || r.2)) acc) (s, false)

/-- The lanes of a key as a tensor holds them. -/
def State.segRead (s : State) (part : Nat) (d : Desc) (key : Nat) (rest : List Nat) : Nat :=
  let w := laneBits d.fmt
  (segElems d key rest).foldl (fun acc x =>
    match s.elemKeys part d x.2 with
    | k :: _ => acc + Mem.readNat s.mem k (w / 8) <<< (w * x.1)
    | [] => acc) 0

/-- +0 is written to the lanes of a key; a granule that they cover whole passes its check again (R410, R455). -/
def State.segZero (s : State) (part : Nat) (d : Desc) (key : Nat) (rest : List Nat) : State :=
  let ks := (segElems d key rest).flatMap fun x => s.elemKeys part d x.2
  let w := laneBits d.fmt / 8
  let s := { s with mem := ks.foldl (fun m k => Mem.writeNat m k 0 w) s.mem }.mendBy fun g =>
    (List.range (granule g)).all fun i => ks.any fun k => k ≤ g + i && g + i < k + w
  (ks.foldl (fun s k => s.closeGroups k w) s).noteGranules fun g => ks.any fun k => g < k + w && k < g + granule g

/-- A record's lanes beyond EXTENT[0] are ignored (R182): they take the value +0. -/
def segMask (d : Desc) (key : Nat) (data : Line) : Line :=
  let w := laneBits d.fmt
  BitVec.ofNat 512 ((segElems d key []).foldl (fun acc x =>
    acc + field data.toNat (w * x.1 + w - 1) (w * x.1) <<< (w * x.1)) 0)

/-- Whether every element of a key lies in memory that the package serves. -/
def State.segReached (s : State) (part : Nat) (d : Desc) (key : Nat) (rest : List Nat) : Bool :=
  (segElems d key rest).all fun x => !(s.elemKeys part d x.2).isEmpty

def lanesSat (fmt a b : Nat) : Bool := addSaturates fmt (2 ^ 32 - 1) a b

def lanesAdd (fmt a b : Nat) : Nat :=
  mapLanes (laneCount fmt) (laneBits fmt) (2 ^ 32 - 1) a b fun x y => (addLane fmt x y).1

def tdDesc (s : State) (h : Nat) : Desc := (s.tdEntry (handleIndex h)).desc

-- ## Spills (R184, R185)

/-- A queue entry of up to three spill records. -/
def spillEntry (rs : List (Nat × Line)) : BitVec 2048 :=
  BitVec.ofNat 2048 ((rs.zipIdx.foldl (fun acc r => acc + (r.1.1 + r.1.2.toNat <<< 128) <<< (640 * r.2)) 0) + rs.length <<< 1920)

/-- The way that an install takes: the lowest free one. -/
def freeWay (es : List SacEntry) (set : Nat) : Nat :=
  ((List.range 8).find? fun w => !es.any fun e => e.set == set && e.way == w).getD 0

def updCtx (sc : Sac) (num : Nat) (f : SacCtx → SacCtx) : Sac :=
  { sc with ctxs := sc.ctxs.map fun c => if c.num == num then f c else c }

/-- Whether a context's spill queue takes a record. One that is disabled, another partition's, or whose ring memory does not serve takes none,
as a full one (DESIGN CHOICE, log 44). -/
def State.spills (s : State) (c : SacCtx) (q : Queue) : Bool := q.en && q.part == c.part && !q.full && (s.pushErr q).isNone

/-- The least recently updated entry of a full set is spilled by its own context (R184), whatever SPLIT it came with (log 208, DEDUCED), and
whether an add saturated. One that fails its
check, or whose place in PSTORE nothing of the package serves, is lost (R190; log 158). -/
def State.spill (s : State) (rr : Nat) (v : SacEntry) : State × Bool :=
  let sc := s.sac rr
  let s := s.setSac rr { sc with entries := sc.entries.erase v }
  match sc.ctxs.find? fun c => c.num == v.ctx with
  | none => (s, false)
  | some c =>
    if v.bad || (c.splits != 0 && !s.segReached c.part (tdDesc s c.pstore) v.key [v.split]) then (s.setSac rr (updCtx (s.sac rr) c.num fun c => { c with lost := c.lost ++ [v.key] }), false)
    else if c.splits != 0 then s.segAdd c.part (tdDesc s c.pstore) v.key [v.split] v.value.toNat
    else
      let qi := dieOfRegion rr * 1024 + c.spillq
      let q := s.queue qi
      if !s.spills c q then
        let r := s.segAdd c.part (tdDesc s c.dest) v.key [] v.value.toNat
        ((r.1.regionBump 0x5203 rr 1).setBit 0x4200 (rr + 1) 1, r.2)
      else
        let s := s.regionBump 0x5202 rr 1
        let pf := c.partFilled ++ [(v.key, v.value)]
        if pf.length == 3 then
          (((s.appendEntry qi (spillEntry pf)).wakePops qi).setSac rr (updCtx (s.sac rr) c.num fun c => { c with partFilled := [] }), false)
        else (s.setSac rr (updCtx (s.sac rr) c.num fun c => { c with partFilled := pf }), false)

/-- The least recently updated of a list of entries. -/
def oldest : List SacEntry → Option SacEntry
  | [] => none
  | e :: es => match oldest es with
    | none => some e
    | some f => some (if e.stamp ≤ f.stamp then e else f)

-- ## A record (R183)

/-- The set of a key (R183). -/
def sacSet (ctx key split : Nat) : Nat :=
  ((((field key 10 0 ^^^ field key 21 11) ^^^ (field key 31 22 <<< 1)) ^^^ (ctx <<< 5)) % 2048 + 256 * split) % 2048

/-- The entry of a record's key and split is updated, value + record lanes, or installed; whether an add saturated (R40, R191). -/
def State.sacInstall (s : State) (rr : Nat) (c : SacCtx) (key split : Nat) (data : Line) : State × Bool :=
  let fmt := (tdDesc s c.dest).fmt
  let set := sacSet c.num key split
  let sc := s.sac rr
  match sc.entries.find? fun e => e.set == set && e.ctx == c.num && e.key == key && e.split == split with
  | some e =>
    let f := { e with value := BitVec.ofNat 512 (lanesAdd fmt e.value.toNat data.toNat), stamp := sc.stamp }
    ((s.setSac rr { sc with entries := sc.entries.map fun g => if g == e then f else g, stamp := sc.stamp + 1 }).regionBump 0x5200 rr 1,
      lanesSat fmt e.value.toNat data.toNat)
  | none =>
    let inSet := sc.entries.filter fun e => e.set == set
    let r := if 8 ≤ inSet.length then (match oldest inSet with | some v => s.spill rr v | none => (s, false)) else (s, false)
    let s := r.1
    let sc := s.sac rr
    let e : SacEntry := { set := set, way := freeWay sc.entries set, ctx := c.num, key := key, split := split, value := data
                          stamp := sc.stamp }
    ((s.setSac rr { sc with entries := sc.entries ++ [e], stamp := sc.stamp + 1 }).regionBump 0x5201 rr 1, r.2)

/-- A record of an open context: late ones go into DEST (R187); a second record of a (key, split) in ordered mode is counted
(R193). -/
def State.sacApply (s : State) (rr : Nat) (c : SacCtx) (key split : Nat) (data : Line) : State × Bool :=
  let data := segMask (tdDesc s c.dest) key data
  if c.merging then
    let r := s.segAdd c.part (tdDesc s c.dest) key [] data.toNat
    (((r.1.regionBump 0x5204 rr 1).setBit 0x4200 (rr + 1) 0), r.2)
  else
    let dup := c.splits != 0 && c.seen.contains (key, split)
    let s := if dup then s.regionBump 0x5205 rr 1 else s
    let s := s.setSac rr (updCtx (s.sac rr) c.num fun c => if c.splits != 0 then { c with seen := (key, split) :: c.seen } else c)
    s.sacInstall rr c key split data

/-- The open context of a block, opened now if need be (R179, R180, R456): its number, or the error of the op whose record would have
opened it. -/
def State.openCtx (s : State) (rr block : Nat) : Except Err (State × SacCtx) :=
  let sc := s.sac rr
  match sc.ctxs.find? fun c => c.block == block with
  | some c => .ok (s, c)
  | none =>
    match s.controlErr (block + s.pkg <<< 52) 64 with
    | some e => .error e
    | none =>
      let b := CtxBlock.of (Mem.readNat s.mem block 64)
      let part := (s.regionPart rr).getD 8
      match s.ctxBad b with
      | some e => .error e
      | none =>
      if !s.ctxOk b part then .error { code := 0x010F }
      else match s.pickFree 64 fun n => sc.ctxs.any fun c => c.num == n with
        | none => .error { code := 0x0804 }
        | some n =>
          let c : SacCtx := { num := n, block := block, part := part, dest := b.dest, pstore := b.pstore, spillq := b.spillq
                              splits := b.splits }
          .ok ((s.setSac rr { sc with ctxs := sc.ctxs ++ [c] }).useFree 1, c)

/-- A DEST or PSTORE whose address carries another package's identifier (R12), or whose memory is OFF (R389), ends the ops that use the
context. -/
def State.ctxForeign (s : State) (c : SacCtx) : Option Err :=
  ((if c.splits == 0 then [c.dest] else [c.dest, c.pstore]).filter fun h => !(tdDesc s h).shx).findSome? fun h => s.accessErr (tdDesc s h).base 0 none

/-- What opening a context read and lost is logged (R418). -/
def State.ctxLost (s : State) (e : Err) : State := s.noteLost e

/-- The region of a context block's key, none outside region memory (R181). -/
def blockRegion (key : Nat) : Option Nat :=
  if key / 2 ^ 48 % 4 == 1 && key % 2 ^ 48 < 2 ^ 32 then some (4 * (key / 2 ^ 50) + field key 31 30) else none

/-- Whether a tensor's memory lies in an HBM unit that is being cleared, behind the windows of this package for a sharded one. -/
def State.descClearing (s : State) (d : Desc) : Bool :=
  if d.shx then (List.range d.copies).any fun i =>
    let e := Mem.readNat s.mem (memKey d.plist + 8 * i) 8
    let sl := s.slot (slotIndex (field e 13 12) (field e 30 14))
    e % 4096 == s.pkg && s.clearingIn (memKey sl.base) sl.len
  else s.clearingIn (memKey d.base - addrOff d.base + d.rangeLo) d.rangeLen

/-- Whether the adds or spills of a context might reach memory that is being cleared: its records and its merge wait (R271; DESIGN CHOICE, log
170: for all of DEST, PSTORE and the ring). -/
def State.ctxWaits (s : State) (block : Nat) : Bool :=
  match blockRegion block with
  | none => false
  | some rr =>
    let b := CtxBlock.of (Mem.readNat s.mem block 64)
    let x := match (s.sac rr).ctxs.find? fun c => c.block == block with
      | some c => (c.dest, c.pstore, c.splits, c.spillq)
      | none => (b.dest, b.pstore, b.splits, b.spillq)
    s.descClearing (tdDesc s x.1) || (if x.2.2.1 == 0 then s.ringClearing (s.queue (1024 * dieOfRegion rr + x.2.2.2)) else s.descClearing (tdDesc s x.2.1))

/-- A keyed record reaches the SAC of its context block's region: what becomes of it, or the error it ends its op with. -/
def State.keyed (s : State) (block key split : Nat) (data : Line) : Except Err (State × Bool) :=
  match blockRegion block with
  | none => .error { code := 0x010F }
  | some rr =>
    match s.openCtx rr block with
    | .error e => .error e
    | .ok sc =>
      match sc.1.ctxForeign sc.2 with
      | some e => .error e
      | none => .ok (sc.1.sacApply rr sc.2 key split data)

/-- A keyed record of an op reaches its context: a block that fails its validation ends the op, and drops this record and the op's later ones
for it (R180); a full set of contexts fails the record alone (R179). A saturated sum flags the op (R40). -/
def State.keyedOf (s : State) (r p : Nat) (t : Option Ticket) (block key split : Nat) (data : Line) : State × Option Err :=
  if (match s.op r p with | some o => o.dropped.contains block | none => false) then (s, none)
  else match s.keyed block key split data with
    | .error e =>
      let s := s.ctxLost e
      (if e.code == 0x0804 then s else s.updOp r p fun o => { o with dropped := o.dropped ++ [block] }, some (e.named t))
    | .ok sb => (if sb.2 then sb.1.addFlags r p (2 ^ flagSATURATED) else sb.1, none)

def effSacRecord (src : Src) (ctxa key split : Nat) (data : Line) (s : State) : State :=
  match src with
  | .eng r p t =>
    if s.isStale t then (match t with | some t => s.staleDrop t | none => s)
    else match s.accessErr ctxa 64 t with
    | some e => s.cmdError r p e
    | none =>
      if s.ctxWaits (memKey ctxa) then s else
      let k := s.keyedOf r p t (memKey ctxa) key split data
      match k.2 with
      | some e => k.1.cmdError r p e
      | none => k.1
  | .win id =>
    match s.acceptedReq id with
    | none => s
    | some a =>
      if a.msg.type != 0x09 then s
      else match s.accessErr (a.addr + s.pkg <<< 52) 64 none with
      | some e => s.endReq a e.code
      | none =>
      if s.ctxWaits a.addr then s
      else
        match s.keyed a.addr (a.msg.arg % 2 ^ 32) (field a.msg.arg 34 32) (BitVec.ofNat 512 (natOf (a.msg.data.take 64))) with
        | .error e => (s.ctxLost e).endReq a e.code
        | .ok sb => sb.1.answerReq a 0x11 0 []

/-- SAC_RECORD: a keyed record arrives (R179 to R187); from an accepted KP, the key, split and data of its message. -/
def execSacRecord (src : Src) (ctxa key split : Nat) (data : Line) (s : State) : Out :=
  answer src.ok (effSacRecord src ctxa key split data s)

-- ## The merge (R186, R190, R193)

/-- The tree sum of R193 on lines of lanes. -/
def pairUp (fmt : Nat) : List Nat → List Nat
  | a :: b :: rest => lanesAdd fmt a b :: pairUp fmt rest
  | l => l

def pairSat (fmt : Nat) : List Nat → Bool
  | a :: b :: rest => lanesSat fmt a b || pairSat fmt rest
  | _ => false

/-- The tree sum and whether an add saturated. -/
def treeSum (fmt : Nat) : Nat → List Nat → Nat × Bool
  | 0, l => (l.headD 0, false)
  | n + 1, l =>
    if l.length ≤ 1 then (l.headD 0, false)
    else
      let r := treeSum fmt n (pairUp fmt l)
      (r.1, pairSat fmt l || r.2)

/-- Records of a spill entry: COUNT of them, with keys (R185). -/
def spillRecords (e : BitVec 2048) : List (Nat × Nat) :=
  (List.range (min 3 (field e.toNat 1927 1920))).map fun i =>
    (field e.toNat (640 * i + 31) (640 * i), field e.toNat (640 * i + 639) (640 * i + 128))

/-- Insertion of an entry by set and then way. -/
def insertEntry (e : SacEntry) : List SacEntry → List SacEntry
  | [] => [e]
  | f :: fs => if e.set < f.set || (e.set == f.set && e.way < f.way) then e :: f :: fs else f :: insertEntry e fs

def State.addRecords (s : State) (part : Nat) (d : Desc) (rs : List (Nat × Nat)) : State × Bool :=
  rs.foldl (fun acc kv =>
    let r := acc.1.segAdd part d kv.1 [] kv.2
    (r.1, acc.2 || r.2)) (s, false)

/-- What a merge leaves: the state, the first bad key if any, whether an add saturated. -/
structure Merged where
  s : State
  bad : Option Nat
  sat : Bool

/-- Arrival mode: resident entries in set and way order; the partly filled entry is written (R185), or its records are added into DEST where
SPILLQ cannot take it (DEDUCED, log 207), and the spill records are added in
queue order; the queue space is released. -/
def State.mergeArrival (s : State) (rr : Nat) (c : SacCtx) : Merged :=
  let d := tdDesc s c.dest
  let es := ((s.sac rr).entries.filter fun e => e.ctx == c.num).foldl (fun l e => insertEntry e l) []
  let r1 := s.addRecords c.part d ((es.filter fun e => !e.bad).map fun e => (e.key, e.value.toNat))
  let qi := dieOfRegion rr * 1024 + c.spillq
  let q := s.queue qi
  let mine := q.en && q.part == c.part
  let written := !c.partFilled.isEmpty && r1.1.spills c q
  let s := if written then r1.1.appendEntry qi (spillEntry c.partFilled) else r1.1
  let q := s.queue qi
  let qs := if mine then s.queueEntries q q.rd q.wr else []
  let s := if mine then s.readRing q (((List.range (q.wr - q.rd)).map (q.rd + ·)).filter q.inRing) else s
  let r2 := s.addRecords c.part d ((qs.filter fun e => !e.2).flatMap fun e => spillRecords e.1)
  let r3 := if written then (r2.1, false) else r2.1.addRecords c.part d (c.partFilled.map fun kv => (kv.1, kv.2.toNat))
  let badKeys := (es.filter (·.bad)).map (·.key) ++ c.lost ++ ((qs.filter (·.2)).flatMap fun e => (spillRecords e.1).map (·.1))
  { s := if mine then r3.1.setQueue qi (r3.1.releaseTo { q with rd := q.wr, mark := q.wr } q.wr) else r3.1
    bad := badKeys.head?
    sat := r1.2 || r2.2 || r3.2 }

/-- The granules of a key's partials in PSTORE that fail their check. -/
def State.badPartials (s : State) (c : SacCtx) (ps : Desc) (key : Nat) : List Nat :=
  ((List.range c.splits).flatMap fun sp => (segElems ps key [sp]).flatMap fun x => s.elemKeys c.part ps x.2).filterMap fun k =>
    s.badIn k (laneBits ps.fmt / 8)

/-- Whether a partial of a key fails its check: a resident entry, a spilled victim, or an element of PSTORE (R190). -/
def State.keyBad (s : State) (rr : Nat) (c : SacCtx) (ps : Desc) (key : Nat) : Bool :=
  c.lost.contains key
    || (s.sac rr).entries.any (fun e => e.ctx == c.num && e.key == key && e.bad)
    || !(s.badPartials c ps key).isEmpty

/-- Ordered mode, one key: p_s is the resident entry plus PSTORE; the tree sum goes into DEST and PSTORE is written back to +0. -/
def State.mergeKey (s : State) (rr : Nat) (c : SacCtx) (d ps : Desc) (key : Nat) : State × Bool :=
  let es := (s.sac rr).entries.filter fun e => e.ctx == c.num && e.key == key
  let parts := (List.range c.splits).map fun sp =>
    let stored := s.segRead c.part ps key [sp]
    match es.find? fun e => e.split == sp with
    | some e => (lanesAdd d.fmt e.value.toNat stored, lanesSat d.fmt e.value.toNat stored)
    | none => (stored, false)
  let sum := treeSum d.fmt c.splits (parts.map (·.1))
  let r := if s.keyBad rr c ps key || parts.all (·.1 == 0) then (s, false)
    else
      let a := s.segAdd c.part d key [] sum.1
      (a.1, a.2 || sum.2 || parts.any (·.2))
  ((List.range c.splits).foldl (fun s sp => s.segZero c.part ps key [sp]) r.1, r.2)

def State.mergeOrdered (s : State) (rr : Nat) (c : SacCtx) : Merged :=
  let d := tdDesc s c.dest
  let ps := tdDesc s c.pstore
  let keys := List.range (d.segs * d.ext.getD 1 0)
  let r := keys.foldl (fun (acc : State × Bool) k =>
    let m := ((acc.1.badPartials c ps k).foldl State.checkFailed acc.1).mergeKey rr c d ps k
    (m.1, acc.2 || m.2)) (s, false)
  { s := r.1, bad := keys.find? fun k => s.keyBad rr c ps k, sat := r.2 }

/-- The merge ends: the context's entries are freed, it closes, and each FINAL op is told; a lost partial fails it with 0x0705 (R190),
a saturated sum flags it (R40). -/
def State.closeCtx (s : State) (rr : Nat) (c : SacCtx) (bad : Option Nat) (sat : Bool) : State :=
  let sc := s.sac rr
  let s := s.setSac rr { sc with entries := sc.entries.filter (fun e => e.ctx != c.num)
                                 ctxs := sc.ctxs.filter fun x => x.num != c.num }
  c.finals.foldl (fun s rp =>
    let s := (s.updOp rp.1 rp.2 fun o => { o with merged := true }).addFlags rp.1 rp.2 (if sat then 2 ^ flagSATURATED else 0)
    match bad with
    | some k => let e : Err := { code := 0x0705, dkind := 4, detail := k }; (s.lostResult 2 rr e).cmdError rp.1 rp.2 e
    | none => s) s

/-- A context merges and closes; without a merge where it would reach another package (R12). -/
def State.mergeCtx (s : State) (rr : Nat) (c : SacCtx) : State :=
  match s.ctxForeign c with
  | some e => (c.finals.foldl (fun s rp => s.cmdError rp.1 rp.2 e) s).closeCtx rr c none false
  | none =>
    let m := if c.splits == 0 then s.mergeArrival rr c else s.mergeOrdered rr c
    m.s.closeCtx rr c m.bad m.sat

/-- The merge of a context: its first step begins it once every record that was accepted for it has been applied (R186), so that a record that
arrives meanwhile is late (R187); its second ends it. -/
def effSacMerge (rr ctx : Nat) (s : State) : State :=
  match (s.sac rr).ctxs.find? fun c => c.num == ctx with
  | none => s
  | some c =>
    if c.finals.isEmpty || s.ctxWaits c.block then s
    else if !c.merging then
      if s.accepted.any fun a => a.msg.type == 0x09 && a.addr == c.block then s
      else s.setSac rr (updCtx (s.sac rr) ctx fun c => { c with merging := true })
    else
      s.mergeCtx rr c

/-- SAC_MERGE (R186, R190, R193). -/
def execSacMerge (region ctx : Nat) (s : State) : Out := answer (okRegion region && ctx < 64) (effSacMerge region ctx s)

end Sys2Proof.Machine
end

