-- ==== Sys2Proof/Machine/Cores.lean ====
section
/-! DEFINITION. What every op on a core shares: the units of work and their tickets, the outbound queue and how its head record leaves (R284
to R286), and stream queue deliveries (R292). -/

namespace Sys2Proof.Machine

-- ## Units of work

def State.unit (s : State) (core id : Nat) : Option WorkUnit := (s.core core).units.find? fun u => u.id == id

def Core.updUnit (c : Core) (id : Nat) (f : WorkUnit → WorkUnit) : Core :=
  { c with units := c.units.map fun u => if u.id == id then f u else u }

def State.updUnit (s : State) (core id : Nat) (f : WorkUnit → WorkUnit) : State := s.setCore core ((s.core core).updUnit id f)

/-- A new unit of a core, under the next number. -/
def State.addUnit (s : State) (core : Nat) (u : WorkUnit) : State :=
  let c := s.core core
  s.setCore core { c with units := c.units ++ [{ u with id := c.nextId }], nextId := c.nextId + 1 }

/-- A unit whose work was begun and has to be done again: a replay or a rescale. -/
def WorkUnit.isAgain (u : WorkUnit) : Bool := u.replay + u.rescale != 0

/-- Records enter the outbound queue behind their unit's mark (R16). -/
def State.enqueueRecords (s : State) (core : Nat) (u : WorkUnit) (ds : List Dest) : State :=
  let c := s.core core
  s.setCore core { c with
    outq := c.outq ++ ds.zipIdx.map fun d => { unit := u.id, r := u.r, p := u.p, ticket := u.ticket, dest := d.1, seq := c.nextRec + d.2 }
    nextRec := c.nextRec + ds.length }

/-- Bytes of a record's own data (R284: a value of 4 bytes with its winner index counts 8). -/
def Dest.bytes : Dest → Nat
  | .store _ _ n => ceilDiv ((List.range 128).filter fun i => bitOf n.toNat i).length 2
  | .window _ _ _ n => ceilDiv ((List.range 128).filter fun i => bitOf n.toNat i).length 2
  | .add _ f l _ => laneBits f / 8 * ((List.range 32).filter fun i => bitOf l.toNat i).length
  | .windowAdd _ _ f l _ => laneBits f / 8 * ((List.range 32).filter fun i => bitOf l.toNat i).length
  | .extremum _ _ _ l _ => 4 * ((List.range 16).filter fun i => bitOf l.toNat i).length
  | .windowMax _ _ _ l _ => 4 * ((List.range 16).filter fun i => bitOf l.toNat i).length
  | .keyed _ _ _ _ _ => 64
  | .push _ _ => 256

def destsBytes (ds : List Dest) : Nat := ds.foldl (fun a d => a + d.bytes) 0

/-- The queue's room in bytes (R284). -/
def outCapacity : Nat := 524288

/-- Whether records still fit into a core's queue (R284). -/
def Core.fits (c : Core) (ds : List Dest) : Bool := c.outq.foldl (fun a x => a + x.dest.bytes) 0 + destsBytes ds ≤ outCapacity

/-- Bytes of the largest part in which a chunk is committed (R284). -/
def partBytes : Nat := 262144

/-- The leading records of a list that fit a room, and the others. -/
def takePart (room : Nat) : List Dest → List Dest × List Dest
  | [] => ([], [])
  | d :: ds =>
    if d.bytes ≤ room then
      let r := takePart (room - d.bytes) ds
      (d :: r.1, r.2)
    else ([], d :: ds)

/-- What a chunk has still to commit after `n` parts. -/
def afterParts : Nat → List Dest → List Dest
  | 0, ds => ds
  | n + 1, ds => afterParts n (takePart partBytes ds).2

/-- The queue is rewound to a unit's mark (R18, R285); a RELEASE that waited for what was discarded goes on (R300). -/
def State.discard (s : State) (core id : Nat) : State :=
  let c := s.core core
  (s.setCore core { c with outq := c.outq.filter fun x => x.unit != id }).letReleases core

/-- A run of a unit counts `n` under a dictionary entry of its core. -/
def WorkUnit.note (u : WorkUnit) (index n : Nat) : WorkUnit :=
  if n == 0 then u else { u with counts := AMap.set u.counts index (n + AMap.getD u.counts index 0) }

/-- A unit leaves its core: its ticket leaves the region's list (R258), and what its reads brought is dropped. -/
def State.leaveUnit (s : State) (core : Nat) (u : WorkUnit) : State :=
  let c := s.core core
  let s := s.setCore core { c with units := c.units.filter (fun v => v.id != u.id), shadow := c.shadow.filter (· != u.id) }
  { s with tickets := s.tickets.filter fun t => !(t.1 == core && t.2.1 == u.id) }.dropArrived u.r u.p core

/-- Whether no part of a unit's chunk follows it (R284). -/
def WorkUnit.isLast (u : WorkUnit) : Bool := u.rest.isEmpty && u.next == 0

/-- A unit leaves its core, and its op counts it as landed or ended (R260), a chunk once however many parts it had. -/
def State.endUnit (s : State) (core : Nat) (u : WorkUnit) : State :=
  (s.leaveUnit core u).updOp u.r u.p fun o =>
    { o with landed := if u.isLast then o.landed + 1 else o.landed }

/-- A released unit ends once its last record has been accepted at its destination: none waits in the queue and none for its response (R285,
R328). -/
def State.settleUnit (s : State) (core id : Nat) : State :=
  match s.unit core id with
  | none => s
  | some u =>
    if u.st == .released && !((s.core core).outq.any fun x => x.unit == id)
        && !(s.txns.any fun t => t.core == core && t.unit == some id && t.kind == .write) then s.endUnit core u
    else s

/-- What a unit's run counted enters the core's counters, with the bits that go with a dropped element and a short EXPAND (R84, R213). -/
def State.noteCounts (s : State) (core : Nat) (u : WorkUnit) : State :=
  u.counts.foldl (fun s kn =>
    let s := s.coreBump kn.1 core kn.2
    match kn.1 with
    | 0x5105 => s.coreBit core 0
    | 0x5121 => s.coreBit core 6
    | _ => s) s

/-- How a failure names a unit (R367): by its claim ticket; a pinned op's tile, which no counter hands out, in a ticket's form (DEDUCED, log 166). -/
def WorkUnit.name (u : WorkUnit) (core : Nat) : Option Ticket := some (u.ticket.getD (mkTicket 0 (core / 8) 0 u.index))

/-- What a unit counted and flagged stays when it ends in an error (R84, R366), unless it is counted already or a pre-pass's. -/
def State.earned (s : State) (core : Nat) (u : WorkUnit) : State :=
  if u.counted || (match s.op u.r u.p with | some o => o.snaps.any (·.seeding) | none => false) then s
  else (s.noteCounts core u).addFlags u.r u.p u.flags

/-- A unit that writes nothing and ends its op with an error, which names its ticket where it names nothing else (R367); its other units go
on. -/
def State.failUnit (s : State) (core : Nat) (u : WorkUnit) (e : Err) : State :=
  (((s.earned core u).discard core u.id).endUnit core { u with rest := [], next := 0 }).cmdError u.r u.p (e.named (u.name core))

/-- The stage-slot access of a step of work as a scoreboard entry: the granule in the core's stage slots and the direction are the compiled
schedule's, which no command gives (DESIGN CHOICE, log 70: a free choice). The number 514 and the unit's number own it. -/
def State.slotEntry (s : State) (core : Nat) (u : WorkUnit) : SbEntry :=
  let sp := (s.core core).split
  let g := 1024 * sp.1 + Config.freePick s.freeCtr (1024 * sp.2.1) % (1024 * sp.2.1)
  let wr := Config.freeBit (s.freeCtr + 1)
  { r := 514, p := u.id, lo := g, hi := g + 1, wr := wr, st := if wr then .fill else .hold }

/-- A step of work on a core whose CHECK bit is set enters its stage-slot access in the scoreboard as a FILL or HOLD, in place of its unit's
last one; those of units that have left the core or wait for their verdict are over. It never stalls: an access that would have stalled
by R280 is a race, which sets SLOT_RACE, is counted, discards the unit's records and ends its op with 0x0505 (R283). -/
def State.slotChecked (s : State) (core : Nat) (u : WorkUnit) (go : State → State) : State :=
  let c := s.core core
  if s.odGet 0x3133 (core + 1) % 2 == 0 || c.split.2.1 == 0 then go s
  else
    let busy (id : Nat) : Bool := id != u.id && c.units.any fun v => v.id == id && (v.st == .held || v.st == .open_)
    let sb := c.sb.filter fun e => e.r != 514 || busy e.p
    let e := s.slotEntry core u
    if sb.any e.waitsFor then
      ((((s.useFree 2).setCore core { c with sb := sb }).coreBit core 8).coreBump 0x5141 core 1).failUnit core u { code := 0x0505 }
    else go ((s.useFree 2).setCore core { c with sb := if 64 ≤ sb.length then sb else sb ++ [e] })

/-- A unit as it is before it starts again, with what survives a replay: its claim, its PACKED offsets, its counts (R94, R403). -/
def WorkUnit.restart (u : WorkUnit) : WorkUnit :=
  { id := u.id, r := u.r, p := u.p, g := u.g, index := u.index, ticket := u.ticket, part := u.part, sub := u.sub, replay := u.replay, rescale := u.rescale
    counted := u.counted, passed := u.passed, last := u.fail.or u.last, offsets := u.offsets, atid := u.atid, lo := u.lo, mode := u.mode, shape := u.shape, contribs := u.contribs }

/-- An integrity replay (R18): the records are discarded and the unit starts again from its inputs; its op is REPLAYED (R366). -/
def State.replayUnit (s : State) (core : Nat) (u : WorkUnit) : State :=
  let s := (s.discard core u.id).updUnit core u.id fun v => { v.restart with replay := v.replay + 1 }
  u.contribs.foldl (fun s x => s.dropArrived x.1 x.2.1 core)
    ((s.dropArrived u.r u.p core).addFlags u.r u.p (2 ^ flagREPLAYED))

-- ## The head of the outbound queue (R286, R328)

/-- Slots of 16 bytes that a record's nibbles reach: the first and the number. -/
def slotSpan (nib : Nat) : Nat × Nat :=
  let used := (List.range 4).filter fun i => field nib (32 * i + 31) (32 * i) != 0
  match used with
  | [] => (0, 0)
  | a :: _ => (a, (used.getLast?.getD a) + 1 - a)

/-- The data slots of a WR with their nibble mask (R29). -/
def wrData (data first count : Nat) : List Byte := bytesOf (data / 2 ^ (128 * first)) (16 * count)
def wrMask (nib first count : Nat) : Nat := nib / 2 ^ (32 * first) % 2 ^ (32 * count)

/-- What a record meets at its destination. One that is held leaves only what its arrival there did. -/
inductive Landing where
  | done (s : State)
  | held (arrive : State → State := id)
  | failed (s : State) (e : Err)

/-- A write of a range of the package's memory: it waits while an HBM unit is being cleared, and in a scratchpad for what the scoreboard
holds (R271, R280). -/
def State.landRange (s : State) (r p key len : Nat) (apply : State → State) : Landing :=
  if s.clearingIn key len then .held
  else if (s.sbWrite r p key len).2 then .done (apply (s.sbWrite r p key len).1)
  else .held fun s => (s.sbWrite r p key len).1

/-- One copy of a windowed record: an own-package window is checked and served in place (R67, R321), a remote one is sent when its port can take
it (R286). -/
def State.landCopy (s : State) (w : Who) (x : OutRec) (copy : Nat × Nat × Nat) (off len bit type arg : Nat)
    (data : List Byte) (mask : Option Nat) (apply : State → Nat → State) : Landing :=
  let i := slotIndex copy.2.1 copy.2.2
  if copy.1 == s.pkg then
    let sl := s.slot i
    let mine (y : OwnReq) : Bool := y.is w i off bit
    match s.judgeOwn w copy.2.1 copy.2.2 bit off len with
    | .refused code => .failed ((s.refusedLocal (some i)).dropOwn w.core mine) (ticketErr code x.ticket)
    | .held => .held fun s => s.holdOwn w i off len bit
    | .accepted =>
      match s.accessErr (sl.base + off) len x.ticket with
      | some e => .failed (s.dropOwn w.core mine) e
      | none => s.landRange w.r w.p (memKey (sl.base + off)) len fun s =>
          apply ((s.bindWindow w copy.1 copy.2.1 copy.2.2 sl.ogen).dropOwn w.core mine) (memKey (sl.base + off))
  else
    match s.routeErr (w.core / 32) copy.1 with
    | some code => .failed (s.noteRoute (w.core / 32) copy.1) (ticketErr code x.ticket)
    | none =>
      if (match s.egressPort (w.core / 32) copy.1 with | some pp => s.portBusy pp | none => false) then .held
      else .done (s.request (w.core / 32) type (len / 16) w .write copy.1 copy.2.1 copy.2.2 off arg x.ticket data (some x.unit) mask x.seq)

/-- All copies of a record: one that must wait holds the record before any is written; one that is refused stops no other, and the first
refusal is the record's (R322). -/
def landCopies (land : State → Nat × Nat × Nat → Landing) (err : Option Err) : List (Nat × Nat × Nat) → State → Landing
  | [], s => match err with
    | none => .done s
    | some e => .failed s e
  | c :: cs, s =>
    match land s c with
    | .done s' => landCopies land err cs s'
    | .held f => .held f
    | .failed s' e => landCopies land (some (err.getD e)) cs s'

/-- The window of a window reference (R189). -/
def winRef (a : Nat) : (Nat × Nat × Nat) × Nat := ((field a 63 52, field a 51 50, field a 48 32), a % 2 ^ 32)

/-- ARG of an AT: operation, format and lane mask (R314). -/
def atArg (op fmt lanes : Nat) : Nat := (Config.atCode op fmt).toNat + (lanes % 2 ^ 32) <<< 8

/-- A record of the package's own memory lands: not OFF, not being cleared, not held by the scoreboard. -/
def State.landMem (s : State) (x : OutRec) (addr : Nat) (apply : State → State) : Landing :=
  match s.accessErr addr 64 x.ticket with
  | some e => .failed s e
  | none => s.landRange x.r x.p (memKey addr) 64 apply

/-- A lane-wise add at a line, whose saturation flags the op that sent it (R168, R191). -/
def State.addFlagged (s : State) (x : OutRec) (k f l d : Nat) : State :=
  (s.lineAdd k f l d).addFlags x.r x.p (if addSaturates f l (s.line k) d then 2 ^ flagSATURATED else 0)

/-- A keyed record for a context block of this package. -/
def State.landKeyed (s : State) (x : OutRec) (block key split : Nat) (d : Line) : Landing :=
  if s.ctxWaits block then .held else
  let k := s.keyedOf x.r x.p x.ticket block key split d
  match k.2 with
  | some e => .failed k.1 e
  | none => .done k.1

/-- A keyed record through a window: one of the own package is checked as a KP is (R189). -/
def State.landKeyedWin (s : State) (w : Who) (x : OutRec) (off key split : Nat) (d : Line) (c : Nat × Nat × Nat) : Landing :=
  let i := slotIndex c.2.1 c.2.2
  if c.1 == s.pkg then
    let sl := s.slot i
    let mine (y : OwnReq) : Bool := y.is w i off 2
    match s.judgeOwn w c.2.1 c.2.2 2 off 64 with
    | .refused code => .failed ((s.refusedLocal (some i)).dropOwn w.core mine) (ticketErr code x.ticket)
    | .held => .held fun s => s.holdOwn w i off 64 2
    | .accepted =>
      match s.accessErr (sl.base + off) 64 x.ticket with
      | some e => .failed (s.dropOwn w.core mine) e
      | none =>
        if s.ctxWaits (memKey (sl.base + off)) then .held
        else ((s.bindWindow w c.1 c.2.1 c.2.2 sl.ogen).dropOwn w.core mine).landKeyed x (memKey (sl.base + off)) key split d
  else s.landCopy w x c off 64 2 0x09 (key % 2 ^ 32 + split <<< 32) (bytesOf d.toNat 64) none fun s _ => s

/-- A record reaches its destination. -/
def State.land (s : State) (core : Nat) (x : OutRec) : Landing :=
  let w : Who := ⟨x.r, x.p, core, ringPart x.r⟩
  let src : Src := .eng x.r x.p x.ticket
  match x.dest with
  | .store a d n => s.landMem x a fun s => effBankWrite src a d n s
  | .add a f l d => s.landMem x a fun s => effBankAdd src a f l d s
  | .extremum a mx f l d => s.landMem x a fun s => effBankMaxMin src a mx f l d s
  | .window cs off d n =>
    let sp := slotSpan n.toNat
    landCopies (fun s c => s.landCopy w x c (off + 16 * sp.1) (16 * sp.2) 1 0x02 0 (wrData d.toNat sp.1 sp.2)
      (some (wrMask n.toNat sp.1 sp.2)) fun s k => s.lineWrite (k - 16 * sp.1) d.toNat n.toNat) none cs s
  | .windowAdd cs off f l d =>
    landCopies (fun s c => s.landCopy w x c off 64 2 0x08 (atArg 2 f l.toNat) (bytesOf d.toNat 64) none
      fun s k => s.addFlagged x k f l.toNat d.toNat) none cs s
  | .windowMax cs off f l d =>
    landCopies (fun s c => s.landCopy w x c off 64 2 0x08 (atArg 3 f l.toNat) (bytesOf d.toNat 64) none
      fun s k => s.lineExt k true f l.toNat d.toNat) none cs s
  | .keyed a rmt key split d =>
    if rmt then landCopies (fun s c => s.landKeyedWin w x (winRef a).2 key split d c) none [(winRef a).1] s
    else match s.accessErr a 64 x.ticket with
      | some e => .failed s e
      | none => s.landKeyed x (memKey a) key split d
  | .push qi e =>
    if !(s.queue qi).en then .failed s { code := 0x0504 }
    else if (s.queue qi).full || s.pushWaits (s.queue qi) then .held
    else match s.pushErr (s.queue qi) with
      | some e => .failed s e
      | none => .done ((s.appendEntry qi e).wakePops qi)

/-- Windows that a record's copies go to; none for memory of the package. -/
def Dest.copies : Dest → List (Nat × Nat × Nat)
  | .window cs _ _ _ => cs
  | .windowAdd cs _ _ _ _ => cs
  | .windowMax cs _ _ _ _ => cs
  | .keyed a true _ _ _ => [(winRef a).1]
  | _ => []

/-- A record whose ticket is stale is dropped: for each copy that would leave the package by the link egress of the die that its route leaves by
(R328), by the memory's own stages for the others (R171). -/
def State.dropStale (s : State) (core : Nat) (x : OutRec) (t : Ticket) : State :=
  if x.dest.copies.isEmpty then s.staleDrop t
  else x.dest.copies.foldl (fun s c => if c.1 == s.pkg then s.staleDrop t
    else s.dieBump 0x5313 (match s.egressPort (core / 32) c.1 with | some pp => pp / 8 | none => core / 32) 1) s

/-- The head record is gone. With its unit's last record the ticket leaves the region's list (R258), and the unit ends once every one has been
accepted. A RELEASE that waited for the record goes on (R300). -/
def State.dropHead (s : State) (core : Nat) (x : OutRec) : State :=
  let c := s.core core
  let s := s.setCore core { c with outq := c.outq.drop 1 }
  let s := s.updUnit core x.unit fun u => { u with sent := u.sent + 1 }
  if (s.core core).outq.any fun y => y.unit == x.unit then s.letReleases core
  else ({ s with tickets := s.tickets.filter fun t => !(t.1 == core && t.2.1 == x.unit) }.settleUnit core x.unit).letReleases core

/-- How a failure names a record: as its unit, and by nothing for a PUSH. -/
def State.recName (s : State) (core : Nat) (x : OutRec) : Option Ticket :=
  match x.dest with
  | .push _ _ => none
  | _ => match s.unit core x.unit with | some u => u.name core | none => x.ticket

/-- A record whose claim waits to be made stale stays where it is (R171, R258). -/
def State.staleSoon (s : State) (t : Option Ticket) : Bool :=
  match t with
  | some t => s.reissueWait.any fun x => x.2.2.2 == t
  | none => false

/-- A failed verdict, and a record that fails as it leaves, is one of a core's integrity failures (R406). -/
def State.noteFailure (s : State) (core : Nat) : State :=
  let c := s.core core
  s.setCore core { c with failTimes := (s.timeUs :: c.failTimes).filter fun t => s.timeUs < t + 1000000 }

/-- The head record fails the queue's CRC-16 as it leaves (R402): its unit is replayed if none of its records has left and its core still runs,
and otherwise its op completes with 0x0706. A PUSH starts again. A record of a claim that is made again is only dropped with its unit (R172).
Each is one of the failures of a core that runs (R406). -/
def State.headFails (s : State) (core : Nat) (x : OutRec) : State :=
  match s.unit core x.unit with
  | none => s
  | some u =>
    let own := s.coreRuns core && !u.carried
    let s := if own then s.noteFailure core else s
    if u.sent == 0 && own then
      let s := s.severity 3 (s.coreUnit core) 0 1 0 {}
      match x.dest with
      | .push _ _ => ((s.discard core u.id).endUnit core u).cmdPhase x.r x.p .started
      | _ => s.replayUnit core u
    else if s.isStale x.ticket || s.staleSoon x.ticket then ((s.lostQuietly 3 (s.coreUnit core)).discard core u.id).endUnit core u
    else
      let e := ticketErr 0x0706 (s.recName core x)
      ((s.lostResult 3 (s.coreUnit core) e).failUnit core u e).cmdError x.r x.p e

/-- A record leaves for its destination, or the head stays held (R286). -/
def State.sendHead (s : State) (core : Nat) (x : OutRec) : State :=
  match s.land core x with
  | .done s => s.dropHead core x
  | .held f => (f s).coreBump 0x5143 core 1
  | .failed s e => (s.cmdError x.r x.p (e.named (s.recName core x))).dropHead core x

def effOutboundSend (core : Nat) (recordFail : Bool) (s : State) : State :=
  match (s.core core).outq with
  | [] => s
  | x :: _ =>
    match s.unit core x.unit with
    | none => s
    | some u =>
      if u.st != .released then s
      else if recordFail then s.headFails core x
      else if s.staleSoon x.ticket then s.coreBump 0x5143 core 1
      else match x.ticket with
        | some t => if s.isStale x.ticket then (s.dropStale core x t).dropHead core x else s.sendHead core x
        | none => s.sendHead core x

/-- OUTBOUND_SEND: the head record of a released unit leaves when its destination accepts it (R285, R286, R328). -/
def execOutboundSend (core : Nat) (recordFail : Bool) (s : State) : Out := answer (okCore core) (effOutboundSend core recordFail s)

/-- Whether a core holds a PUSH or POP that has no unit: a POP that waits for entries, or one of either whose range waits in a scoreboard (R277,
R291, R292). -/
def State.holdsMove (s : State) (core : Nat) : Bool :=
  let runsHere (c : Cmd) : Bool :=
    let q := s.queue (c.f 11 0)
    (c.opcode == 0x30 && 32 * (c.f 11 0 / 1024) + q.tailCore == core) || (c.opcode == 0x31 && 32 * (c.f 11 0 / 1024) + q.headCore == core)
  (s.queues.any fun kq => 32 * (kq.1 / 1024) + kq.2.headCore == core && !kq.2.pops.isEmpty)
    || s.cmds.any fun c => runsHere c && s.cores.any fun kc => kc.2.sb.any fun e => e.r == c.r && e.p == c.p

def effScratchpadSplitApply (core : Nat) (s : State) : State :=
  let c := s.core core
  if c.units.isEmpty && c.shares.isEmpty && c.outq.isEmpty && !s.holdsMove core then
    s.setCore core { c with split := (s.odGet 0x3130 (core + 1), s.odGet 0x3131 (core + 1), s.odGet 0x3132 (core + 1)) }
  else s

/-- SCRATCHPAD_SPLIT_APPLY: a written split takes effect when the core holds no op (R277). -/
def execScratchpadSplitApply (core : Nat) (s : State) : Out := answer (okCore core) (effScratchpadSplitApply core s)

end Sys2Proof.Machine
end

