-- ==== Sys2Proof/Machine/Copy.lean ====
section
/-! DEFINITION. COPY (R359, R360), SIGNAL and WAIT (R361), and WORK_GRID (R247 to R249). -/

namespace Sys2Proof.Machine

-- ## Places a COPY reads and writes

/-- A resolved end of a COPY: memory of the package, a host bus address, or a window of another package. -/
inductive End where
  | key (k : Nat)
  | host (port addr : Nat)
  | remote (pkg die slot off : Nat)
  deriving DecidableEq, Repr

/-- Location codes 1 and 2 name a port that is up (R359, R360). -/
def State.locUp (s : State) (loc : Nat) : Bool := if loc == 1 || loc == 2 then s.portUp (loc - 1) else true

/-- Address checks of an end by its location code (R360). -/
def State.endErr (s : State) (part loc a len bit : Nat) : Option Err :=
  match loc with
  | 0 => s.bodyAddr part a len 16 bit
  | 3 => if bitOf a 49 then some (bodyErr 0x0101 (bit + 49)) else errIf (a % 16 != 0) (bodyErr 0x0301 bit)
  | _ => errIf (a % 16 != 0) (bodyErr 0x0301 bit)

/-- The conditions of R360 in its order. -/
def State.copyErr (s : State) (c : Cmd) : Option Err :=
  let len := c.f 87 48
  firstErr [
    c.reservedErr 0x0101 [(7, 4), (47, 12), (127, 88), (767, 256)],
    errIf (!s.locUp (c.f 1 0)) (bodyErr 0x0118 0),
    errIf (!s.locUp (c.f 3 2)) (bodyErr 0x0118 2),
    errIf (s.regionPart (c.f 11 8) != some c.part) (bodyErr 0x0118 8),
    errIf (len == 0 || len % 16 != 0) (bodyErr 0x0118 48),
    s.endErr c.part (c.f 1 0) (c.f 191 128) len 128,
    s.endErr c.part (c.f 3 2) (c.f 255 192) len 192]

/-- An end resolved for a requester on die `home`: an own-package window is checked and served locally (R67, R321), and memory that is OFF
serves no access (R389, R416). -/
def State.resolveEnd (s : State) (home : Nat) (w : Who) (loc a len bit : Nat) : Rd End :=
  match loc with
  | 0 => match s.accessErr a len none with
    | some e => .error (.err e)
    | none => .ok (.key (memKey a))
  | 1 => .ok (.host 0 a)
  | 2 => .ok (.host 1 a)
  | _ =>
    let wr := winRef a
    if wr.1.1 == s.pkg then
      let sl := s.slot (slotIndex wr.1.2.1 wr.1.2.2)
      match s.judgeOwn w wr.1.2.1 wr.1.2.2 bit wr.2 len with
      | .refused code => .error (.err { code := code } (some (slotIndex wr.1.2.1 wr.1.2.2)))
      | .held => .error (.wait (some ⟨wr.1.1, wr.1.2.1, wr.1.2.2, wr.2, len, bit⟩))
      | .accepted =>
        match s.accessErr (sl.base + wr.2) len none with
        | some e => .error (.err e)
        | none => .ok (.key (memKey (sl.base + wr.2)))
    else
      match s.routeErr home wr.1.1 with
      | some code => .error (.err { code := code })
      | none => .ok (.remote wr.1.1 wr.1.2.1 wr.1.2.2 wr.2)

/-- Bytes of host memory behind a port. -/
def State.hostMem (s : State) (port : Nat) : List Host.Cell := if port == 0 then s.host0 else s.host1
def State.setHost (s : State) (port : Nat) (m : List Host.Cell) : State :=
  if port == 0 then { s with host0 := m } else { s with host1 := m }

/-- A host read that the host answers with Unsupported Request, Completer Abort or poison (R360). -/
def State.hostBadIn (s : State) (port a len : Nat) : Option Nat :=
  (s.hostBad.find? fun b => b.1 == port && a ≤ b.2 && b.2 < a + len).map (·.2)

/-- One block of a COPY's source (R360). A port that went down answers no read: an op that needs it ends with 0x0A01 (R389, R416). -/
def State.readEnd (s : State) (w : Who) (e : End) (off len : Nat) : Rd Nat :=
  match e with
  | .key k =>
    if s.clearingIn (k + off) len then .error (.wait none)
    else match s.badIn (k + off) len with
      | some g => .error (.bad g none)
      | none => .ok (Mem.readNat s.mem (k + off) len)
  | .host port a =>
    if !s.portUp port then .error (.err { code := 0x0A01 })
    else match s.hostBadIn port (a + off) len with
    | some b => .error (.err (addrErr 0x0305 b))
    | none => .ok (Mem.readNat (s.hostMem port) (a + off) len)
  | .remote pkg die slot o => s.readWin w pkg die slot (o + off) len

/-- Whether a command's writes through a host port are discarded: the port was reset since it was taken, or is down (R348). -/
def State.portCut (s : State) (r p port : Nat) : Bool :=
  !s.portUp port || (match s.cmd r p with | some c => c.cut.contains port | none => false)

/-- One block lands; a discarded write into host memory is counted by the die that hosts the ring (R348). -/
def State.writeEnd (s : State) (w : Who) (e : End) (off len v : Nat) : State :=
  match e with
  | .key k => s.writeRange (k + off) len v
  | .host port a =>
    if s.portCut w.r w.p port then s.dieBump 0x5314 (ringDie w.r) 1
    else s.setHost port (Mem.writeNat (s.hostMem port) (a + off) v len)
  | .remote pkg die slot o =>
    s.request (w.core / 32) 0x02 (len / 16) w .write pkg die slot (o + off) 0 none (bytesOf v len)

/-- A destination that cannot take a block yet: an HBM unit being cleared. -/
def State.endWaits (s : State) (e : End) (len : Nat) : Bool :=
  match e with
  | .key k => s.clearingIn k len
  | _ => false

def overlap (a b : End) (len : Nat) : Bool :=
  match a, b with
  | .key x, .key y => x < y + len && y < x + len
  | _, _ => false

/-- An overlapping copy: each byte takes the old or the new value of its source byte (R360), a free choice. `orig` is the memory before
the copy; `is` lists the byte numbers, in an order in which a source byte that is itself written has been written before. -/
def overlapCopy (orig : List Host.Cell) (src dst n : Nat) (is : List Nat) (m : List Host.Cell) : List Host.Cell :=
  is.foldl (fun m i =>
    Mem.write m (dst + i) (if Config.freeBit (n + i) then Mem.read m (src + i) else Mem.read orig (src + i))) m

/-- A block that cannot be read fails the copy with its code; what stops a block at a wait stops the copy's step. -/
def blockErr (pkg : Nat) : Stop → Option Err
  | .bad a _ => some (addrErr 0x0701 (a + pkg <<< 52))
  | .header a _ => some (addrErr 0x0701 (a + pkg <<< 52))
  | .err e _ => some e
  | .wait _ => none

/-- A block of a copy that fails leaves its bytes of a scratchpad undefined (R280). -/
def State.undefineEnd (s : State) (e : End) (off len : Nat) : State :=
  match e with
  | .key k => s.undefine (k + off) len
  | _ => s

/-- The blocks of a COPY: each lands when it is read; one that fails gives the copy its first error, and one whose granule failed its check has been
read once more, which replays it (R360, R366). -/
def State.copyBlocks (s : State) (c : Cmd) (w : Who) (a b : End) (len : Nat) : List Nat → State
  | [] => s
  | i :: is =>
    let off := 4096 * i
    let n := min 4096 (len - off)
    let s := match s.readEnd w a off n with
      | .ok v => s.writeEnd w b off n v
      | .error st => match blockErr s.pkg st with
        | some e => (match st with
          | .bad g _ => ((s.lostAt g e).addFlags c.r c.p (2 ^ flagREPLAYED)).cmdError c.r c.p e
          | _ => s.cmdError c.r c.p e).undefineEnd b off n
        | none => s
    s.copyBlocks c w a b len is

/-- The first block of a source that has to wait, with what it waits for. -/
def State.copyWait (s : State) (w : Who) (a : End) (len : Nat) : Option (Option Want) :=
  (List.range (ceilDiv len 4096)).findSome? fun i =>
    match s.readEnd w a (4096 * i) (min 4096 (len - 4096 * i)) with
    | .error (.wait x) => some x
    | _ => none

/-- A COPY whose ranges are its own: it waits for remote data, then every block is copied (R360). -/
def State.copyNow (s : State) (c : Cmd) (w : Who) (a b : End) (len sKey dKey : Nat) : State :=
  match s.copyWait w a len with
  | some x => s.issueWant w none x
  | none =>
    if s.endWaits b len then s
    else
      let s :=
        if overlap a b len && (s.badIn sKey len).isNone then
          let is := List.range len
          ((({ s with mem := overlapCopy s.mem sKey dKey s.freeCtr (if sKey < dKey then is else is.reverse) s.mem }).mendRange
            dKey len).closeGroups dKey len).useFree len
        else s.copyBlocks c w a b len (List.range (ceilDiv len 4096))
      (((s.sbFreeMem c.r c.p sKey).sbFreeMem c.r c.p dKey).dropArrived c.r c.p w.core).cmdPhase c.r c.p .running

/-- A request of an op's own that a slot held and then accepted has been served: it leaves INFLIGHT (R321). -/
def State.served (s : State) (w : Who) : State := s.dropOwn w.core fun x => x.r == w.r && x.p == w.p

/-- The range of an end that the scoreboards watch. -/
def End.ranges (e : End) (len : Nat) (wr : Bool) : List SbRange := match e with | .key k => [⟨k, len, wr⟩] | _ => []

/-- The routing entry that an end in a remote window needs, where it fails its check (R417). -/
def State.noteWindow (s : State) (home loc a : Nat) : State :=
  if loc == 3 && field a 63 52 != s.pkg then s.noteRoute home (field a 63 52) else s

/-- A COPY whose data is at hand runs whole; until then it stays outstanding, its remote reads sent and its scratchpad ranges entered
in their scoreboards. It needs its region ON (R389). -/
def State.runCopy (s : State) (c : Cmd) : State :=
  let len := c.f 87 48
  let w : Who := ⟨c.r, c.p, 8 * c.f 11 8, c.part⟩
  if s.fnState .region (c.f 11 8) != 2 then s.cmdFail c.r c.p { code := 0x0A01 }
  else
    match s.resolveEnd (w.core / 32) w (c.f 1 0) (c.f 191 128) len 0, s.resolveEnd (w.core / 32) w (c.f 3 2) (c.f 255 192) len 1 with
    | .error (.err e d), _ => (((s.noteWindow (w.core / 32) (c.f 1 0) (c.f 191 128)).refusedLocal d).served w).cmdFail c.r c.p e
    | _, .error (.err e d) => (((s.noteWindow (w.core / 32) (c.f 3 2) (c.f 255 192)).refusedLocal d).served w).cmdFail c.r c.p e
    | .ok a, .ok b =>
      let sKey := match a with | .key k => k | _ => 0
      let dKey := match b with | .key k => k | _ => 0
      let i := s.sbIssue c.r c.p (a.ranges len false ++ b.ranges len true)
      if i.2 then i.1.copyNow c w a b len sKey dKey else i.1
    | .error (.wait x), _ => s.issueWant w none x
    | _, .error (.wait x) => s.issueWant w none x
    | _, _ => s

def effCopy (r p : Nat) (s : State) : State :=
  s.started r p 0x23 fun c => s.orFail c (s.copyErr c) (s.runCopy c)

/-- COPY (R359, R360). -/
def execCopy (r p : Nat) (s : State) : Out := answer (okRing r) (effCopy r p s)

-- ## SIGNAL and WAIT (R361)

/-- The checks of a SIGNAL or WAIT body. The word is 8 bytes of the partition's region memory, 16-byte aligned, or in a window. -/
def State.signalErr (s : State) (c : Cmd) : Option Err :=
  let a := c.f 63 0
  firstErr [
    c.reservedErr 0x0101 [(159, 128)],
    errIf (c.opcode == 0x41 && c.f 191 160 != 0) (bodyErr 0x0118 160),
    c.reservedErr 0x0101 [(767, 193)],
    if bitOf c.body 192 then
      firstErr [errIf (bitOf a 49) (bodyErr 0x0101 49), errIf (a % 16 != 0) (bodyErr 0x0301 0)]
    else firstErr [s.bodyAddr c.part a 8 16 0, errIf (addrSpace a != 1) (bodyErr 0x0303 0)]]

/-- Where a signal word lies: a key of the package's memory, or a remote window's offset. `bit` is the permission it needs. -/
def State.wordEnd (s : State) (c : Cmd) (bit : Nat) : Rd End :=
  s.resolveEnd (ringDie c.r) ⟨c.r, c.p, 0x82, c.part⟩ (if bitOf c.body 192 then 3 else 0) (c.f 63 0) 8 bit

/-- The routing entry that a word in a remote window needs, where it fails its check (R417). -/
def State.noteWord (s : State) (c : Cmd) : State := s.noteWindow (ringDie c.r) (if bitOf c.body 192 then 3 else 0) (c.f 63 0)

/-- A word that fails its check ends the command with 0x0701. -/
def State.wordBad (s : State) (k : Nat) : Option Err := (s.badIn k 8).map fun g => addrErr 0x0701 (g + s.pkg <<< 52)

/-- The requester of a SIGNAL or WAIT: the DMP of the die that hosts the ring (DESIGN CHOICE, log 17). -/
def Cmd.dmp (c : Cmd) : Who := ⟨c.r, c.p, 0x82, c.part⟩

def effSignal (r p : Nat) (s : State) : State :=
  s.started r p 0x41 fun c =>
    s.orFail c (s.signalErr c)
      (match s.wordEnd c 2 with
      | .error (.err e d) => (((s.noteWord c).refusedLocal d).served c.dmp).cmdFail r p e
      | .error (.wait x) => s.issueWant c.dmp none x
      | .error _ => s
      | .ok (.key k) =>
        if s.clearingIn k 8 then s else
        match s.wordBad k with
        | some e => ((s.lostAt k e).served c.dmp).cmdFail r p e
        | none =>
          let i := s.sbWrite r p k 8
          if !i.2 then i.1 else
          let s := i.1.served c.dmp
          ((s.fetchAdd k (c.f 127 64)).flagSum r p (Mem.readNat s.mem k 8) (c.f 127 64)).cmdDone r p (Mem.readNat s.mem k 8)
      | .ok (.host _ _) => s
      | .ok (.remote pkg die slot off) =>
        match s.routeErr (ringDie r) pkg with
        | some code => (s.noteRoute (ringDie r) pkg).cmdFail r p { code := code }
        | none =>
          let lane := off % 64 / 8
          (s.request (ringDie r) 0x08 4 c.dmp .signalAdd pkg die slot (off / 64 * 64) (atArg 7 0 (2 ^ lane)) none
            (bytesOf (c.f 127 64 <<< (64 * lane)) 64)).cmdPhase r p .running)

/-- SIGNAL: a bank fetch-add; the old value is the result (R361). -/
def execSignal (r p : Nat) (s : State) : Out := answer (okRing r) (effSignal r p s)

def effWait (r p : Nat) (s : State) : State :=
  s.started r p 0x42 fun c => s.orFail c (s.signalErr c) (s.cmdPhase r p .running)

/-- WAIT: polling begins (R361). -/
def execWait (r p : Nat) (s : State) : Out := answer (okRing r) (effWait r p s)

def effWaitPoll (r p : Nat) (s : State) : State :=
  s.running r p 0x42 fun c =>
    match s.wordEnd c 0 with
    | .error (.err e d) => (((s.noteWord c).refusedLocal d).served c.dmp).cmdFail r p e
    | .error (.wait x) => s.issueWant c.dmp none x
    | .error _ => s
    | .ok (.key k) =>
      if s.clearingIn k 8 || s.filling r p k 8 then s else
      match s.wordBad k with
      | some e => ((s.lostAt k e).served c.dmp).cmdFail r p e
      | none => (s.served c.dmp).waitRead r p (Mem.readNat s.mem k 8)
    | .ok (.host _ _) => s
    | .ok (.remote pkg die slot off) =>
      if s.txns.any fun t => t.r == r && t.p == p then s
      else s.request (ringDie r) 0x01 1 c.dmp .waitRead pkg die slot off 0 none []

/-- WAIT_POLL: a read of the word, which completes the WAIT when it is at or above the target (R361). -/
def execWaitPoll (r p : Nat) (s : State) : Out := answer (okRing r) (effWaitPoll r p s)

def effWaitTimeout (r p : Nat) (s : State) : State :=
  s.running r p 0x42 fun c =>
    if c.f 191 160 == 0 then s
    else { s with txns := s.txns.filter fun t => !(t.r == r && t.p == p) }.cmdFail r p { code := 0x0506 }

/-- WAIT_TIMEOUT (R361). -/
def execWaitTimeout (r p : Nat) (s : State) : Out := answer (okRing r) (effWaitTimeout r p s)

-- ## WORK_GRID (R247 to R249)

/-- Cores of a CORES field; 0 names every assigned core of the partition. -/
def State.gridCores (s : State) (part cores : Nat) : List Nat :=
  (List.range 128).filter fun c =>
    if cores == 0 then s.assigned c && s.regionPart (c / 8) == some part else bitOf cores c

def Cmd.gridOf (c : Cmd) : Grid where
  cores := c.f 255 128
  gm := c.f 127 120
  gn := c.f 119 112
  steal := c.f 111 110
  order := c.f 109 109
  cool := bitOf c.body 108

/-- The conditions of R249, in its order. -/
def State.gridErr (s : State) (c : Cmd) : Option Err :=
  let g := c.gridOf
  firstErr [
    c.reservedErr 0x0114 [(107, 0), (767, 256)],
    errIf ((List.range 128).any fun k => bitOf g.cores k && !(s.assigned k && s.regionPart (k / 8) == some c.part))
      (bodyErr 0x0114 128),
    errIf (128 < g.gm) (bodyErr 0x0114 120),
    errIf (128 < g.gn) (bodyErr 0x0114 112),
    errIf (g.gm != 0 && g.gn != 0 && (s.gridCores c.part g.cores).length < g.gm * g.gn) (bodyErr 0x0114 112)]

/-- Whether position `q` was taken after position `p` (pointers are free-running 32-bit counts, R351). -/
def laterThan (p q : Nat) : Bool := p != q && (q + 2 ^ 32 - p) % 2 ^ 32 < 2 ^ 31

/-- Commands of a ring taken after position `p` and not yet started take a grid (R247). -/
def State.regrid (s : State) (r p : Nat) (g : Grid) : State :=
  { s with cmds := s.cmds.map fun (d : Cmd) =>
      if d.r == r && d.phase == .taken && laterThan p d.p then { d with grid := g } else d }

def effWorkGrid (r p : Nat) (s : State) : State :=
  s.started r p 0x40 fun c =>
    s.orFail c ((s.gridErr c).map fun _ => { code := 0x0807 })
      (let g := c.gridOf
      ((s.setRing r { s.ring r with grid := g }).regrid r p g).cmdDone r p 0)

/-- WORK_GRID: the ring's current grid for every op taken after it (R247, R249). -/
def execWorkGrid (r p : Nat) (s : State) : Out := answer (okRing r) (effWorkGrid r p s)

end Sys2Proof.Machine
end

