-- ==== Sys2Proof/Machine/Grid.lean ====
section
/-! DEFINITION. Work distribution (11_work_distribution.md): an op's grid and home blocks, work counters, claims and steals, and staging
shares. -/

namespace Sys2Proof.Machine

-- ## The grid of an op (R250 to R252)

/-- GM and GN of an op that has T_M × T_N tiles on a grid of `c` cores (R250). -/
def Grid.shape (g : Grid) (c tM tN : Nat) : Nat × Nat :=
  let gm := if g.gm != 0 then g.gm else min tM c
  (gm, if g.gn != 0 then g.gn else max 1 (min tN (c / gm)))

/-- Band `i` of `n` bands over `t` tiles: its first tile and the tile after its last (R251). -/
def band (i n t : Nat) : Nat × Nat := (i * t / n, (i + 1) * t / n)

/-- The home blocks of a grid, by position (R250 to R253). `size` gives each position's number of units. -/
def mkBlocks (cores : List Nat) (n : Nat) (size : Nat → Nat) : List Block :=
  (List.range n).map fun g =>
    { g := g, region := regionOfCore (cores.getD (g % max 1 cores.length) 0), size := size g }

/-- The op of a command over the ring's grid, its blocks not yet counted; none when the grid holds no assigned core (R250). A sequence
of units is laid out as T_M units by one (DEDUCED, log 18). -/
def State.gridOp (s : State) (c : Cmd) (tM tN : Nat) (seq : Bool) : Option Op :=
  let cores := s.gridCores c.part c.grid.cores
  if !cores.any fun k => s.assigned k then none
  else
    let sh := c.grid.shape cores.length tM tN
    let size (g : Nat) : Nat :=
      if seq then (band g (sh.1 * sh.2) tM).2 - (band g (sh.1 * sh.2) tM).1
      else
        let m := band (g % sh.1) sh.1 tM
        let n := band (g / sh.1) sh.2 tN
        (m.2 - m.1) * (n.2 - n.1)
    some { r := c.r, p := c.p, cores := cores, gm := sh.1, gn := sh.2, tM := tM, tN := tN, grid := c.grid, seq := seq
           blocks := mkBlocks cores (sh.1 * sh.2) size }

/-- The op of a pinned command: one block that no counter serves (R151, R247). -/
def pinnedOp (c : Cmd) (core tM tN : Nat) : Op :=
  { r := c.r, p := c.p, cores := [core], tM := tM, tN := tN, pinned := some core
    blocks := [{ g := 0, region := regionOfCore core, size := tM * tN }] }

/-- An op begins to run. -/
def State.beginOp (s : State) (o : Op) : State := { s with ops := s.ops ++ [o] }.cmdPhase o.r o.p .running

/-- The tile or unit that index `j` of block `g` stands for (R133, R251, R252). -/
def Op.unitOf (o : Op) (g j : Nat) : Nat :=
  if o.pinned.isSome then j
  else if o.seq then (band g (o.gm * o.gn) o.tM).1 + j
  else
    let m := band (g % o.gm) o.gm o.tM
    let n := band (g / o.gm) o.gn o.tN
    let hm := max 1 (m.2 - m.1)
    let hn := max 1 (n.2 - n.1)
    if o.grid.order == 0 then (m.1 + j % hm) + o.tM * (n.1 + j / hm)
    else (m.1 + j / hn) + o.tM * (n.1 + j % hn)

def Op.updBlock (o : Op) (g : Nat) (f : Block → Block) : Op :=
  { o with blocks := o.blocks.map fun b => if b.g == g then f b else b }

/-- Every home block has its counter, or needs none any more. -/
def Op.counted (o : Op) : Bool := o.pinned.isSome || o.blocks.all fun b => b.ctr.isSome || b.lost

-- ## Work counters (R253)

def effWorkCounterAlloc (r p g : Nat) (s : State) : State :=
  match s.op r p with
  | none => s
  | some o =>
    match o.blocks.find? fun b => b.g == g with
    | none => s
    | some b =>
      if b.ctr.isSome || b.lost || o.pinned.isSome then s
      else
        match s.pickFree 4096 fun i => s.counters.contains (b.region, i) with
        | none => s
        | some i =>
          ({ s with counters := s.counters ++ [(b.region, i)] }.updOp r p fun o =>
            o.updBlock g fun b => { b with ctr := some i }).useFree 1

/-- WORK_COUNTER_ALLOC: a home block gets a counter of its region, or the op's start waits (R253). -/
def execWorkCounterAlloc (r p g : Nat) (s : State) : Out := answer (okRing r) (effWorkCounterAlloc r p g s)

-- ## Claims and steals (R254 to R258)

/-- The next index of a block with its epoch, and the block after the claim (R254). -/
def Block.take (b : Block) : Option (Nat × Nat) × Block :=
  match b.reissue with
  | x :: xs => (some x, { b with reissue := xs })
  | [] => (if b.next < b.size then some (b.next, b.base) else none, { b with next := b.next + 1 })

/-- A core takes an index of a block: its ticket joins the region's list of the core, and the unit waits on the core (R254, R257,
R258). `idx` is 0x5130 for a claim of its own block and 0x5131 for a steal. -/
def State.grant (s : State) (core : Nat) (o : Op) (b : Block) (je : Nat × Nat) (idx : Nat) : State :=
  let t := mkTicket je.2 b.region (b.ctr.getD 0) je.1
  let id := (s.core core).nextId
  let s := s.addUnit core { id := 0, r := o.r, p := o.p, g := b.g, index := o.unitOf b.g je.1, ticket := some t }
  ({ s with tickets := s.tickets ++ [(core, id, t)] }).coreBump idx core 1

/-- A counter word that fails its check ends its block: the unclaimed units are not computed and the counter is freed (R402); the block keeps
its number only for the tickets that carry it. Its address
in region memory is not stated: a free value. -/
def State.loseBlock (s : State) (o : Op) (b : Block) : State :=
  let s := { s with counters := s.counters.filter fun x => x != (b.region, b.ctr.getD 0) }
  let s := s.updOp o.r o.p fun o => o.updBlock b.g fun b => { b with lost := true, reissue := [], next := max b.next b.size }
  let e := addrErr 0x0701 (Config.freePick s.freeCtr (2 ^ 64) % 2 ^ 64)
  ((s.lostResult 2 b.region e).cmdError o.r o.p e).useFree 1

/-- One claim of a block: the state after it, and whether the core got a unit. -/
def State.claimBlock (s : State) (core : Nat) (o : Op) (g idx : Nat) : State × Bool :=
  match (s.op o.r o.p).bind fun o => o.blocks.find? fun b => b.g == g with
  | none => (s, false)
  | some b =>
    if b.lost then (s, false)
    else if b.bad then (s.loseBlock o b, false)
    else
      let t := b.take
      let s := s.updOp o.r o.p fun o => o.updBlock g fun _ => t.2
      match t.1 with
      | some je => (s.grant core o b je idx, true)
      | none => (s, false)

/-- Claims in the order given until one gives a unit. -/
def State.claimFirst (s : State) (core : Nat) (o : Op) (idx : Nat) : List Nat → State × Bool
  | [] => (s, false)
  | g :: gs =>
    let x := s.claimBlock core o g idx
    if x.2 then x else x.1.claimFirst core o idx gs

/-- The block of a core's own grid position. -/
def Op.homeOf (o : Op) (core : Nat) : Option Nat := (o.blocks.find? fun b => o.cores[b.g]? == some core).map (·.g)

/-- Class of a block for a thief: 0 its region, 1 its die, 2 another die (R255). A block belongs to the region of its counter (R256). -/
def Block.classFor (b : Block) (core : Nat) : Nat :=
  if b.region == regionOfCore core then 0 else if dieOfRegion b.region == dieOfCore core then 1 else 2

/-- Whether a position's core is missing or unassigned, which opens its block to every core of the grid (R256). -/
def State.blockOpen (s : State) (o : Op) (b : Block) : Bool :=
  match o.cores[b.g]? with
  | none => true
  | some k => !s.assigned k

/-- Insertion by a rank: lower class first, then the hotter region when COOL is 1, then the lower position (R255). -/
def insertBlock (before : Block → Block → Bool) (b : Block) : List Block → List Block
  | [] => [b]
  | x :: xs => if before b x then b :: x :: xs else x :: insertBlock before b xs

/-- The blocks a thief tries, in order (R255, R256). -/
def State.stealOrder (s : State) (o : Op) (core : Nat) : List Nat :=
  let mine := o.homeOf core
  let may := o.blocks.filter fun b => some b.g != mine && (s.blockOpen o b || b.classFor core < o.grid.steal)
  let before (a b : Block) : Bool :=
    let ca := a.classFor core
    let cb := b.classFor core
    if ca != cb then ca < cb
    else if o.grid.cool && s.regionTemp a.region != s.regionTemp b.region then s.regionTemp b.region < s.regionTemp a.region
    else a.g < b.g
  (may.foldr (insertBlock before) []).map (·.g)

/-- Whether a core's region is at or above its steal hold temperature (R255). -/
def State.stealHot (s : State) (core : Nat) : Bool :=
  let rr := regionOfCore core
  let lim := decodeVal fp32 (s.odGet 0x3120 (rr + 1))
  let t := s.regionTemp rr
  !(Val.mul (Val.ofInt 1000) lim).isNan && !(Val.ofInt t).lt (Val.mul (Val.ofInt 1000) lim)

/-- Cycles of the hold time at the region's set clock. -/
def State.holdCycles (s : State) (core : Nat) : Nat :=
  s.odGet 0x3121 (regionOfCore core + 1) * s.regionMHz (regionOfCore core) / 10

/-- A claim of any op that a core has not begun; for a pinned op, which takes no claim, a unit of its own (R247, R254). -/
def Core.unbegun (c : Core) (o : Op) : Bool :=
  c.units.any fun u => u.st == .held && !u.isAgain && u.part == 0
    && (if o.pinned.isSome then u.r == o.r && u.p == o.p else u.ticket.isSome)

/-- Whether a core may claim a unit of an op now: it is ON and in the grid, every counter is allocated, it holds fewer than 48 tickets
and no claim that it has not begun (R254, R258), and an array op has its staging share (R264). -/
def State.mayClaim (s : State) (core : Nat) (o : Op) : Bool :=
  let c := s.core core
  o.cores.contains core && s.coreOn core && o.counted
    && (s.tickets.filter fun t => t.1 == core).length < 48
    && !c.unbegun o
    && (o.seq || c.shares.any fun h => h.r == o.r && h.p == o.p)

/-- The running op of a command. -/
def State.runningOp (s : State) (r p : Nat) : Option Op :=
  match s.cmd r p with
  | some c => if c.phase == .running then s.op r p else none
  | none => none

/-- The next tile of a pinned op, which takes no claim (R247). -/
def State.pinnedNext (s : State) (core : Nat) (o : Op) : State :=
  match o.blocks with
  | b :: _ =>
    if b.next < b.size then
      (s.addUnit core { id := 0, r := o.r, p := o.p, index := b.next }).updOp o.r o.p fun o =>
        o.updBlock b.g fun b => { b with next := b.next + 1 }
    else s
  | [] => s

/-- A claim of the core's own block, then a steal; a hot core first waits (R255). -/
def State.claim (s : State) (core : Nat) (o : Op) : State :=
  let own := match o.homeOf core with
    | some g => s.claimBlock core o g 0x5130
    | none => (s, false)
  if own.2 then own.1
  else
    let gs := s.stealOrder o core
    if gs.isEmpty then own.1
    else if o.grid.cool && s.stealHot core then
      ((own.1.setCore core { own.1.core core with stealHold := (own.1.core core).stealHold ++ [(o.r, o.p)] }).coreBump 0x5132 core
        (s.holdCycles core))
    else (own.1.claimFirst core o 0x5131 gs).1

def effTileClaim (core r p : Nat) (s : State) : State :=
  match s.runningOp r p with
  | none => s
  | some o =>
    if !s.mayClaim core o || (s.core core).stealHold.contains (r, p) then s
    else if o.pinned.isSome then s.pinnedNext core o
    else s.claim core o

/-- TILE_CLAIM (R251 to R258). -/
def execTileClaim (core r p : Nat) (s : State) : Out := answer (okCore core && okRing r) (effTileClaim core r p s)

def effStealHoldExpiry (core r p : Nat) (s : State) : State :=
  if !(s.core core).stealHold.contains (r, p) then s
  else
    match s.runningOp r p with
    | none => s
    | some o =>
      if o.pinned.isSome || !o.cores.contains core then s
      else
        let s := s.setCore core { s.core core with stealHold := (s.core core).stealHold.filter (· != (r, p)) }
        if s.mayClaim core o then (s.claimFirst core o 0x5131 (s.stealOrder o core)).1 else s

/-- STEAL_HOLD_EXPIRY: the steal of a hot core proceeds (R255). One wait covers one search of the blocks (DEDUCED, log 19). -/
def execStealHoldExpiry (core r p : Nat) (s : State) : Out :=
  answer (okCore core && okRing r) (effStealHoldExpiry core r p s)

-- ## Staging shares (R263 to R265)

/-- Slots of A and of B that a tile shape has (R148). -/
def shapeSlots (shape : Nat) : Nat × Nat :=
  match shape with
  | 1 => (1, 2)
  | 2 => (2, 1)
  | _ => (1, 1)

/-- need(s, d) in bytes for the formats of A and B (R263). -/
def stagingNeed (fa fb shape s d : Nat) : Nat :=
  let one (f : Nat) : Nat := s * s * elemBits f / 8 + (if isScaled f then s * s / 32 else 0)
  d * ((shapeSlots shape).1 * one fa + (shapeSlots shape).2 * one fb)

/-- The order in which shares are tried (R264). -/
def shareTries : List (Nat × Nat) := [(128, 2), (128, 1), (64, 2), (64, 1), (32, 2), (32, 1), (16, 2), (16, 1)]

/-- Units of 256 bytes of a core's staging area that neither a share nor an open window's further B tiles hold (R111). -/
def Core.stagingFree (c : Core) : Nat :=
  c.split.1 * 256 - c.shares.foldl (fun a h => a + h.units) 0 - (match c.win with | some w => w.extraB | none => 0)

/-- SHAPE of a matrix op's body; a BAROMETER has shape 0 (R121, R163). -/
def Cmd.shape (c : Cmd) : Nat := if c.opcode == 0x10 then c.f 103 102 else 0

/-- Formats of A and B as they lie in staging: a BAROMETER's activations are converted to scaled FP4 (R120). -/
def State.stagedFmts (s : State) (c : Cmd) : Nat × Nat :=
  ((tdDesc s (c.f 19 0)).fmt, if c.opcode == 0x11 then 0x30 else (tdDesc s (c.f 39 20)).fmt)

def effStagingShareAlloc (core r p : Nat) (s : State) : State :=
  match s.cmd r p, s.runningOp r p with
  | some c, some o =>
    let k := s.core core
    if o.seq || !o.cores.contains core || !s.coreOn core || k.shares.any (fun h => h.r == r && h.p == p) then s
    else
      let f := s.stagedFmts c
      match shareTries.find? fun sd => ceilDiv (stagingNeed f.1 f.2 c.shape sd.1 sd.2) 256 ≤ k.stagingFree with
      | none => s
      | some sd =>
        s.setCore core { k with shares := k.shares ++
          [{ r := r, p := p, s := sd.1, d := sd.2, units := ceilDiv (stagingNeed f.1 f.2 c.shape sd.1 sd.2) 256 }] }
  | _, _ => s

/-- STAGING_SHARE_ALLOC: the first share that fits, or the op's start on the core waits (R263, R264). -/
def execStagingShareAlloc (core r p : Nat) (s : State) : Out :=
  answer (okCore core && okRing r) (effStagingShareAlloc core r p s)

/-- A tile begins on a degraded share: the op is flagged, and its first such tile on the core is counted (R265). -/
def State.noteDegraded (s : State) (core : Nat) (r p : Nat) : State :=
  let k := s.core core
  match k.shares.find? fun h => h.r == r && h.p == p, s.op r p with
  | some h, some o =>
    if o.degraded.contains core || (h.s == 128 && h.d == 2) then s
    else ((s.updOp r p fun o => { o with degraded := core :: o.degraded }).coreBump 0x5133 core 1).addFlags r p (2 ^ flagDEGRADED)
  | _, _ => s

-- ## What an op reads of scratchpads (R280)

/-- The range of a tensor's own memory: its key and length. -/
def Desc.span (d : Desc) : Nat × Nat := (memKey d.base - addrOff d.base + d.rangeLo, d.rangeLen)

/-- The ranges of a tensor in the package's memory: of a sharded one, those behind the own-package windows that its package list names. -/
def State.spans (s : State) (d : Desc) : List SbRange :=
  if !d.shx then [⟨d.span.1, d.span.2, false⟩]
  else (List.range d.copies).filterMap fun l =>
    match s.readMem (d.plist + 8 * l) 8 with
    | .error _ => none
    | .ok e =>
      let sl := s.slot (slotIndex (field e 13 12) (field e 30 14))
      if e % 4096 == s.pkg && (sl.st == .opened || sl.st == .pending) then some ⟨memKey sl.base + d.rangeLo, d.rangeLen, false⟩ else none

/-- The ranges of an op's inputs enter the scoreboards as HOLDs; whether none of them stalls the op (R280, R281). A sharded input is held where
its windows lie when the op is issued (DEDUCED, log 20). -/
def State.holdInputs (s : State) (r p : Nat) (ds : List Desc) : State × Bool := s.sbIssue r p (ds.flatMap s.spans)

end Sys2Proof.Machine
end

