-- ==== Sys2Proof/Machine/Issue.lean ====
section
/-! DEFINITION. MATMUL and BAROMETER: their fields, their validation, and the start of their ops (R117, R118, R121, R128 to R130, R141,
R151, R163, R164, R188, R220). -/

namespace Sys2Proof.Machine

-- ## Fields (R117, R121, R128, R130, R163, R188)

def Cmd.isBaro (c : Cmd) : Bool := c.opcode == 0x11
def Cmd.mode (c : Cmd) : Nat := if c.isBaro then 2 else c.f 106 104
def Cmd.begins (c : Cmd) : Bool := c.isBaro || bitOf c.body 100
def Cmd.ends (c : Cmd) : Bool := c.isBaro || bitOf c.body 101
def Cmd.pin (c : Cmd) : Bool := !c.isBaro && bitOf c.body 112
def Cmd.pinCore (c : Cmd) : Nat := c.f 119 113
def Cmd.atidBase (c : Cmd) : Nat := c.f 111 107
def Cmd.path (c : Cmd) : Nat := if c.isBaro then 0 else c.f 355 354
def Cmd.deal (c : Cmd) : Nat := if c.isBaro then 1 else c.f 357 356
def Cmd.thresh (c : Cmd) : Nat := if c.isBaro then 0 else c.f 351 320
def Cmd.winMax (c : Cmd) : Nat := if c.isBaro || c.f 363 358 == 0 then 64 else c.f 363 358
def Cmd.actEn (c : Cmd) : Bool := !c.isBaro && bitOf c.body 404
def Cmd.audK (c : Cmd) : Nat := if c.isBaro then 31 else c.f 409 405
def Cmd.outMode (c : Cmd) : Nat := if c.isBaro then 0 else c.f 545 544
def Cmd.hA (c : Cmd) : Nat := c.f 19 0
def Cmd.hB (c : Cmd) : Nat := c.f 39 20
/-- The destination handle: C of a MATMUL, OUT of a BAROMETER. -/
def Cmd.hC (c : Cmd) : Nat := if c.isBaro then c.f 79 60 else c.f 59 40
def Cmd.hStat (c : Cmd) : Nat := if c.isBaro then 0 else c.f 79 60
def Cmd.hIdx (c : Cmd) : Nat := if c.isBaro then 0 else c.f 99 80
def Cmd.hAct (c : Cmd) : Nat := c.f 403 384
def Cmd.hDeal (c : Cmd) : Nat := c.f 383 364
def Cmd.hKey (c : Cmd) : Nat := c.f 703 684
def Cmd.ctxa (c : Cmd) : Nat := c.f 767 704
def Cmd.rmt (c : Cmd) : Bool := bitOf c.body 671
def Cmd.final (c : Cmd) : Bool := bitOf c.body 670
def Cmd.kpSplit (c : Cmd) : Nat := c.f 669 667

/-- The store fields that a COMPRESS_STORE and a tiled drain share (R87, R163). -/
structure StoreCtl where
  seed : Nat
  cursor : Nat
  thDense : Nat
  thBlock : Nat
  allow : Nat
  round : Nat
  packed : Bool
  prune : Bool
  nm : Nat
  deriving DecidableEq, Repr

/-- SR_SEED, CURSOR and the fields of R90 of a command, at the places of its layout. -/
def Cmd.store (c : Cmd) : StoreCtl :=
  if c.opcode == 0x24 then
    { seed := c.f 255 192, cursor := c.f 191 128, thDense := c.f 127 112, thBlock := c.f 111 104, allow := c.f 103 99
      round := c.f 98 96, packed := bitOf c.body 80, prune := bitOf c.body 79, nm := c.f 75 72 }
  else
    { seed := c.f 255 192, cursor := c.f 543 480, thDense := c.f 271 256, thBlock := c.f 279 272, allow := c.f 284 280
      round := c.f 287 285, packed := bitOf c.body 288, prune := bitOf c.body 289, nm := c.f 295 292 }

-- ## Conditions of a store into a tiled destination (R88, R161)

/-- Body bits of the store fields, by layout: TH_DENSE, TH_BLOCK, ALLOW, PLACE, NM_CODE, CURSOR, and the destination. -/
def storeBits (cs : Bool) : Nat × Nat × Nat × Nat × Nat × Nat × Nat :=
  if cs then (112, 104, 99, 80, 72, 128, 20) else (256, 272, 280, 288, 292, 480, 40)

/-- Units of 16 bytes of a DENSE record (R92). -/
def denseUnits (fmt : Nat) : Nat := 2 + valBytes fmt 0 16384 / 16

/-- Whether the range and the higher strides hold every directory with its slots (R92, R88): in increasing order of stride each stride
is at least the span below it, and the whole lies in the range. -/
def Desc.fixedSpan (d : Desc) : Nat := d.dirSize + d.t0 * d.t1 * 16 * denseUnits d.fmt

def spanFits : Nat → List (Nat × Nat) → Option Nat
  | span, [] => some span
  | span, (st, e) :: ps => if st < span then none else spanFits (span + st * (e - 1)) ps

def Desc.fixedFits (d : Desc) : Bool :=
  let hi := ((d.stride.zip d.localExts).drop 2).filter fun p => 1 < p.2
  let neg := hi.foldl (fun a p => if p.1 < 0 then a + (-p.1).toNat * (p.2 - 1) else a) 0
  let ps := hi.foldl (fun l p => insertStride (p.1.natAbs, p.2) l) []
  let lo := (if d.shx then d.base else addrOff d.base)
  match spanFits d.fixedSpan ps with
  | none => false
  | some span => d.rangeLo + neg ≤ lo && lo - neg + span ≤ d.rangeLo + d.rangeLen

/-- The ranges of the store fields (R88). -/
def StoreCtl.rangeErr (st : StoreCtl) (cs : Bool) : Option Err :=
  let b := storeBits cs
  firstErr [
    errIf (16384 < st.thDense) (bodyErr 0x010A b.1),
    errIf (128 < st.thBlock) (bodyErr 0x010A b.2.1),
    errIf (!bitOf st.allow 0) (bodyErr 0x010A b.2.2.1),
    errIf (6 < st.nm || (st.nm != 0 && !bitOf st.allow 2)) (bodyErr 0x010A b.2.2.2.2.1),
    errIf (!st.packed && st.cursor != 0) (bodyErr 0x010A b.2.2.2.2.2.1)]

/-- R88 for the store fields of a tiled destination, in its order. A CURSOR of zero gets 0x0301, and one in the partition's own memory outside
its regions 0x0303 (DEDUCED, log 149). -/
def State.storeErr (s : State) (part : Nat) (st : StoreCtl) (d : Desc) (cs : Bool) : Option Err :=
  let b := storeBits cs
  firstErr [
    st.rangeErr cs,
    errIf (st.packed && (d.exts.drop 2).any (· != 1)) (bodyErr 0x010A b.2.2.2.1),
    if st.packed then
      firstErr [errIf (st.cursor == 0) (bodyErr 0x0301 b.2.2.2.2.2.1), s.bodyAddr part st.cursor 8 16 b.2.2.2.2.2.1,
        errIf (addrSpace st.cursor != 1) (bodyErr 0x0303 b.2.2.2.2.2.1)]
    else none,
    errIf (!st.packed && !d.fixedFits) (bodyErr 0x0302 b.2.2.2.2.2.2),
    errIf (d.fmt == 0x40 && st.allow != 1) (bodyErr 0x010A b.2.2.1)]

-- ## Handles of a body

/-- The first stale or bad handle of a list of (handle, body bit); an absent optional handle is not listed. -/
def State.handleErr (s : State) (part : Nat) : List (Nat × Nat) → Option Err
  | [] => none
  | (h, bit) :: hs => match s.desc part h bit with
    | .error e => some e
    | .ok _ => s.handleErr part hs

/-- Optional handles: 0 names none. -/
def present (hs : List (Nat × Nat)) : List (Nat × Nat) := hs.filter fun h => h.1 != 0

/-- Not a writable destination: WR = 0, or RED = 1 (R55). -/
def Desc.noStore (d : Desc) : Bool := !d.wr || d.red

-- ## Shapes of a matrix op

def State.mM (s : State) (c : Cmd) : Nat := (tdDesc s c.hA).viewExt 1
def State.mN (s : State) (c : Cmd) : Nat := (tdDesc s c.hB).viewExt 1
def State.mK (s : State) (c : Cmd) : Nat := (tdDesc s c.hA).viewExt 0
/-- Rows and tokens of a tile (R148). -/
def tileM (shape : Nat) : Nat := if shape == 2 then 256 else 128
def tileN (shape : Nat) : Nat := if shape == 1 then 256 else 128
def State.mTM (s : State) (c : Cmd) : Nat := ceilDiv (s.mM c) (tileM c.shape)
def State.mTN (s : State) (c : Cmd) : Nat := ceilDiv (s.mN c) (tileN c.shape)
/-- K steps of an op. -/
def State.mTK (s : State) (c : Cmd) : Nat := ceilDiv (s.mK c) 128

def slotsOf (shape : Nat) : Nat := if shape == 0 then 1 else 2
/-- Accumulator bits per slot of a mode (R140). -/
def slotBits (mode : Nat) : Nat := match mode with | 0 => 32 | 1 => 16 | _ => 64
/-- Bits of a tile's range (R147). -/
def rangeBits (mode shape : Nat) : Nat := slotBits mode * slotsOf shape

/-- An integer pair has both operands unscaled integer (R140). -/
def intPair (fa fb : Nat) : Bool := isInt fa && isInt fb

/-- Modes that a format admits (R141). -/
def admitsMode (f mode : Nat) : Bool :=
  match f with
  | 0x01 | 0x02 | 0x10 | 0x11 | 0x12 => mode ≤ 4
  | 0x21 | 0x22 | 0x30 | 0x31 | 0x32 => mode == 0 || (2 ≤ mode && mode ≤ 4)
  | 0x13 | 0x14 => mode == 0 || mode == 3 || mode == 4
  | _ => false

/-- FP32 field checks: a finite value, and one that is not negative. -/
def fp32Finite (w : Nat) : Bool := match decodeVal fp32 w with | .fin _ _ _ => true | _ => false
def fp32NonNeg (w : Nat) : Bool := match decodeVal fp32 w with | .fin n m _ => !n || m == 0 | _ => false

-- ## The chain of a matrix op and its operands (R199, R220, R221)

/-- The drain chain of an op, as read at issue. -/
def Cmd.hasChain (c : Cmd) : Bool := !c.isBaro && c.f 191 128 != 0

/-- R199, R205 and R206 for the tensors that a chain names, over an iteration space with the extents `it`; `zm` are the extents of a zero
mask. Its errors name the CHAIN field. -/
def State.chainTensors (s : State) (part bit : Nat) (ch : Chain) (it zm : List Nat) : Option Err :=
  let auxs := ch.aux.filter (· != 0)
  let zs := if ch.zmask == 0 then [] else [ch.zmask]
  let ds (hs : List Nat) : List Desc := hs.map fun h => tdDesc s h
  firstErr [
    s.handleErr part ((auxs ++ zs).map fun h => (h, bit)),
    errIf ((ds (auxs ++ zs)).any fun d => d.tiled) (bodyErr 0x0204 bit),
    errIf ((ds auxs).any fun d => d.view != it) (bodyErr 0x010B bit),
    errIf ((ds zs).any fun d => d.view != zm || d.fmt != 0x04) (bodyErr 0x010B bit),
    errIf ((ds zs).any Desc.noStore) (bodyErr 0x0105 bit)]

/-- The chain checks of a MATMUL (R201, R220, R223, R224, R228), with the chain's block read. -/
def State.drainChainErr (s : State) (c : Cmd) : Option Err :=
  let a := c.f 191 128
  match firstErr [s.chainAddr c.part a 128, s.chainLost a] with
  | some e => some e
  | none =>
    let ch := Chain.of (s.chainAt a)
    firstErr [
      errIf (ch.bad false) (bodyErr 0x0110 128),
      errIf (ch.stages.any fun st => !ch.admits st.op) (bodyErr 0x020B 128),
      errIf (ch.badDrain c.outMode (c.outMode == 0)) (bodyErr 0x0110 128),
      s.chainTensors c.part 128 ch [s.mM c, s.mN c] [ceilDiv (s.mM c) 32, s.mN c],
      errIf (!ch.quants.isEmpty && (fmax (tdDesc s c.hC).fmt).isNone) (bodyErr 0x0110 128),
      s.almNotOwned (field c.hC 19 18) c.part ch]

-- ## Validation

/-- The reserved and must-be-zero fields of a MATMUL (R163, R164, R117, R130, R188). -/
def Cmd.mmReserved (c : Cmd) : Option Err :=
  let mode := c.mode
  firstErr [
    errIf ((mode < 3 || 4 < mode) && c.hIdx != 0) (bodyErr 0x0101 80),
    errIf (c.shape == 3) (bodyErr 0x0101 102),
    errIf (4 < mode) (bodyErr 0x0101 104),
    errIf (!c.pin && c.atidBase != 0) (bodyErr 0x0101 107),
    errIf (!c.pin && c.pinCore != 0) (bodyErr 0x0101 113),
    c.reservedErr 0x0101 [(127, 120), (291, 290), (319, 296)],
    c.reservedErr 0x010C [(353, 352)],
    c.reservedErr 0x0101 [(415, 410), (479, 464)],
    errIf (!c.actEn && c.hAct != 0) (bodyErr 0x0101 384),
    errIf (1 < c.outMode) (bodyErr 0x0101 544),
    c.reservedErr 0x0101 [(607, 546)],
    if c.outMode == 0 then c.reservedErr 0x0101 [(767, 608)] else c.reservedErr 0x0101 [(666, 608), (683, 672)],
    errIf (c.outMode == 1 && c.f 59 40 != 0) (bodyErr 0x0101 40)]

/-- The sparsity controls of a MATMUL (R118, R130). -/
def Cmd.mmSparsity (c : Cmd) : Option Err :=
  firstErr [
    errIf (c.path == 3) (bodyErr 0x010C 354),
    errIf (c.deal == 3) (bodyErr 0x010C 356),
    errIf (c.deal != 2 && c.hDeal != 0) (bodyErr 0x010C 364),
    errIf (!(decodeVal fp32 c.thresh).isZero && !fp32Within 0x3F800000 0x40800000 c.thresh) (bodyErr 0x010C 320),
    errIf (21 ≤ c.audK && c.audK ≤ 30) (bodyErr 0x010C 405),
    errIf (!fp32NonNeg (c.f 447 416)) (bodyErr 0x010C 416)]

/-- The handles that a MATMUL names, with their body bits. -/
def Cmd.mmHandles (c : Cmd) : List (Nat × Nat) :=
  [(c.hA, 0), (c.hB, 20)] ++ (if c.outMode == 0 then [(c.hC, 40)] else [])
    ++ present [(c.hStat, 60), (c.hIdx, 80), (c.hAct, 384)]
    ++ (if c.outMode == 1 then present [(c.hKey, 684)] else [])
    ++ (if c.deal == 2 then [(c.hDeal, 364)] else []) ++ (if c.actEn && c.hAct == 0 then [(0, 384)] else [])

/-- Extents of a matrix op's tensors (R115, R130, R162, R163, R188), those of a deal table in view order (DESIGN CHOICE, log 204). A and B are of rank 2 (DEDUCED, log 22). -/
def State.mmShapes (s : State) (c : Cmd) : Option Err :=
  let d (h : Nat) : Desc := tdDesc s h
  let bad (h : Nat) (fmt : Option Nat) (ext : List Nat) : Bool :=
    h != 0 && ((d h).view != ext || (fmt == some 0x04 && (d h).tiled) || (match fmt with | some f => (d h).fmt != f | none => false))
  firstErr [
    errIf ((d c.hA).rank != 2) (bodyErr 0x010B 0),
    errIf ((d c.hB).rank != 2 || (d c.hB).viewExt 0 != s.mK c) (bodyErr 0x010B 20),
    errIf (c.outMode == 0 && bad c.hC none [s.mM c, s.mN c]) (bodyErr 0x010B 40),
    errIf (bad c.hStat (some 0x04) [s.mTM c, s.mTN c]) (bodyErr 0x010B 60),
    errIf (bad c.hIdx (some 0x04) [s.mM c, s.mN c]) (bodyErr 0x010B 80),
    errIf (c.deal == 2 && bad c.hDeal (some 0x02) [128, s.mTM c]) (bodyErr 0x010B 364),
    errIf (bad c.hAct (some 0x04) [ceilDiv (s.mM c) 32, s.mN c]) (bodyErr 0x010B 384),
    errIf (c.outMode == 1 && c.hKey != 0 && (d c.hKey).fmt != 0x03 && (d c.hKey).fmt != 0x04) (bodyErr 0x0205 684),
    errIf (c.outMode == 1 && bad c.hKey none [s.mN c]) (bodyErr 0x010B 684)]

/-- Store and accumulator controls of a MATMUL (R164, R151). -/
def State.mmControls (s : State) (c : Cmd) : Option Err :=
  let d (h : Nat) : Desc := tdDesc s h
  let st := c.store
  let plain (bit : Nat) (v r : Nat) : Option Err := errIf (v != r) (bodyErr 0x010A bit)
  let tiles := s.mTM c * s.mTN c
  firstErr [
    errIf (c.outMode == 0 && (d c.hC).noStore) (bodyErr 0x0105 40),
    errIf (c.hStat != 0 && (d c.hStat).noStore) (bodyErr 0x0105 60),
    errIf (c.hIdx != 0 && (d c.hIdx).noStore) (bodyErr 0x0105 80),
    errIf (4 < st.round) (bodyErr 0x010A 285),
    if c.outMode != 0 then st.rangeErr false
    else if (d c.hC).tiled then s.storeErr c.part st (d c.hC) false
    else firstErr [plain 256 st.thDense 0, plain 272 st.thBlock 0, plain 280 st.allow 1, plain 288 (c.f 288 288) 0,
      plain 289 (c.f 289 289) 0, plain 292 st.nm 0, plain 480 st.cursor 0],
    errIf (!c.pin && !c.begins) (bodyErr 0x010D 100),
    errIf (!c.pin && !c.ends) (bodyErr 0x010D 101),
    errIf (c.pin && !(s.assigned c.pinCore && s.regionPart (c.pinCore / 8) == some c.part)) (bodyErr 0x010D 113),
    errIf (c.pin && (256 / rangeBits c.mode c.shape < tiles || 32 < c.atidBase + tiles)) (bodyErr 0x010D 107)]

/-- The scatter context of keyed partials, when it lies in the package (R180, R189). -/
def State.kpErr (s : State) (c : Cmd) : Option Err :=
  if c.rmt then errIf (bitOf c.ctxa 49) (bodyErr 0x0101 753)
  else firstErr [s.bodyAddr c.part c.ctxa 64 16 704, errIf (addrSpace c.ctxa != 1) (bodyErr 0x0303 704)]

/-- The conditions of R164, R118, R130, R188 and R201 for a MATMUL. -/
def State.matmulErr (s : State) (c : Cmd) : Option Err :=
  match firstErr [c.mmReserved, s.handleErr c.part c.mmHandles] with
  | some e => some e
  | none =>
    let fa := (tdDesc s c.hA).fmt
    let fb := (tdDesc s c.hB).fmt
    firstErr [
      errIf (!admitsMode fa c.mode || isInt fa != isInt fb) (bodyErr 0x0209 0),
      errIf (!admitsMode fb c.mode) (bodyErr 0x0209 20),
      c.mmSparsity, s.mmShapes c, s.mmControls c,
      if c.outMode == 1 then s.kpErr c else none,
      if c.hasChain then s.drainChainErr c else none]

/-- The conditions of R129. -/
def State.baroErr (s : State) (c : Cmd) : Option Err :=
  let tvec := bitOf c.body 103
  let obs := bitOf c.body 102
  let d (h : Nat) : Desc := tdDesc s h
  match firstErr [
    errIf (!obs && c.f 59 40 != 0) (bodyErr 0x0101 40),
    errIf (!tvec && c.f 99 80 != 0) (bodyErr 0x0101 80),
    c.reservedErr 0x0101 [(101, 100), (127, 106), (767, 192)],
    s.handleErr c.part ([(c.hA, 0), (c.hB, 20)] ++ (if obs then [(c.f 59 40, 40)] else []) ++ [(c.hC, 60)]
      ++ (if tvec then [(c.f 99 80, 80)] else []))] with
  | some e => some e
  | none =>
    let words := [ceilDiv (s.mM c) 32, s.mN c]
    let badWords (h : Nat) : Bool := (d h).fmt != 0x04 || (d h).tiled || (d h).view != words
    firstErr [
      errIf ((d c.hA).fmt != 0x10 && (d c.hA).fmt != 0x30) (bodyErr 0x0208 0),
      errIf (1 < c.f 105 104) (bodyErr 0x010C 104),
      errIf (!tvec && !fp32Finite (c.f 159 128)) (bodyErr 0x010C 128),
      errIf (!fp32NonNeg (c.f 191 160)) (bodyErr 0x010C 160),
      errIf ((d c.hA).rank != 2) (bodyErr 0x010B 0),
      errIf ((d c.hB).rank != 2 || (d c.hB).viewExt 0 != s.mK c) (bodyErr 0x010B 20),
      errIf (obs && badWords (c.f 59 40)) (bodyErr 0x010B 40),
      errIf (badWords c.hC) (bodyErr 0x010B 60),
      errIf (tvec && ((d (c.f 99 80)).fmt != 0x15 || (d (c.f 99 80)).view != [s.mM c])) (bodyErr 0x010B 80),
      errIf ((d c.hC).noStore) (bodyErr 0x0105 60)]

-- ## The start of an op

/-- Inputs of a matrix op: the tensors that its tiles read. -/
def State.mmInputs (s : State) (c : Cmd) (ch : Chain) : List Desc :=
  let hs := if c.isBaro then [c.hA, c.hB, c.f 59 40, c.f 99 80]
    else [c.hA, c.hB, c.hDeal, c.hAct, if c.outMode == 1 then c.hKey else 0] ++ ch.aux
  (hs.filter (· != 0)).map fun h => tdDesc s h

/-- A matrix op begins on its grid, or pinned to its core (R247, R250); a pinned core that is no longer assigned, or is OFF, ends it (R11, R389). -/
def State.beginMatrix (s : State) (c : Cmd) (block : Nat) (snaps : List Snap) : State :=
  if c.pin then
    if s.assigned c.pinCore && !s.coreOff c.pinCore then
      s.beginOp { pinnedOp c c.pinCore (s.mTM c) (s.mTN c) with chain := block, snaps := snaps }
    else s.cmdFail c.r c.p { code := 0x0807 }
  else match s.gridOp c (s.mTM c) (s.mTN c) false with
    | some o => s.beginOp { o with chain := block, snaps := snaps }
    | none => s.cmdFail c.r c.p { code := 0x0807 }

/-- An op that uses a chain is issued: held while an entry it names is being seeded or loaded, ended where a scale is lost, and begun with
its snapshots otherwise (R227, R235, R236, R240). -/
def State.issueChain (s : State) (c : Cmd) (die : Nat) (ch : Chain) (go : State → List Snap → State) : State :=
  let s := s.touchChain die ch
  if s.almHeld die ch then s
  else match s.almLost die ch with
    | some e => s.cmdFail c.r c.p e
    | none => go s (s.almSnaps die ch)

/-- An op begins once no input range stalls it (R280). -/
def State.whenHeld (s : State) (c : Cmd) (ds : List Desc) (go : State → State) : State :=
  let h := s.holdInputs c.r c.p ds
  if h.2 then go h.1 else h.1

def State.startMatmul (s : State) (c : Cmd) : State :=
  if c.hasChain && s.chainWaits c then s else
  s.orFail c (if c.hasChain then s.chainLost (c.f 191 128) else none) <|
  let block := if c.hasChain then s.chainAt (c.f 191 128) else 0
  let ch := if c.hasChain then Chain.of block else Chain.none_ 0
  s.whenHeld c (s.mmInputs c ch) fun s =>
    s.issueChain c (field c.hC 19 18) ch fun s snaps => s.beginMatrix c block snaps

def effMatmul (r p : Nat) (s : State) : State := s.started r p 0x10 fun c => s.startMatmul c

/-- MATMUL: the op is issued over its tiles (R163, R246). Its body was validated when the command started. -/
def execMatmul (r p : Nat) (s : State) : Out := answer (okRing r) (effMatmul r p s)

def effBarometer (r p : Nat) (s : State) : State :=
  s.started r p 0x11 fun c => s.whenHeld c (s.mmInputs c (Chain.none_ 0)) fun s => s.beginMatrix c 0 []

/-- BAROMETER: issued as a MATMUL with the fields of R121 (R120). -/
def execBarometer (r p : Nat) (s : State) : Out := answer (okRing r) (effBarometer r p s)

end Sys2Proof.Machine
end

