-- ==== Sys2Proof/Machine/Array.lean ====
section
/-! DEFINITION. The gathering engine and the matrix array: operand tiles and routes (05), accumulators, check cells and the accumulator
file (07), active sets (06), and the lowering of a rescale replay (R230). -/

namespace Sys2Proof.Machine

-- ## Operand tiles (R96 to R98)

/-- The rows of an operand tile that may contribute: for each, its present K columns in rising order with their elements. -/
abbrev OpTile := List (Nat × List (Nat × Elem))

/-- A tile from the elements inside the extents (`inR` rows, `inC` columns): a position outside is absent when PAD_MODE is 0 and holds the
pad otherwise (R97). -/
def padTile (d : Desc) (inR inC : Nat) (get : Nat → Nat → Option Elem) : OpTile :=
  let all := d.padMode != 0
  (List.range (if all then 128 else min 128 inR)).map fun r =>
    (r, (List.range (if all then 128 else min 128 inC)).filterMap fun c =>
      if r < inR && c < inC then (get r c).map fun e => (c, e) else some (c, d.pad))

/-- Present nonzero elements of a record outside the extents, each a metadata fault (R85). An element whose bits are zero is none, whatever
its block's scale: the core DMA stores such a position as zero (DEDUCED, log 150). -/
def Tile.outside (t : Tile) (fmt inR inC : Nat) : Nat :=
  if 128 ≤ inR && 128 ≤ inC then 0
  else
    let nz (e : Elem) : Bool := if fmt == 0x40 then e.code != 0 else !(decodeVal (fmtD fmt) e.code).isZero
    match t.dense with
    | some v => ((List.range 16384).filter fun p => !(p / 128 < inR && p % 128 < inC) && nz (denseElem fmt v p)).length
    | none => (t.present.filter fun pe => !(pe.1 / 128 < inR && pe.1 % 128 < inC) && nz pe.2).length

/-- The tile (kt, rt) of an operand, whose view is (K, rows): what may contribute, its header, and its metadata faults. Of a slot that lies wholly
past an extent no record is read (R261), and one with no record counts as DENSE for the route (R100; DESIGN CHOICE, log 203). -/
def State.opTile (s : State) (w : Who) (d : Desc) (opnd kt rt : Nat) : Rd (OpTile × Tile × Nat) :=
  let inR := d.viewExt 1 - 128 * rt
  let inC := d.viewExt 0 - 128 * kt
  if inR == 0 || inC == 0 then .ok (padTile d inR inC fun _ _ => none, { tfmt := 0 }, 0)
  else if d.tiled then
    Rd.bind (s.tileAt d [128 * kt, 128 * rt]) fun t =>
    Rd.bind (s.readRecord w d t.1 t.2.1 t.2.2.1 opnd t.2.2.2.1) fun tl =>
      let get (r c : Nat) : Option Elem :=
        match tl.dense with
        | some v => some (denseElem d.fmt v (128 * r + c))
        | none => AMap.find tl.present (128 * r + c)
      .ok (padTile d inR inC get, tl, tl.dropped + tl.outside d.fmt inR inC)
  else
    Rd.bind (Rd.all (fun r => Rd.all (fun c => s.readStored w d opnd (d.stored [128 * kt + c, 128 * rt + r]))
      (List.range (min 128 inC))) (List.range (min 128 inR))) fun rows =>
      .ok (padTile d inR inC (fun r c => (rows.getD r [])[c]?), { tfmt := 0 }, 0)

/-- The indices inside the extent of a stored dimension, counted from the first index of the tile that holds index `i` of it. The tiles of a
shard are cut where the tensor's are (R56, R85). -/
def Desc.tileExt (d : Desc) (dim i : Nat) : Nat := d.exts.getD dim 1 - 128 * (i / 128)

/-- The metadata faults of the tile records that hold elements of a tensor at the view indices given, each record counted once for each unit
that reads it (R84, R85; DEDUCED, log 200). -/
def State.sweepDrops (s : State) (w : Who) (d : Desc) (opnd : Nat) (idxs : List (List Nat)) : Rd Nat :=
  if !d.tiled then .ok 0
  else
    Rd.bind (Rd.all (fun idx => Rd.bind (s.tileAt d (d.stored idx)) fun t =>
      .ok (t.1, t.2.1, t.2.2.1, t.2.2.2.1, d.tileExt 1 ((d.stored idx).getD 1 0), d.tileExt 0 ((d.stored idx).getD 0 0))) idxs) fun ts =>
    Rd.bind (Rd.all (fun t => Rd.bind (s.readRecord w d t.1 t.2.1 t.2.2.1 opnd t.2.2.2.1) fun tl =>
      .ok (tl.dropped + tl.outside d.fmt t.2.2.2.2.1 t.2.2.2.2.2)) ts.eraseDups) fun ns =>
    .ok (ns.foldl (· + ·) 0)

/-- The value of an element without its block scale (R144). -/
def Elem.raw (fmt : Nat) (e : Elem) : Val :=
  if isScaled fmt && e.scale == 0xFF then qnan else decodeVal (fmtD fmt) e.code

/-- Activations of a BAROMETER as they enter staging: blocks of 32 converted to scaled FP4, ties to even (R120, R33). -/
def quantRow (fmt : Nat) (row : List (Nat × Elem)) : List (Nat × Elem) :=
  (List.range 4).flatMap fun j =>
    let blk := row.filter fun ce => ce.1 / 32 == j
    let sc := blockScale 0x30 (blk.map fun ce => ce.2.val fmt)
    blk.map fun ce => (ce.1, { code := (blockElem 0x30 sc 0 0 (ce.2.val fmt)).1, scale := sc })

/-- Whether an activation saturates on its way into staging (R33, R40). -/
def quantSat (fmt : Nat) (row : List (Nat × Elem)) : Bool :=
  (List.range 4).any fun j =>
    let blk := row.filter fun ce => ce.1 / 32 == j
    let sc := blockScale 0x30 (blk.map fun ce => ce.2.val fmt)
    blk.any fun ce => (blockElem 0x30 sc 0 0 (ce.2.val fmt)).2

/-- B lowered by `j` binades as it enters staging (R230). -/
def lowerElem (fmt j : Nat) (e : Elem) : Elem :=
  if j == 0 then e
  else if isScaled fmt then
    if e.scale == 0xFF then e
    else if j ≤ e.scale then { e with scale := e.scale - j }
    else { code := (encode (fmtD fmt) 0 0 ((decodeVal (fmtD fmt) e.code).scale ((e.scale : Int) - j))).1, scale := 0 }
  else { e with code := (encode (fmtD fmt) 0 0 ((decodeVal (fmtD fmt) e.code).scale (-(j : Int)))).1 }

def mapTile (f : List (Nat × Elem) → List (Nat × Elem)) (t : OpTile) : OpTile := t.map fun rc => (rc.1, f rc.2)

-- ## Active sets (R124, R131)

/-- The word of an active set for neurons 32 w to 32 w + 31 of a token. -/
def State.actWord (s : State) (w : Who) (d : Desc) (word t : Nat) : Rd Nat :=
  Rd.bind (s.readElem w d 2 [word, t]) fun e => .ok e.code

/-- The rows of a tile whose neuron some in-bounds token of the tile marks (R131). -/
def State.activeRows (s : State) (w : Who) (d : Desc) (m0 mt n0 nt : Nat) : Rd (List Nat) :=
  let toks := (List.range nt).filter fun t => n0 + t < d.viewExt 1
  let words := (List.range (mt / 32)).filter fun v => m0 / 32 + v < d.viewExt 0
  Rd.bind (Rd.all (fun v => Rd.all (fun t => s.actWord w d (m0 / 32 + v) (n0 + t)) toks) words) fun ws =>
    .ok ((List.range mt).filter fun i => (ws.getD (i / 32) []).any fun x => bitOf x (i % 32))

/-- Whether a tile is audited (R133). -/
def Cmd.audited (c : Cmd) (i : Nat) : Bool := c.audK ≤ 20 && (i + c.f 463 448) % 2 ^ c.audK == 0

-- ## Row dealing (R113 to R115)

def insertRow (p : Nat × Nat) : List (Nat × Nat) → List (Nat × Nat)
  | [] => [p]
  | q :: qs => if q.2 < p.2 || (q.2 == p.2 && p.1 < q.1) then p :: q :: qs else q :: insertRow p qs

/-- The snake deal of rows by the counts of their masks, largest first (R113): the A row of each array row. -/
def snakeDeal (counts : List (Nat × Nat)) : List Nat :=
  let sorted := (counts.foldl (fun l p => insertRow p l) []).map (·.1)
  (List.range 128).map fun a =>
    let k := a % 8
    let g := a / 8
    sorted.getD (16 * k + (if k % 2 == 0 then g else 15 - g)) 0

def isPermutation (l : List Nat) : Bool := l.length == 128 && (List.range 128).all fun i => l.contains i

def identityDeal : List Nat := List.range 128

-- ## Predicted speedups (R100, R104)

/-- r × 4: K positions per cell per cycle (R104). -/
def rate4 (fa fb mode : Nat) : Nat :=
  let base := match max (elemBits fa) (elemBits fb) with | 4 => 16 | 8 => 4 | _ => 1
  if (mode == 1 || mode == 2) && base != 1 then 2 * base else base

/-- u_A in units of 2⁻⁶⁴ (R100). -/
def uA (t : Tile) : Nat :=
  match t.tfmt with
  | 1 =>
    let blocks := (t.present.map fun pe => pe.1 / 1024 * 8 + pe.1 % 128 / 16).eraseDups
    let most := (List.range 16).foldl (fun m g => max m (blocks.filter fun b => b / 8 == g).length) 0
    16 * most * 2 ^ 57
  | 2 => match nmOf t.nmcode with
    | some (n, m) => 2 ^ 64 - ((m - n) * (16 / m)) ^ 8 * 2 ^ 32
    | none => 2 ^ 64
  | 3 => min (t.colsNz * 2 ^ 57) (2 ^ 64 - (256 - t.nnz / 64) ^ 8)
  | _ => 2 ^ 64

/-- u_A × u_B in units of 2⁻⁷¹. -/
def uProduct (a b : Tile) : Nat := uA a * (if b.tfmt == 0 then 128 else b.colsNz)

/-- s_strip as a fraction. -/
def stripSpeed (a b : Tile) : Nat × Nat :=
  let p := uProduct a b
  if 4 * p ≤ 2 ^ 71 then (4, 1) else (2 ^ 71, p)

/-- s_mux as a fraction, 0 when A is not NM. -/
def muxSpeed (a : Tile) : Nat × Nat :=
  if a.tfmt == 2 then match nmOf a.nmcode with | some (n, m) => (m, n) | none => (0, 1) else (0, 1)

inductive Route where
  | skip | dense | strip | mux
  deriving DecidableEq, Repr

/-- The route of a K step under the threshold `t`, an FP32 code (R101). Degraded tiling runs the dense route only (R265). -/
def chooseRoute (path t : Nat) (a b : Tile) (denseOnly : Bool) : Route :=
  if a.tfmt == 4 || b.tfmt == 4 then .skip
  else
    let st := stripSpeed a b
    let mx := muxSpeed a
    let best : Route := if st.1 * mx.2 ≤ mx.1 * st.2 then .mux else .strip
    let sp := if st.1 * mx.2 ≤ mx.1 * st.2 then mx else st
    let clears : Bool := match decodeVal fp32 t with
      | .fin n m e => n || !(Val.ofInt sp.1).lt (.fin false (m * sp.2) e)
      | _ => false
    if denseOnly || path == 1 then .dense
    else if path == 2 && sp.2 < sp.1 then best
    else if path == 0 && clears then best
    else .dense

-- ## Windows of the match table (R103, R110 to R112)

/-- Cycles of a strip's stream: ceil(length / r). -/
def streamCycles (r4 len : Nat) : Nat := ceilDiv (4 * len) r4

/-- T after a run of strip-route K steps (R103). -/
def tunedT (t p q : Nat) : Nat :=
  if 17 * p < 16 * 2 ^ 71 * q then
    (if fp32Le 0x40000000 t then t else let u := fp32Add t 0x3D000000; if fp32Le u 0x40000000 then u else 0x40000000)
  else if 16 * 2 ^ 71 * q < 15 * p then
    (if fp32Le t 0x3F800000 then t
     else let u := fp32Add t 0xBD000000; if fp32Le 0x3F800000 u then u else 0x3F800000)
  else t

/-- The open window closes (R111, R112): its figures are counted, and a run of 4,096 strip steps tunes the threshold (R103). The whole
cycles of P are counted; what is left over joins the next window (DEDUCED, log 23). A strip is idle from its last position to the end of the
window's body, the wait up to the floor included and the 2 cycles of synchronisation left out (DEDUCED, log 151). Runs are summed and end with
TUNE = 0 as well, and then tune nothing (DESIGN CHOICE, log 152). -/
def State.closeWindow (s : State) (core : Nat) : State :=
  let c := s.core core
  match c.win with
  | none => s
  | some w =>
    let times := w.lens.map (streamCycles w.r4)
    let body := max (times.foldl max 0) (ceilDiv (128 * w.steps) w.r4)
    let idle := times.foldl (fun a t => a + (body - t)) 0
    let p := c.fracP + w.pred
    let steps := c.tuneSteps + w.steps
    let tp := c.tuneP + w.pred
    let tq := c.tuneQ + body + 2
    let s := ((s.coreBump 0x510C core (p / 2 ^ 71)).coreBump 0x510D core (body + 2)).coreBump 0x510E core idle
    if steps < 4096 then
      s.setCore core { c with win := none, fracP := p % 2 ^ 71, tuneSteps := steps, tuneP := tp, tuneQ := tq }
    else
      let s := if s.odGet 0x3111 (core + 1) % 2 == 1 then
        (s.odSet 0x3110 (core + 1) (tunedT (s.odGet 0x3110 (core + 1)) tp tq)).retain 0x3110 (core + 1) else s
      s.setCore core { c with win := none, fracP := p % 2 ^ 71, tuneSteps := 0, tuneP := 0, tuneQ := 0 }

/-- The window of a tile closes with the tile's K (R111); another tile's stays open. -/
def State.closeWindowOf (s : State) (core unit : Nat) : State :=
  match (s.core core).win with
  | some w => if w.unit == unit then s.closeWindow core else s
  | none => s

/-- The set of a K index (R110). -/
def matchSet (k : Nat) : Nat := (k % 128 + 37 * (k / 128 % 64)) % 128

def Win.ways (w : Win) (k : Nat) : List MatchEntry := AMap.getD w.table (matchSet k) []

/-- A K position is installed with the strips that hold it (R112). -/
def Win.install (w : Win) (k strips : Nat) : Win :=
  { w with table := AMap.set w.table (matchSet k) (w.ways k ++ [{ k := BitVec.ofNat 13 k, strips := BitVec.ofNat 16 strips }]) }

/-- The strips of the entry that a K index hits; none without a hit (R112). -/
def Win.probe (w : Win) (k : Nat) : Nat :=
  match (w.ways k).find? fun e => e.valid && e.k.toNat == k with
  | some e => e.strips.toNat
  | none => 0

/-- The K columns that each strip's rows hold (R112). -/
def stripUnion (perm : List Nat) (a : OpTile) (g : Nat) : List Nat :=
  let rows := (List.range 8).map fun j => perm.getD (8 * g + j) 0
  ((a.filter fun rc => rows.contains rc.1).flatMap fun rc => rc.2.map (·.1)).eraseDups

/-- A strip-route K step joins the open window or opens one (R111, R112). `units` is one B tile's space in units of 256 bytes. A window that a
full set and another cause close at one step counts as closed by the full set (DESIGN CHOICE, log 153). -/
def State.stripStep (s : State) (core unit winMax r4 pred units : Nat) (perm : List Nat) (a b : OpTile) (newB : Bool) : State :=
  let us := (List.range 16).map (stripUnion perm a)
  let cols := (List.range 128).filter fun c => us.any fun u => u.contains c
  let full (w : Win) : Bool := cols.any fun c => 16 ≤ (w.ways (w.kbase + c)).length
  let room : Bool := !newB || units ≤ (s.core core).stagingFree
  let s := match (s.core core).win with
    | none => s
    | some w =>
      if w.unit != unit then s.closeWindow core
      else if full w then (s.closeWindow core).coreBump 0x510F core 1
      else if winMax ≤ w.steps || !room then s.closeWindow core
      else s
  let c := s.core core
  let w : Win := c.win.getD { unit := unit, r4 := r4, lens := List.replicate 16 0 }
  let bCols := (b.flatMap fun rc => rc.2.map (·.1)).eraseDups
  let strips (k : Nat) : Nat := us.zipIdx.foldl (fun m ug => if ug.1.contains k then m + 2 ^ ug.2 else m) 0
  let w := cols.foldl (fun w k => w.install (w.kbase + k) (strips k)) w
  let hits := bCols.map fun k => w.probe (w.kbase + k)
  let w := { w with
    lens := w.lens.zipIdx.map fun lg => lg.1 + (hits.filter fun m => bitOf m lg.2).length
    steps := w.steps + 1
    kbase := w.kbase + 128
    extraB := if newB && w.steps != 0 then w.extraB + units else w.extraB
    pred := w.pred + pred }
  s.setCore core { c with win := some w }

/-- A K step on its route: counted, and the window kept (R99, R101, R111). -/
def State.routeStep (s : State) (core unit : Nat) (c : Cmd) (rt : Route) (fa fb : Nat) (ta tb : Tile) (perm : List Nat)
    (a b : OpTile) (newB : Bool) : State :=
  let r4 := rate4 fa fb c.mode
  match rt with
  | .skip => s.coreBump 0x510B core 1
  | .dense => (s.closeWindow core).coreBump 0x5108 core 1
  | .mux => (s.closeWindow core).coreBump 0x510A core 1
  | .strip =>
    (s.stripStep core unit c.winMax r4 (512 / r4 * max (2 ^ 69) (uProduct ta tb))
      (ceilDiv (16384 * elemBits fb / 8 + (if isScaled fb then 512 else 0)) 256) perm a b newB).coreBump 0x5109 core 1

-- ## Accumulators (R139 to R146)

/-- The number format of totals and values of a mode (R140). -/
def accFmt (mode : Nat) (int : Bool) : Fmt :=
  if mode == 1 then (if int then .int 16 else fp16) else if int then .int 32 else fp32

/-- A sum or product entering an accumulator: nearest even, saturating, an infinity from an infinite input kept (R142, R143, R146). -/
def roundAcc (f : Fmt) (v : Val) : Nat × Bool :=
  match v with
  | .fin _ _ _ => encodeWith true f 0 0 v
  | _ => encode f 0 0 v

/-- A finite sum or product `v` enters an accumulator that holds the code `acc`: a term beyond the largest value saturates a finite
accumulator in its own sign, whatever it held (R142, R146; DEDUCED, log 198). -/
def accumulate (f : Fmt) (acc : Nat) (v : Val) : Nat × Bool :=
  let cur := decodeVal f acc
  if v.beyond f && cur.isFin then roundAcc f v else roundAcc f (Val.add 0 cur v)

/-- An operand pair at one K position: values with and without their block scales, and the scale product's exponent. -/
structure Product where
  k : Nat
  full : Val
  raw : Val
  scale : Int

def mkProduct (fa fb k : Nat) (a b : Elem) : Product where
  k := k
  full := Val.mul (a.val fa) (b.val fb)
  raw := Val.mul (a.raw fa) (b.raw fb)
  scale := (a.scale : Int) + b.scale - 254

/-- A product enters a chunk register (R144): the register, and whether it saturated. The register's scale is that of the block's first
product; a product of another scale, which only a pad has (R60), enters by its value. -/
def Chunk.add (c : Chunk) (int : Bool) (p : Product) : Chunk × Bool :=
  let f : Fmt := if int then .int 16 else e6m9
  let c := if c.entered then c else { c with entered := true, scale := p.scale }
  match p.raw with
  | .inf n => (if n then { c with infN := true } else { c with infP := true }, false)
  | v =>
    let r := accumulate f c.bits (v.scale (p.scale - c.scale))
    ({ c with bits := r.1 }, r.2)

/-- What a chunk promotes (R144). -/
def Chunk.value (c : Chunk) (int : Bool) : Val :=
  let v := decodeVal (if int then .int 16 else e6m9) c.bits
  if v.isNan then v
  else if c.infP && c.infN then qnan
  else if c.infP then .inf false
  else if c.infN then .inf true
  else v.scale c.scale

/-- A chunk register is promoted into the total and cleared (R144). -/
def Acc.promote (a : Acc) (int odd : Bool) : Acc :=
  let c := if odd then a.c1 else a.c0
  let f := accFmt 2 int
  let r := accumulate f a.tot (c.value int)
  let a := { a with tot := r.1, sat := a.sat || r.2 }
  if odd then { a with c1 := {} } else { a with c0 := {} }

/-- The value of an accumulator; an extremum without a product holds the identity of its mode (R145). -/
def Acc.value (a : Acc) (mode : Nat) (int : Bool) : Val :=
  if 3 ≤ mode && a.idx == 0xFFFFFFFF then
    (if int then Val.ofInt (if mode == 3 then -(2 ^ 31) else 2 ^ 31 - 1) else .inf (mode == 3))
  else decodeVal (accFmt mode int) a.tot

/-- One product enters an accumulator (R142 to R146). Of two equal products of an extremum the lower K position wins, a continued tile's
included (R43). -/
def Acc.add (a : Acc) (mode : Nat) (int : Bool) (p : Product) : Acc :=
  match mode with
  | 2 =>
    let odd := p.k / 32 % 2 == 1
    let r := (if odd then a.c1 else a.c0).add int p
    if odd then { a with c1 := r.1, sat := a.sat || r.2 } else { a with c0 := r.1, sat := a.sat || r.2 }
  | 3 | 4 =>
    let r := roundAcc (accFmt mode int) p.full
    let v := decodeVal (accFmt mode int) r.1
    let cur := a.value mode int
    let better := if mode == 3 then cur.rankLt v else v.rankLt cur
    let worse := if mode == 3 then v.rankLt cur else cur.rankLt v
    let take := a.idx == 0xFFFFFFFF || (!cur.isNan && (v.isNan || better || (!worse && p.k < a.idx)))
    if take then { a with tot := r.1, idx := p.k, sat := a.sat || r.2 } else { a with sat := a.sat || r.2 }
  | m =>
    let r := accumulate (accFmt m int) a.tot p.full
    { a with tot := r.1, sat := a.sat || r.2 }

/-- Products of a cell over one K step, in K order. In chunked mode the step has four blocks; each begins as the register of the block before
it is promoted (R144). -/
def Acc.run (mode : Nat) (int : Bool) (ps : List Product) (a : Acc) : Acc :=
  if mode == 2 then
    (List.range 4).foldl (fun a j =>
      (ps.filter fun p => p.k / 32 % 4 == j).foldl (fun a p => a.add mode int p) (a.promote int (j % 2 == 0))) a
  else ps.foldl (fun a p => a.add mode int p) a

/-- The key of a cell. -/
def cellKey (slot row col : Nat) : Nat := slot * 16384 + row * 128 + col

/-- The products of two rows, in K order. -/
def rowProducts (fa fb k0 : Nat) (ra rb : List (Nat × Elem)) : List Product :=
  ra.filterMap fun ce => (AMap.find rb ce.1).map fun e => mkProduct fa fb (k0 + ce.1) ce.2 e

/-- A K step in the computing cells of a slot (R137 to R139). -/
def accStep (mode fa fb k0 slot : Nat) (perm : List Nat) (a b : OpTile) (acc : AMap Acc) : AMap Acc :=
  let int := intPair fa fb
  perm.zipIdx.foldl (fun acc mp =>
    match AMap.find a mp.1 with
    | none => acc
    | some ra => b.foldl (fun acc qb =>
      let key := cellKey slot mp.2 qb.1
      match rowProducts fa fb k0 ra qb.2, AMap.find acc key with
      | [], none => acc
      | ps, a => AMap.set acc key (Acc.run mode int ps (a.getD {}))) acc) acc

-- ## Check cells (R154, R156)

/-- Present values at a K position over a list of rows. -/
def columnVals (fmt c : Nat) (rows : List (List (Nat × Elem))) : List Val :=
  rows.filterMap fun r => (AMap.find r c).map fun e => e.val fmt

/-- FP32 sums of values and of magnitudes, nearest even, in order (DEDUCED, log 24: the order of an inner sum is not stated). A scaled element
enters at its exact value (R142). -/
def innerSum (vs : List Val) : Nat := vs.foldl (fun a v => (encode fp32 0 0 (Val.add 0 (decodeVal fp32 a) v)).1) 0
def innerAbs (vs : List Val) : Nat := innerSum (vs.map Val.abs)

/-- Sums S and G of a check cell take one K position, an element or an inner sum on each side with its magnitude, in wide FP32, which saturates
(R142, R146, R154). -/
def Check.mac (ck : Check) (a aAbs b bAbs : Val) : Check :=
  let s := roundAcc fp32 (Val.add 0 (decodeVal fp32 ck.s) (Val.mul a b))
  let g := roundAcc fp32 (Val.add 0 (decodeVal fp32 ck.g) (Val.mul aAbs bAbs))
  { s := s.1, g := g.1, passed := ck.passed || s.2 || g.2 }

/-- The value of a check cell of an extremum: the operand's largest or smallest partner (R156). Each column's own value multiplies its strip's
extremum, where the rule writes bmax (DEDUCED, log 199). -/
def extPartner (isMax : Bool) (x : Val) (vs : List Val) : Option Val :=
  let wantMax := (x.isNan || !x.lt .zero) == isMax
  match vs with
  | [] => none
  | v :: vs => some (vs.foldl (fun a w => if wantMax then Val.max a w else Val.min a w) v)

/-- A check cell of an extremum takes one K position; `g` of 1 marks a cell that holds a value. -/
def Check.ext (ck : Check) (isMax : Bool) (v : Val) : Check :=
  let r := decodeVal fp32 (roundAcc fp32 v).1
  if ck.g == 0 then { s := fp32Code r, g := 1 }
  else { ck with s := fp32Code (if isMax then Val.max (decodeVal fp32 ck.s) r else Val.min (decodeVal fp32 ck.s) r) }

/-- The K positions of a step, and an update of a map of check cells over them. -/
def overK (f : Nat → AMap Check → AMap Check) (m : AMap Check) : AMap Check := (List.range 128).foldl (fun m c => f c m) m

/-- The rows of a strip, by array row. -/
def stripRows (perm : List Nat) (a : OpTile) (g : Nat) : List (List (Nat × Elem)) :=
  (List.range 8).filterMap fun j => AMap.find a (perm.getD (8 * g + j) 0)

/-- The check row cells of a strip over a step (R154, R156), keyed slot, strip, column. -/
def chkRowStep (mode fa fb slot g : Nat) (rows : List (List (Nat × Elem))) (b : OpTile) (m : AMap Check) : AMap Check :=
  overK (fun c m =>
    match columnVals fa c rows with
    | [] => m
    | vs =>
      let sa := decodeVal fp32 (innerSum vs)
      let ga := decodeVal fp32 (innerAbs vs)
      b.foldl (fun m qb =>
        match AMap.find qb.2 c with
        | none => m
        | some e =>
          let k := cellKey slot g qb.1
          let v := e.val fb
          let ck := AMap.getD m k {}
          if 3 ≤ mode then
            match extPartner (mode == 3) v vs with
            | some x => AMap.set m k (ck.ext (mode == 3) (Val.mul x v))
            | none => m
          else AMap.set m k (ck.mac sa ga v v.abs)) m) m

/-- The check column cells of a slot over a step, keyed slot, array row. -/
def chkColStep (mode fa fb slot : Nat) (perm : List Nat) (a b : OpTile) (m : AMap Check) : AMap Check :=
  overK (fun c m =>
    match columnVals fb c (b.map (·.2)) with
    | [] => m
    | vs =>
      let sb := decodeVal fp32 (innerSum vs)
      let gb := decodeVal fp32 (innerAbs vs)
      perm.zipIdx.foldl (fun m mp =>
        match (AMap.find a mp.1).bind fun r => AMap.find r c with
        | none => m
        | some e =>
          let k := cellKey slot 0 mp.2
          let v := e.val fa
          let ck := AMap.getD m k {}
          if 3 ≤ mode then
            match extPartner (mode == 3) v vs with
            | some x => AMap.set m k (ck.ext (mode == 3) (Val.mul v x))
            | none => m
          else AMap.set m k (ck.mac v v.abs sb gb)) m) m

/-- The extremum of the products of two lists of values: the largest or smallest value of the second with its best partner of the first
(R156). -/
def extCorner (isMax : Bool) (as bs : List Val) : List Val :=
  match bs with
  | [] => []
  | b :: rest => [rest.foldl Val.max b, rest.foldl Val.min b].filterMap fun x => (extPartner isMax x as).map (Val.mul x)

/-- The corner cells over a step, keyed slot, strip: the check row's operand against the check column's (R137, R154, R156). -/
def cornerStep (mode fa fb slot g : Nat) (rows : List (List (Nat × Elem))) (b : OpTile) (m : AMap Check) : AMap Check :=
  overK (fun c m =>
    match columnVals fa c rows, columnVals fb c (b.map (·.2)) with
    | [], _ => m
    | _, [] => m
    | as, bs =>
      let k := cellKey slot 0 g
      let ck := AMap.getD m k {}
      let f (w : Nat) : Val := decodeVal fp32 w
      AMap.set m k
        (if 3 ≤ mode then (extCorner (mode == 3) as bs).foldl (fun ck v => ck.ext (mode == 3) v) ck
         else ck.mac (f (innerSum as)) (f (innerAbs as)) (f (innerSum bs)) (f (innerAbs bs)))) m

-- ## A K step of a tile (R101)

/-- A contributor of a tile as a command (R153). -/
def contribCmd (x : Nat × Nat × BitVec 1024) : Cmd := { r := x.1, p := x.2.1, entry := x.2.2, phase := .running }

/-- The contributor whose K steps a tile is running. -/
def WorkUnit.contributor (u : WorkUnit) : Option Cmd := u.contribs[u.ci]?.map contribCmd

/-- The number of the tile among the tiles of a contributor: contributors meet under one identifier, ATID_BASE + index (R151). -/
def WorkUnit.indexFor (u : WorkUnit) (c : Cmd) : Nat :=
  match u.contribs.getLast? with
  | some x => (contribCmd x).atidBase + u.index - c.atidBase
  | none => u.index

/-- Tile indices along M and N (R133). -/
def State.tileMN (s : State) (c : Cmd) (i : Nat) : Nat × Nat := (i % s.mTM c, i / s.mTM c)

/-- The operand tile indices of a slot (R148). -/
def slotTiles (shape m n slot : Nat) : Nat × Nat :=
  (if shape == 2 then 2 * m + slot else m, if shape == 1 then 2 * n + slot else n)

/-- The first failing check of a verdict is recorded (R403). -/
def WorkUnit.failWith (u : WorkUnit) (f : Fail) : WorkUnit := { u with fail := some (u.fail.getD f) }

/-- What a stopped read does to a tile: a failed code or header check fails its verdict, another error ends it. On a replay a refused
reread is 0x0702 (R404). -/
def rereadErr (again : Bool) (e : Err) : Err :=
  if again && (e.code == 0x0401 || e.code == 0x0402 || e.code == 0x0405 || e.code == 0x0106) then { e with code := 0x0702 } else e

/-- A read of a unit stopped. `bad` says how the unit goes on after a failed check. -/
def State.unitStop (s : State) (core : Nat) (u : WorkUnit) (w : Who) (st : Stop) (bad : State → WorkUnit → State) : State :=
  match st with
  | .wait x => s.issueWant w u.ticket x
  | .err e d => (s.refusedLocal d).failUnit core u (rereadErr (u.replay + u.rescale != 0) e)
  | .bad a mirror =>
    bad (mirror.toList.foldl State.checkFailed (s.checkFailed a)) (u.failWith { kind := if mirror.isSome then .mirror else .input, addr := a + s.pkg <<< 52 })
  | .header a e => bad s (u.failWith { kind := .header, addr := a, detail := e })

/-- Formats of A and B as the array sees them. -/
def State.arrayFmts (s : State) (c : Cmd) : Nat × Nat := s.stagedFmts c

/-- The deal of a step: the rows, whether it is fixed now, whether a deal table row was bad, and the
metadata faults of the table. -/
structure StepDeal where
  perm : List Nat
  fixes : Bool := false
  bad : Bool := false
  dropped : Nat := 0

/-- The deal of a tile at its first K step that is not skipped (R113 to R115), from the A tile of that step; whether a deal table row was bad, and
the metadata faults of a TILED table's record (R84). DEAL 1 counts the nonzero elements that may contribute, a nonzero pad among them (DEDUCED, log 49). -/
def State.dealFor (s : State) (w : Who) (c : Cmd) (m : Nat) (a : OpTile) (ta : Tile) : Rd StepDeal :=
  let fa := (s.arrayFmts c).1
  if ta.tfmt == 1 then .ok { perm := identityDeal, fixes := true }
  else match c.deal with
  | 1 => .ok { fixes := true, perm := snakeDeal ((List.range 128).map fun r =>
      (r, (((AMap.find a r).getD []).filter fun ce => !(ce.2.val fa).isZero).length)) }
  | 2 =>
    let idxs := (List.range 128).map fun p => [p, m]
    Rd.bind (Rd.all (s.readElem w (tdDesc s c.hDeal) 2) idxs) fun es =>
    Rd.bind (s.sweepDrops w (tdDesc s c.hDeal) 2 idxs) fun n =>
      let row := es.map (·.code)
      .ok { perm := if isPermutation row then row else identityDeal, fixes := true, bad := !isPermutation row, dropped := n }
  | _ => .ok { perm := identityDeal, fixes := true }

/-- What a slot's K step reads: the operands, their headers, the metadata faults of a record that no other slot of the step reads too, the
route, and whether an activation (R120) or a pad (R60) saturated. -/
structure StepIn where
  a : OpTile
  b : OpTile
  ta : Tile
  tb : Tile
  dropped : Nat
  route : Route
  sat : Bool

/-- The threshold in force (R101). -/
def State.threshold (s : State) (core : Nat) (c : Cmd) : Nat :=
  if (decodeVal fp32 c.thresh).isZero then s.odGet 0x3110 (core + 1) else c.thresh

/-- Whether a core's share of an op is degraded to sub-tiles (R265). -/
def State.subTiled (s : State) (core r p : Nat) : Bool := (s.core core).shares.any fun h => h.r == r && h.p == p && h.s != 128

/-- The reads and choices of one slot's K step. -/
def State.stepIn (s : State) (core : Nat) (u : WorkUnit) (c : Cmd) (active : Option (List Nat)) (slot : Nat) : Rd StepIn :=
  let w : Who := ⟨c.r, c.p, core, c.part⟩
  let mn := s.tileMN c (u.indexFor c)
  let t := slotTiles c.shape mn.1 mn.2 slot
  let da := tdDesc s c.hA
  let db := tdDesc s c.hB
  Rd.bind (s.opTile w da 0 u.nextK t.1) fun a =>
  Rd.bind (s.opTile w db 1 u.nextK t.2) fun b =>
    let base := if c.shape == 2 then 128 * slot else 0
    let at_ := match active with
      | none => a.1
      | some rows => a.1.map fun rc => (rc.1, if rows.contains (base + rc.1) then rc.2 else [])
    let bt := if c.isBaro then mapTile (quantRow db.fmt) b.1
      else mapTile (fun r => r.map fun ce => (ce.1, lowerElem db.fmt u.rescale ce.2)) b.1
    let rt := chooseRoute c.path (s.threshold core c) a.2.1 b.2.1 (s.subTiled core u.r u.p)
    let pads (d : Desc) (rt : Nat) : Bool := d.padSat && (d.viewExt 1 < 128 * rt + 128 || d.viewExt 0 < 128 * u.nextK + 128)
    let drops := (if slot == 1 && c.shape == 1 then 0 else a.2.2) + (if slot == 1 && c.shape == 2 then 0 else b.2.2)
    .ok ⟨at_, bt, a.2.1, b.2.1, drops, rt,
      rt != .skip && (pads da t.1 || pads db t.2 || (c.isBaro && b.1.any fun rc => quantSat db.fmt rc.2))⟩

/-- The deal that a step runs under: the tile's, or the one that the step's first slot that is not skipped fixes (R114). -/
def State.stepDeal (s : State) (core : Nat) (u : WorkUnit) (c : Cmd) (xs : List StepIn) : Rd StepDeal :=
  match u.perm, xs.find? fun x => x.route != .skip with
  | some p, _ => .ok { perm := p }
  | none, none => .ok { perm := identityDeal }
  | none, some x =>
    s.dealFor ⟨c.r, c.p, core, c.part⟩ c (s.tileMN c (u.indexFor c)).1 x.a x.ta

/-- A slot's K step in the array. -/
def WorkUnit.slotStep (u : WorkUnit) (mode fa fb slot : Nat) (perm : List Nat) (x : StepIn) : WorkUnit :=
  if x.route == .skip then u
  else
    let rows (g : Nat) := stripRows perm x.a g
    { u with
      acc := accStep mode fa fb (128 * u.nextK) slot perm x.a x.b u.acc
      chkRow := (List.range 16).foldl (fun m g => chkRowStep mode fa fb slot g (rows g) x.b m) u.chkRow
      chkCol := chkColStep mode fa fb slot perm x.a x.b u.chkCol
      corner := (List.range 16).foldl (fun m g => cornerStep mode fa fb slot g (rows g) x.b m) u.corner }

/-- The end of K for a contributor: the last block's register of every cell is promoted (R144), and the next contributor of a rerun begins, or the
tile has made its last accumulate. -/
def WorkUnit.endK (u : WorkUnit) (int : Bool) : WorkUnit :=
  let acc := if u.mode == 2 then u.acc.map fun ka => (ka.1, ka.2.promote int true) else u.acc
  let sat := (acc.filter fun ka => ka.2.sat).map (·.1)
  let u : WorkUnit := { u with
    acc := acc
    ovf := !sat.isEmpty
    satRow := (sat.map fun k => k / 128).eraseDups
    satCol := (sat.map fun k => k / 16384 * 128 + k % 128).eraseDups }
  if u.ci + 1 < u.contribs.length then { u with ci := u.ci + 1, nextK := 0 } else { u with st := .finished }

/-- Whether an op runs a pre-pass (R235). -/
def State.prePass (s : State) (u : WorkUnit) : Bool :=
  match s.op u.r u.p with
  | some o => o.snaps.any (·.seeding)
  | none => false

/-- A unit whose K step is done. A tile left open by its op counts as ended for it (R151), and the op earns what its steps flagged (R84). -/
def State.stepDone (s : State) (core : Nat) (u : WorkUnit) (c : Cmd) (int : Bool) : State :=
  let u := { u with nextK := u.nextK + 1 }
  if u.nextK < s.mTK c then s.updUnit core u.id fun _ => u
  else
    let v := u.endK int
    let s := (s.closeWindowOf core u.id).updUnit core u.id fun _ => v
    if v.st == .finished && !c.ends && !s.prePass u then
      (s.updOp u.r u.p fun o => { o with landed := o.landed + 1 }).addFlags u.r u.p u.flags
    else s

/-- The words of an active set that a tile reads (R131). -/
def State.actReads (s : State) (u : WorkUnit) (c : Cmd) : Reads :=
  let i := u.indexFor c
  let mn := s.tileMN c i
  let d := tdDesc s c.hAct
  if c.actEn && !c.audited i then
    [(d, d.boxIdx 0 [(tileM c.shape * mn.1 / 32, tileM c.shape / 32), (tileN c.shape * mn.2, tileN c.shape)])]
  else []

/-- What a K step reads: an A and a B tile for each slot, the active set, the deal table's row when the deal is still open. -/
def State.stepReads (s : State) (u : WorkUnit) (c : Cmd) : Reads :=
  let mn := s.tileMN c (u.indexFor c)
  let tile (h rt : Nat) : Desc × List (List Nat) := (tdDesc s h, (tdDesc s h).boxIdx 0 [(128 * u.nextK, 128), (128 * rt, 128)])
  ((List.range (slotsOf c.shape)).flatMap fun slot =>
      let t := slotTiles c.shape mn.1 mn.2 slot
      [tile c.hA t.1, tile c.hB t.2])
    ++ s.actReads u c
    ++ (if c.deal == 2 && u.perm.isNone then [(tdDesc s c.hDeal, (tdDesc s c.hDeal).boxIdx 0 [(0, 128), (mn.1, 1)])] else [])

/-- A K step has read its operands. One whose reads fail has touched all that it reads (DEDUCED, log 209). -/
def State.operandsRead (s : State) (core : Nat) (u : WorkUnit) (c : Cmd) : State :=
  s.readsDone ⟨c.r, c.p, core, c.part⟩ (s.stepReads u c)

/-- A step whose reads all came (R101, R139). A bad deal table row counts as the deal is fixed (R115). -/
def State.runStep (s : State) (core : Nat) (u : WorkUnit) (c : Cmd) (xs : List StepIn) (d : StepDeal) : State :=
  let f := s.arrayFmts c
  let int := intPair f.1 f.2
  let drops := xs.foldl (fun a x => a + x.dropped) d.dropped
  let u := xs.zipIdx.foldl (fun u xi => u.slotStep c.mode f.1 f.2 xi.2 d.perm xi.1) u
  let ran := xs.any fun x => x.route != .skip
  let u := { u with
    perm := if d.fixes then some d.perm else u.perm
    ran := if ran then u.ran + 1 else u.ran
    flags := u.flags ||| flagIf (drops != 0) flagMETA_DROP ||| flagIf (xs.any (·.sat)) flagSATURATED }
  let u := u.note 0x5105 drops
  let s := if d.bad then (s.coreBump 0x5110 core 1).coreBit core 2 else s
  -- the second slot of SHAPE 2 finds B staged by the first, unless the first was skipped (R148)
  let staged (slot : Nat) : Bool := c.shape == 2 && slot == 1 && (xs.take 1).any fun x => x.route != .skip
  let s := xs.zipIdx.foldl (fun s xi =>
    s.routeStep core u.id c xi.1.route f.1 f.2 xi.1.ta xi.1.tb d.perm xi.1.a xi.1.b (!staged xi.2)) s
  (s.operandsRead core u c).stepDone core u c int

/-- The contributor of a rerun can still be read: its handles are live (R404). -/
def State.contribLive (s : State) (u : WorkUnit) (c : Cmd) : Bool :=
  (c.r == u.r && c.p == u.p)
    || ([c.hA, c.hB] ++ (if c.actEn then [c.hAct] else []) ++ (if c.deal == 2 then [c.hDeal] else [])).all fun h => (s.liveHandle c.part h).isSome

/-- One K step of an open tile. A pinned tile is one with an empty S once any contributor's S was empty (R131; DESIGN CHOICE, log 205). `readFail` is the address of an input read whose check failed on the way, once only. -/
def State.kStep (s : State) (core : Nat) (u : WorkUnit) (c : Cmd) (readFail : Option Nat) : State :=
  let w : Who := ⟨c.r, c.p, core, c.part⟩
  let f := s.arrayFmts c
  let int := intPair f.1 f.2
  let i := u.indexFor c
  let mn := s.tileMN c i
  if !s.contribLive u c then s.failUnit core u { code := 0x0702 }
  else
    let active : Rd (Option (List Nat)) :=
      if c.actEn && !c.audited i then
        Rd.bind (s.activeRows w (tdDesc s c.hAct) (tileM c.shape * mn.1) (tileM c.shape) (tileN c.shape * mn.2) (tileN c.shape))
          fun rows => .ok (some rows)
      else .ok none
    let lost (s : State) (u : WorkUnit) : State := (s.operandsRead core u c).stepDone core u c int
    match readFail with
    | some a => lost s (u.failWith { kind := .input, addr := a })
    | none =>
      match active with
      | .error st => s.unitStop core u w st lost
      | .ok (some []) => (s.readsDone w (s.actReads u c)).stepDone core { u with empty := true, nextK := s.mTK c } c int
      | .ok act =>
        match Rd.bind (Rd.all (s.stepIn core u c act) (List.range (slotsOf c.shape))) fun xs =>
            Rd.bind (s.stepDeal core u c xs) fun d => .ok (xs, d) with
        | .error st => s.unitStop core u w st lost
        | .ok x => s.runStep core u c x.1 x.2

def effKStep (core unit : Nat) (readFail : Option Nat) (s : State) : State :=
  match s.unit core unit with
  | none => s
  | some u =>
    if u.st != .open_ || !s.coreRuns core then s
    else match u.contributor with
      | none => s
      | some c => s.slotChecked core u fun s => s.kStep core u c readFail

/-- K_STEP: the next K step of an open tile, in all its slots (R96 to R116, R131, R139 to R146, R154, R156). -/
def execKStep (core unit : Nat) (readFail : Option Nat) (s : State) : Out := answer (okCore core) (effKStep core unit readFail s)

-- ## The accumulator file (R147 to R153)

/-- A tile that holds a range of the active set. -/
def WorkUnit.active (u : WorkUnit) : Bool := u.st == .open_ || (u.st == .finished && !u.contribs.isEmpty)

def WorkUnit.bits (u : WorkUnit) : Nat := rangeBits u.mode u.shape

def WorkUnit.overRange (u : WorkUnit) (lo n : Nat) : Bool := u.lo < lo + n && lo < u.lo + u.bits

/-- Whether a tile was left open by an op that has completed (R149, R152): no ring is 512. -/
def WorkUnit.leftOpen (u : WorkUnit) : Bool :=
  u.st == .finished && u.r == 512 && (match u.contribs.getLast? with | some x => !(contribCmd x).ends | none => false)

/-- A finished tile whose ending op has begun it or continued it. A pre-pass drains every tile, one that its op will leave open as well
(R235). -/
def State.mayEnd (s : State) (u : WorkUnit) : Bool :=
  u.st == .finished && (match u.contribs.getLast? with | some x => (contribCmd x).ends || s.prePass u | none => false)

/-- A finished tile that no op issued so far will swap: its op has passed its last accumulate into it and leaves it open. -/
def State.staysOpen (s : State) (u : WorkUnit) : Bool := u.st == .finished && !s.mayEnd u

/-- The tile open on a core under an identifier. -/
def Core.underAtid (c : Core) (atid id : Nat) : Option WorkUnit := c.units.find? fun u => u.active && u.atid == atid && u.id != id

/-- A tile starts from the identity in a range of its own (R147, R149, R151), under its op's identifier or a free one. With no range free it
waits, and its op ends once no holder will be swapped: those that ops not yet complete leave open are none that will (DEDUCED, log 201). A replayed tile of a
pinned op whose identifier a later op's tile has taken gets a free one. -/
def State.openTile (s : State) (core : Nat) (u : WorkUnit) (c : Cmd) : State :=
  let k := s.core core
  let n := rangeBits c.mode c.shape
  let held := k.units.filter fun v => v.active
  match s.pickFree (256 / n) fun i => held.any fun v => v.overRange (i * n) n with
  | none => if held.all s.staysOpen then s.failUnit core u (ticketErr 0x0803 u.ticket) else s
  | some i =>
    let s := s.useFree 1
    let rerun := !u.contribs.isEmpty
    let taken (a : Nat) : Bool := held.any fun v => v.atid == a
    let own := c.atidBase + u.index
    let atid := if c.pin && !(rerun && taken own) then some own else s.pickFree 32 taken
    match atid with
    | none => s
    | some a =>
      (s.useFree 1).updUnit core u.id (fun v =>
        { v with st := .open_, lo := i * n, mode := c.mode, shape := c.shape, atid := a
                 contribs := if rerun then v.contribs else [(c.r, c.p, c.entry)], ci := 0, nextK := 0 })
        |>.noteDegraded core u.r u.p

/-- An op continues the tile open under its identifier (R151 to R153): the new unit takes over what the array holds of it. A pre-pass works on a
copy, which stores nothing, and the open tile stays for the run proper (R235; DEDUCED, log 159). -/
def State.continueTile (s : State) (core : Nat) (u : WorkUnit) (c : Cmd) : State :=
  match (s.core core).underAtid (c.atidBase + u.index) u.id with
  | none => s.failUnit core u { code := 0x010E }
  | some v =>
    if v.mode != c.mode || v.shape != c.shape then s.failUnit core u { code := 0x010E }
    else if !(v.st == .finished && (match v.contribs.getLast? with | some x => !(contribCmd x).ends | none => false)) then
      s.coreBump 0x511A core 1
    else if 8 ≤ v.contribs.length then s.failUnit core u { code := 0x010E }
    else
      let k := s.core core
      let t := { v with id := u.id, r := u.r, p := u.p, g := u.g, index := u.index, ticket := u.ticket, st := .open_
                        contribs := v.contribs ++ [(c.r, c.p, c.entry)], ci := v.contribs.length, nextK := 0 }
      let kept := if s.prePass u then k.units else k.units.filter fun x => x.id != v.id
      (s.setCore core { k with units := kept.map fun x => if x.id == u.id then t else x })
        |>.noteDegraded core u.r u.p

/-- Whether an op pinned to a core has a tile under an identifier that has not begun: not handed out, or held (R152). -/
def State.tileToCome (s : State) (core atid : Nat) (o : Op) : Bool :=
  match s.cmd o.r o.p with
  | none => false
  | some c =>
    let i := atid - c.atidBase
    o.pinned == some core && c.atidBase ≤ atid && i < o.tM * o.tN
      && (o.blocks.any (fun b => b.next ≤ i)
        || (s.core core).units.any fun v => v.r == o.r && v.p == o.p && v.index == i && v.st == .held && v.contribs.isEmpty)

/-- Whether an op issued before has still to begin its tile under the identifier of a unit's tile (R152: in order of issue). -/
def State.earlierTile (s : State) (core : Nat) (u : WorkUnit) (atid : Nat) : Bool :=
  (s.ops.takeWhile fun o => !o.at_ u.r u.p).any (s.tileToCome core atid)

/-- An op's next tile that waits for its range: a replayed tile goes ahead of one not yet begun (R18). -/
def Core.nextHeld (c : Core) (r p : Nat) : Option WorkUnit :=
  let held := c.units.filter fun u => u.r == r && u.p == p && u.st == .held
  match held.find? fun u => !u.contribs.isEmpty with
  | some u => some u
  | none => held.head?

/-- A unit not yet started waits behind a replayed one of any op on its core (R18). -/
def Core.replayWaits (c : Core) (u : WorkUnit) : Bool := !u.isAgain && c.units.any fun v => v.st == .held && v.isAgain

def State.allocRange (s : State) (core : Nat) (u : WorkUnit) (c : Cmd) : State :=
  if !u.contribs.isEmpty || !c.pin then s.openTile core u c
  else if s.earlierTile core u (c.atidBase + u.index) then s.coreBump 0x511A core 1
  else if !c.begins then s.continueTile core u c
  else
    match (s.core core).underAtid (c.atidBase + u.index) u.id with
    | none => s.openTile core u c
    | some v => if v.leftOpen then s.failUnit core u { code := 0x010E } else s.coreBump 0x511A core 1

def effAccRangeAlloc (core r p : Nat) (s : State) : State :=
  match s.cmd r p, (s.core core).nextHeld r p with
  | some c, some u =>
    if c.phase == .running && (c.opcode == 0x10 || c.opcode == 0x11) && s.coreRuns core && !(s.core core).replayWaits u then
      s.allocRange core u c
    else s
  | _, _ => s

/-- ACC_RANGE_ALLOC: an op's tile gets its range and identifier, or is held, or ends by R149, R152 or R153. -/
def execAccRangeAlloc (core : Nat) (r p : Nat) (s : State) : Out := answer (okCore core && okRing r) (effAccRangeAlloc core r p s)

-- ## Issue pacing (R165)

/-- Activity is given in multiplier-cycles of a window of 32 cycles: 32 × 144 × 129 switch at most. -/
def windowFull : Nat := 32 * 144 * 129

/-- Idle cycles of a window that bring its activity within STEP / 256 of the window before. -/
def idleCycles (last activity step : Nat) : Nat :=
  let limit := 256 * last + step * windowFull
  if 256 * activity ≤ limit then 0 else ceilDiv (32 * (256 * activity - limit)) (256 * activity)

def effPacingWindow (core activity : Nat) (s : State) : State :=
  let c := s.core core
  let step := s.odGet 0x3114 (core + 1)
  let a := min activity windowFull
  let a' := min a ((256 * c.activity + step * windowFull) / 256)
  (s.setCore core { c with activity := a' }).coreBump 0x5119 core (idleCycles c.activity a step)

/-- PACING_WINDOW: the rise of a core's activity from one window of 32 cycles to the next is held to STEP / 256 by idle cycles (R165).
`activity` is what the window would reach without them; idle cycles spread it evenly, and a paced window counts as the limit (DESIGN CHOICE,
log 206). -/
def execPacingWindow (core activity : Nat) (s : State) : Out := answer (okCore core) (effPacingWindow core activity s)

-- ## The swap (R159)

def effTileSwap (core unit : Nat) (s : State) : State :=
  match s.unit core unit with
  | none => s
  | some u =>
    let c := s.core core
    if !s.mayEnd u then s
    else if c.shadow.any fun i => c.units.any fun v => v.id == i && v.overRange u.lo u.bits then
      (if c.units.any fun v => v.st == .open_ then s else s.coreBump 0x5118 core 1)
    else (s.setCore core { c with shadow := c.shadow ++ [u.id] }).updUnit core u.id fun v => { v with st := .shadow, slot := 0 }

/-- TILE_SWAP: a finished tile moves into the shadow set, or waits for its range there (R159). -/
def execTileSwap (core unit : Nat) (s : State) : Out := answer (okCore core) (effTileSwap core unit s)

end Sys2Proof.Machine
end

