-- ==== Sys2Proof/Machine/Ports.lean ====
section
/-! DEFINITION. Link ports below the message (13_links_and_windows.md): flits that arrive, retry and credits, retraining and lanes
(R307, R310 to R315, R412); die-to-die flits (R329). -/

namespace Sys2Proof.Machine

-- ## Lanes and width (R307)

/-- Code of the widest width that the lanes left allow, with those lanes; 3 when none is left. -/
def widthOf (removed : List Nat) : Nat × List Nat :=
  let free (ls : List Nat) : Bool := ls.all fun l => !removed.contains l
  match [(0, [0, 1, 2, 3, 4, 5, 6, 7]), (1, [0, 1, 2, 3]), (1, [4, 5, 6, 7]), (2, [0, 1]), (2, [2, 3]), (2, [4, 5]), (2, [6, 7])].find?
    fun wl => free wl.2 with
  | some wl => wl
  | none => (3, [])

def laneMask (ls : List Nat) : Nat := ls.foldl (fun a l => a + 2 ^ l) 0

/-- LANES and WIDTH of a port's status (R309). -/
def State.portStatus (s : State) (pp : Nat) (wl : Nat × List Nat) : State :=
  let v := setField (s.odGet 0x4140 (pp + 1)) 14 7 (laneMask wl.2)
  s.odSet 0x4140 (pp + 1) (setField v 6 5 wl.1)

def State.minWidth (s : State) (pp : Nat) : Nat := field (s.odGet 0x3141 (pp + 1)) 5 4

/-- Messages still in egress when their port leaves ON are discarded (R318). -/
def State.dropEgress (s : State) (pp : Nat) : State :=
  let v := s.arbiter (.egress pp)
  let n := (s.fifoOf pp).length + v.committed.length + (v.waiting.filter fun x => x.out.isSome).length
    + (if v.cur.any fun x => x.out.isSome then 1 else 0)
  let s := { s with egress := s.egress.filter fun e => e.pp != pp }
  if n == 0 then s
  else
    (s.setArbiter (.egress pp) { v with committed := [], waiting := v.waiting.filter fun x => x.out.isNone
                                        cur := v.cur.filter fun x => x.out.isNone }).dieBump 0x5312 (pp / 8) n

/-- A port without its flits: what survives a stop or a fault are its lanes. -/
def Port.lanesOnly (p : Port) : Port :=
  { removed := p.removed, removals := p.removals, retrains := p.retrains, narrowed := p.narrowed }

/-- A port goes to FAULTED: its retry buffer is discarded (R307, R311). -/
def State.portFault (s : State) (pp : Nat) : State :=
  let s := (s.setFn .link pp 4).setPort pp (s.port pp).lanesOnly
  ((s.dropEgress pp).severity 6 pp 0 0 1 {}).refreshService

/-- A lane is removed: the port retrains without it, or goes to FAULTED (R307, R412). -/
def State.removeLane (s : State) (pp lane : Nat) : State :=
  let p := s.port pp
  if p.removed.contains lane then s
  else
    let rm := p.removed ++ [lane]
    let s := s.setPort pp { p with removed := rm, removals := AMap.set p.removals lane (AMap.getD p.removals lane 0 + 1), retraining := true }
    let s := s.severity 7 (8 * pp + lane) 0 9 1 {}
    if s.minWidth pp < (widthOf rm).1 then s.portFault pp else s

/-- A port that still receives: ON, or STOPPING while its retry buffer is acknowledged (R389). -/
def State.linkAlive (s : State) (pp : Nat) : Bool := s.fnState .link pp == 2 || s.fnState .link pp == 3

def effLaneLossOfLock (pp lane : Nat) (s : State) : State := if s.linkAlive pp then s.removeLane pp lane else s

/-- LANE_LOSS_OF_LOCK (R412). -/
def execLaneLossOfLock (pp lane : Nat) (s : State) : Out := answer (okPort pp && lane < 8) (effLaneLossOfLock pp lane s)

/-- Corrected symbols in 1 s above which a lane is removed, by the mode in use (R412). -/
def State.fecLimit (s : State) (pp : Nat) : Nat := if bitOf (s.odGet 0x4140 (pp + 1)) 4 then 224000 else 212500

def effLaneFecWindow (pp lane corrected : Nat) (s : State) : State :=
  if s.linkAlive pp && s.fecLimit pp < corrected then s.removeLane pp lane else s

/-- LANE_FEC_WINDOW: one second of a lane's corrected FEC symbols (R412). -/
def execLaneFecWindow (pp lane corrected : Nat) (s : State) : Out :=
  answer (okPort pp && lane < 8) (effLaneFecWindow pp lane corrected s)

/-- The width and the lanes on which a retrain leaves a port (R307); a narrower width is a narrowing. -/
def State.narrow (s : State) (pp : Nat) (wl : Nat × List Nat) : State :=
  let old := field (s.odGet 0x4140 (pp + 1)) 6 5
  let s := s.portStatus pp wl
  if old < wl.1 then
    let s := (s.bump 0x5405 (pp + 1) 1).setBit 0x4141 (pp + 1) 1
    (s.setPort pp { s.port pp with narrowed := true }).refreshService
  else s

/-- A retrain ends well: flits not yet acknowledged are resent in order (R307, R311). -/
def State.retrained (s : State) (pp : Nat) (wl : Nat × List Nat) : State :=
  let p := s.port pp
  let s := if p.resent.any fun kn => 16 ≤ kn.2 then s.setBit 0x4141 (pp + 1) 0 else s
  let s := s.narrow pp wl
  let s := if p.retry.isEmpty then s else s.bump 0x5402 (pp + 1) p.retry.length
  s.setPort pp { s.port pp with retraining := false, resent := [] }

/-- A lane named in 4 retrains of its port within 1 minute is removed (R412). -/
def State.nameLane (s : State) (pp lane : Nat) : State :=
  let p := s.port pp
  let rs := (lane, s.timeUs) :: p.retrains.filter fun r => s.timeUs < r.2 + 60000000
  let s := s.setPort pp { p with retrains := rs }
  if 4 ≤ (rs.filter fun r => r.1 == lane).length then s.removeLane pp lane else s

/-- Lanes of a mask. -/
def lanesOf (m : Nat) : List Nat := (List.range 8).filter fun l => bitOf m l

def effLinkRetrain (pp : Nat) (lane : Retrain) (ok : Bool) (s : State) : State :=
  let wl := widthOf ((s.port pp).removed ++ lanesOf lane.far.toNat)
  if !s.linkAlive pp then s
  else if !ok || s.minWidth pp < wl.1 then s.portFault pp
  else
    let s := s.retrained pp wl
    let s := match lane.named with
      | some l => if l < 8 then s.nameLane pp l else s
      | none => s
    s.flush pp

/-- LINK_RETRAIN: a retrain ends, begun by this end or by the other, which has removed lanes of its own (R307, R311). A STOPPING port retrains
too, so that its retry buffer can empty (R389). -/
def execLinkRetrain (pp : Nat) (lane : Retrain) (ok : Bool) (s : State) : Out :=
  answer (okPort pp) (effLinkRetrain pp lane ok s)

-- ## Flits (R310 to R313)

/-- A flit is discarded and NAK returns at once, in a flit of its own (R311). -/
def State.nakFlit (s : State) (pp : Nat) : State :=
  let s := s.setPort pp { s.port pp with nak := true }
  if (s.port pp).retry.length < 512 then s.sendFlit pp 15 (List.replicate 240 0) else s

/-- What a message's first slot says of it: its slots after that one. -/
def moreSlots (slot : List Byte) : Nat :=
  let h := natOf slot
  1 + dataSlots (h % 64) (field h 16 8)

/-- A complete message enters its receive buffer; one of unknown TYPE is discarded and counted (R315). -/
def State.received (s : State) (pp : Nat) (bytes : List Byte) : State :=
  let m : Msg := { hdr := BitVec.ofNat 256 (natOf (bytes.take 32)), data := bytes.drop 32 }
  match vcOf m.type with
  | none => s.bump 0x5406 (pp + 1) 1
  | some _ => { s with rx := s.rx ++ [(pp, m)] }

/-- One slot of a body: it continues the message under way, begins one at FIRST or after it, or is a filler of zeros (log 14). -/
def State.takeSlot (s : State) (pp first i : Nat) (slot : List Byte) : State :=
  let p := s.port pp
  if p.need != 0 then
    let bytes := p.partial_ ++ slot
    if p.need == 1 then (s.setPort pp { p with partial_ := [], need := 0 }).received pp bytes
    else s.setPort pp { p with partial_ := bytes, need := p.need - 1 }
  else if first == 15 || i < first || slot.all (· == 0) then s
  else s.setPort pp { p with partial_ := slot, need := moreSlots slot }

/-- The slots of a body in order. -/
def State.takeBody (s : State) (pp first : Nat) (body : List Byte) : State :=
  (List.range 15).foldl (fun s i => s.takeSlot pp first i ((body.drop (16 * i)).take 16)) s

/-- Credits come back for each pool (R312). -/
def Port.credit (p : Port) (f : Nat) : Port :=
  { p with credits := (List.range 8).map fun i => p.credits.getD i 0 + field f (16 + 6 * i + 5) (16 + 6 * i) }

/-- Flits up to ACK are acknowledged (R311). -/
def Port.acked (p : Port) (ack : Nat) : Port :=
  let kept (seq : Nat) : Bool := 2048 ≤ (ack + 4096 - seq) % 4096
  { p with retry := p.retry.filter fun e => kept e.1, resent := p.resent.filter fun e => kept e.1 }

/-- A NAK: the retry buffer, which holds the flits after ACK, is resent; the sixteenth resend of one sequence number makes the port retrain
(R311). -/
def State.resend (s : State) (pp : Nat) : State :=
  let p := s.port pp
  let resent := p.retry.foldl (fun m e => AMap.set m e.1 (AMap.getD m e.1 0 + 1)) p.resent
  if p.retry.isEmpty then s
  else
    (s.setPort pp { p with resent := resent, retraining := p.retraining || resent.any fun kn => 16 ≤ kn.2 }).bump 0x5402 (pp + 1) p.retry.length

/-- A flit in order. -/
def State.acceptFlit (s : State) (pp f : Nat) : State :=
  let p := s.port pp
  let p := { (p.credit f).acked (field f 83 72) with rxSeq := (p.rxSeq + 1) % 4096 }
  let s := s.setPort pp p
  let s := if bitOf f 71 then s.resend pp else s
  let s := s.takeBody pp (field f 67 64) ((bytesOf f 256).drop 16)
  s.flush pp

def effFlitReceive (pp : Nat) (fecOk : Bool) (corrected : Nat) (flit : BitVec 2048) (s : State) : State :=
  if !s.linkAlive pp || (s.port pp).retraining then s
  else
    let s := if corrected == 0 then s else s.bump 0x5403 (pp + 1) corrected
    if !fecOk then (s.bump 0x5404 (pp + 1) 1).nakFlit pp
    else if field flit.toNat 127 96 != flitCrc flit then s.nakFlit pp
    else
      let s := s.bump 0x5401 (pp + 1) 1
      if field flit.toNat 95 84 == (s.port pp).rxSeq then s.acceptFlit pp flit.toNat else s

/-- FLIT_RECEIVE: a flit arrives (R310 to R313). A good flit out of sequence is discarded until the resend. -/
def execFlitReceive (pp : Nat) (fecOk : Bool) (corrected : Nat) (flit : BitVec 2048) (s : State) : Out :=
  answer (okPort pp) (effFlitReceive pp fecOk corrected flit s)

-- ## Die to die (R329)

/-- A direction of a pair's link. -/
def d2dKey (pair : Nat) (toHigh : Bool) : Nat := 2 * pair + (if toHigh then 1 else 0)

def effD2dFlitReceive (pair : Nat) (toHigh crcOk : Bool) (seq : Nat) (payload : List Byte) (s : State) : State :=
  let k := d2dKey pair toHigh
  let d := AMap.getD s.d2d k {}
  if crcOk && seq == d.expect then
    { s with d2d := AMap.set s.d2d k { d with expect := d.expect + 1, received := d.received ++ [payload] } }
  else s

/-- D2D_FLIT_RECEIVE: a flit in order is delivered; one whose CRC fails is resent, so that what was sent arrives in order (R329). -/
def execD2dFlitReceive (pair : Nat) (toHigh crcOk : Bool) (seq : Nat) (payload : List Byte) (s : State) : Out :=
  answer (pair < 6) (effD2dFlitReceive pair toHigh crcOk seq payload s)

end Sys2Proof.Machine
end

