-- ==== Sys2Proof/Machine/Store.lean ====
section
/-! DEFINITION. How results are stored: runs of elements into a strided tensor (R33, R35, R38), tiles compressed on store (R89 to R94),
and keyed partials (R182, R188). -/

namespace Sys2Proof.Machine

-- ## Strided destinations

/-- What storing a run of values gives: its records, whether a conversion saturated, and which converted values are not zero (R221). -/
structure Stored where
  recs : List Dest := []
  sat : Bool := false
  nonzero : List Bool := []

def randomOf (mode seed : Nat) (d : Desc) (idx : List Nat) : Nat := if mode == 4 then stochastic seed (d.linear idx) else 0

/-- A run of values along view dimension 0 from position `p0`, of an unscaled format. -/
def State.storePlain (s : State) (d : Desc) (mk : Nat → List Nat) (p0 : Nat) (vs : List Val) (mode seed : Nat) : Rd Stored :=
  let conv (iv : Val × Nat) : Nat × Bool := encode (fmtD d.fmt) mode (randomOf mode seed d (mk (p0 + iv.2))) iv.1
  Rd.bind (Rd.all (fun iv => s.storeElem d (mk (p0 + iv.2)) (conv iv).1) vs.zipIdx) fun rs =>
    .ok { recs := joinDests rs.flatten
          sat := vs.zipIdx.any fun iv => (conv iv).2
          nonzero := vs.zipIdx.map fun iv => !(decodeVal (fmtD d.fmt) (conv iv).1).isZero }

/-- A block of a scaled tensor as a store forms it: its records, whether a conversion saturated, and which elements are not zero, by
position along dimension 0. -/
structure BlockOut where
  recs : List Dest
  sat : Bool
  nonzero : AMap Bool

/-- One block of a scaled format, whole with its scale byte (R33), and what lies beyond the row's last element (R32). `new` lists by position
the values that the store produces; where they are not all that the block holds, the block is read, and the others keep their values
(R458). -/
def State.storeBlock (s : State) (w : Who) (d : Desc) (mk : Nat → List Nat) (b : Nat × Nat) (new : AMap Val) (mode seed : Nat) :
    Rd BlockOut :=
  let items := d.blockItems b
  let whole := items.all fun i => (AMap.find new i).isSome
  Rd.bind (if whole then .ok [] else Rd.all (fun i => s.readVal w d 2 (mk i)) items) fun old =>
  let vs := items.zipIdx.map fun ik => (AMap.find new ik.1).getD (old.getD ik.2 .zero)
  let sc := blockScale d.fmt vs
  let conv (iv : Nat × Val) : Nat × Bool := blockElem d.fmt sc mode (randomOf mode seed d (mk iv.1)) iv.2
  let ivs := items.zip vs
  Rd.bind (Rd.all (fun iv => Rd.bind (s.place d (d.stored (mk iv.1))) fun pl =>
      .ok (storeDest pl.loc pl.bit (elemBits d.fmt) (conv iv).1)) ivs) fun es =>
  Rd.bind (s.place d (d.stored (mk (items.headD 0)))) fun pl =>
    let scale := match pl.scale with | some l => [storeDest l 0 8 sc] | none => []
    Rd.bind (s.padRecs d (d.stored (mk (items.getLastD 0)))) fun pads =>
    .ok { recs := joinDests (scale ++ es ++ pads)
          sat := ivs.any fun iv => (conv iv).2
          nonzero := ivs.foldl (fun m iv => AMap.set m iv.1 (sc == 0xFF || !(decodeVal (fmtD d.fmt) (conv iv).1).isZero)) [] }

/-- A run of values along view dimension 0 (R33, R35): a scaled format by the blocks that the run reaches. -/
def State.storeRun (s : State) (w : Who) (d : Desc) (mk : Nat → List Nat) (p0 : Nat) (vs : List Val) (mode seed : Nat) : Rd Stored :=
  if isScaled d.fmt then
    let run := vs.zipIdx.map fun vk => (p0 + vk.2, vk.1)
    let new := run.foldl (fun m iv => AMap.set m iv.1 iv.2) []
    Rd.bind (Rd.all (fun b => s.storeBlock w d mk b new mode seed) (run.map fun iv => d.blockAt iv.1).eraseDups) fun bs =>
      .ok { recs := joinDests (bs.flatMap (·.recs)), sat := bs.any (·.sat)
            nonzero := run.map fun iv => (bs.findSome? fun b => AMap.find b.nonzero iv.1).getD false }
  else s.storePlain d mk p0 vs mode seed

/-- INT32 words of bits, bit j of word w for position 32 w + j (R124, R205). -/
def maskWords (bits : List Bool) : List Nat :=
  (List.range (ceilDiv bits.length 32)).map fun w =>
    ((bits.drop (32 * w)).take 32).zipIdx.foldl (fun a b => if b.1 then a + 2 ^ b.2 else a) 0

/-- Codes stored as they are, along view dimension 0. -/
def State.storeCodes (s : State) (d : Desc) (mk : Nat → List Nat) (p0 : Nat) (cs : List Nat) : Rd (List Dest) :=
  Rd.bind (Rd.all (fun ci => s.storeElem d (mk (p0 + ci.2)) ci.1) cs.zipIdx) fun rs => .ok (joinDests rs.flatten)

-- ## Tiles compressed on store (R89 to R94)

/-- A converted element of a tile: its position 128 r + c, its code, whether it counts as nonzero, and its rank for pruning: a NaN above
every magnitude (R91). -/
structure TileElem where
  pos : Nat
  code : Nat
  nz : Bool
  nan : Bool
  mag : Val
  deriving DecidableEq, Repr

/-- The converted elements of a tile in position order, its 512 scale bytes, and whether a conversion saturated (R89). `get` gives the
value at row and column inside the extents; `rnd` the random value. -/
def convertTile (fmt mode inR inC : Nat) (get : Nat → Nat → Val) (rnd : Nat → Nat → Nat) : List TileElem × List Nat × Bool :=
  let rows := List.range (min 128 inR)
  if isScaled fmt then
    let blocks := rows.flatMap fun r => (List.range 4).map fun j =>
      let cols := (List.range 32).filterMap fun i => if 32 * j + i < min 128 inC then some (32 * j + i) else none
      let sc := blockScale fmt (cols.map (get r))
      (sc, cols.map fun c =>
        let q := blockElem fmt sc mode (rnd r c) (get r c)
        let v := decodeVal (fmtD fmt) q.1
        ((⟨128 * r + c, q.1, sc == 0xFF || !v.isZero, sc == 0xFF, v.abs⟩ : TileElem), q.2))
    let scales := blocks.map (·.1) ++ List.replicate (512 - blocks.length) 0x7F
    (blocks.flatMap fun b => b.2.map (·.1), scales, blocks.any fun b => b.2.any (·.2))
  else
    let es := rows.flatMap fun r => (List.range (min 128 inC)).map fun c =>
      let q := encode (fmtD fmt) mode (rnd r c) (get r c)
      let v := decodeVal (fmtD fmt) q.1
      ((⟨128 * r + c, q.1, !v.isZero, v.isNan, v.abs⟩ : TileElem), q.2)
    (es.map (·.1), [], es.any (·.2))

/-- Whether `a` is kept before `b` when a group is pruned (R91). -/
def TileElem.before (a b : TileElem) : Bool :=
  if a.nan != b.nan then a.nan else if !a.nan && a.mag.lt b.mag then false else if !a.nan && b.mag.lt a.mag then true
  else a.pos ≤ b.pos

def insertElem (e : TileElem) : List TileElem → List TileElem
  | [] => [e]
  | x :: xs => if e.before x then e :: x :: xs else x :: insertElem e xs

/-- The N elements of a group that prune mode keeps, in column order (R91). -/
def pruneGroup (n : Nat) (g : List TileElem) : List TileElem :=
  if g.length ≤ n then g
  else
    let keep := (g.foldl (fun l e => insertElem e l) []).take n
    g.filter fun e => keep.contains e

/-- The nonzeros of a tile by N:M group: group number (row × groups per row + group) to its nonzeros. -/
def groupsOf (m : Nat) (nz : List TileElem) : List (List TileElem) :=
  (List.range (16384 / m)).map fun g => nz.filter fun e => e.pos / m == g

/-- The N slots of a group: its nonzeros and zero-valued slots at the lowest free columns, sorted by column (R79): (column, code). -/
def nmFill (n m : Nat) (g : List TileElem) : List (Nat × Nat) :=
  let cols := g.map fun e => e.pos % m
  let free := ((List.range m).filter fun c => !cols.contains c).take (n - g.length)
  (List.range m).filterMap fun c =>
    match g.find? fun e => e.pos % m == c with
    | some e => some (c, e.code)
    | none => if free.contains c then some (c, 0) else none

/-- Codes packed in order (R29). -/
def packCodes (bits : Nat) (cs : List Nat) : Nat := cs.foldr (fun c a => c % 2 ^ bits + a * 2 ^ bits) 0

/-- A tile record as the core DMA writes it: its length in units of 16 bytes, 0 for ZERO, and its bytes. -/
structure TileRec where
  units : Nat
  bytes : Nat
  pruned : Nat
  strict : Bool
  deriving DecidableEq, Repr

/-- The choice of R90: the format, the N:M code, and the nonzeros it keeps. -/
def chooseFormat (st : StoreCtl) (nz : List TileElem) : Nat × List TileElem × Bool :=
  let nnz := nz.length
  let blocks := ((nz.map fun e => e.pos / 1024 * 8 + e.pos % 128 / 16).eraseDups).length
  if nnz == 0 && bitOf st.allow 4 then (4, nz, false)
  else match nmOf st.nm with
    | some (n, m) =>
      let gs := groupsOf m nz
      if gs.all fun g => g.length ≤ n then (2, nz, false)
      else if st.prune then (2, gs.flatMap (pruneGroup n), false)
      else (0, nz, true)
    | none =>
      if st.thDense ≤ nnz then (0, nz, false)
      else if blocks ≤ st.thBlock && bitOf st.allow 1 then (1, nz, false)
      else if bitOf st.allow 3 then (3, nz, false)
      else (0, nz, false)

/-- DENSE values (R78, R80). -/
def denseValues (fmt : Nat) (es : List TileElem) (scales : List Nat) : Nat :=
  if isScaled fmt then
    es.foldl (fun a e => a + e.code <<< (8 * (e.pos / 512 * packetBytes fmt + 16 + e.pos % 512 / 32 * blockBytes fmt)
        + e.pos % 32 * elemBits fmt))
      (scales.zipIdx.foldl (fun a sk => a + sk.1 <<< (8 * (sk.2 / 16 * packetBytes fmt + sk.2 % 16))) 0)
  else es.foldl (fun a e => a + e.code <<< (e.pos * elemBits fmt)) 0

/-- The metadata of a compressed tile, and its present codes in value order (R78, R79). -/
def sparseParts (tf nm : Nat) (es kept : List TileElem) : Nat × List Nat :=
  match tf with
  | 1 =>
    let blocks := (List.range 128).filter fun b => kept.any fun e => e.pos / 1024 * 8 + e.pos % 128 / 16 == b
    (blocks.foldl (fun a b => a + 2 ^ b) 0,
      blocks.flatMap fun b => (List.range 128).map fun i =>
        let pos := (b / 8 * 8 + i / 16) * 128 + b % 8 * 16 + i % 16
        match es.find? fun e => e.pos == pos with | some e => e.code | none => 0)
  | 2 =>
    match nmOf nm with
    | none => (0, [])
    | some (n, m) =>
      let slots := (groupsOf m kept).flatMap (nmFill n m)
      (packCodes 4 (slots.map (·.1)), slots.map (·.2))
  | _ => (kept.foldl (fun a e => a + 2 ^ e.pos) 0, kept.map (·.code))

/-- The record of a tile (R72, R73, R78). -/
def mkRecord (fmt : Nat) (st : StoreCtl) (es : List TileElem) (scales : List Nat) : TileRec :=
  let nz := es.filter (·.nz)
  let ch := chooseFormat st nz
  let tf := ch.1
  let kept := ch.2.1
  if tf == 4 then ⟨0, 0, 0, false⟩
  else
    let nm := if tf == 2 then st.nm else 0
    let parts := if tf == 0 then (0, []) else sparseParts tf nm es kept
    let mu := metaBytes tf nm / 16
    let vb := if tf == 0 then valBytes fmt 0 16384 else valBytes fmt tf parts.2.length
    let vals :=
      if tf == 0 then denseValues fmt es scales
      else if isScaled fmt then
        scales.zipIdx.foldl (fun a sk => a + sk.1 <<< (8 * sk.2)) 0 + packCodes (elemBits fmt) parts.2 <<< 4096
      else packCodes (elemBits fmt) parts.2
    let units := 2 + mu + vb / 16
    let pruned := nz.length - kept.length
    let rows := ((kept.map fun e => e.pos / 128).eraseDups).length
    let cols := ((kept.map fun e => e.pos % 128).eraseDups).length
    let h := tf + nm <<< 4 + fmt <<< 8 + kept.length <<< 16 + (if pruned == 0 then 0 else 2 ^ 31) + 2 <<< 32 + (2 + mu) <<< 48
      + units <<< 64 + rows <<< 80 + cols <<< 88
    ⟨units, h + hchk h 15 <<< 240 + parts.1 <<< 256 + vals <<< (128 * (2 + mu)), pruned, ch.2.2⟩

/-- The header of a directory (R70, R94). -/
def dirHeader (t0 t1 : Nat) : Nat := let h := t0 + t1 <<< 32; h + hchk h 7 <<< 112

/-- The state after a tile is stored: its offset taken, its counts on the unit, its records. -/
structure TileOut where
  s : State
  u : WorkUnit
  recs : List Dest := []
  nonzero : List TileElem := []
  sat : Bool := false

/-- Space for a record under PACKED placement: the offset the unit already took, or a fetch-add of the cursor (R93, R94); the offset also for
a rescale replay, whose record can be longer (DEDUCED, log 202). Each slot of a tile
takes space of its own: its record may lie on another shard. -/
def State.takeSpace (s : State) (u : WorkUnit) (st : StoreCtl) (units : Nat) : State × WorkUnit × Nat :=
  match AMap.find u.offsets u.slot with
  | some o => (s, u, o)
  | none =>
    let o := Mem.readNat s.mem (memKey st.cursor) 8
    (s.fetchAdd (memKey st.cursor) units,
      { u with offsets := AMap.set u.offsets u.slot o, flags := u.flags ||| flagIf (2 ^ 64 ≤ o + units) flagSATURATED }, o)

/-- A tile of a tiled destination goes to its record, its entry and, for tile (0, 0), its directory's header (R92 to R94). `zero` stores a
ZERO record whatever ALLOW says (R131). A cursor that memory does not serve stores nothing and ends the op (R12, R389), and one that
fails its check fails the verdict (R401, R402). -/
def State.storeTile (s : State) (u : WorkUnit) (d : Desc) (dir : Loc) (t0 t1 : Nat) (st : StoreCtl) (es : List TileElem)
    (scales : List Nat) (zero : Bool) : TileOut :=
  let rec_ : TileRec := if zero then ⟨0, 0, 0, false⟩ else mkRecord d.fmt st es scales
  let stop (u : WorkUnit) : TileOut := { s := s, u := u, nonzero := es.filter (·.nz) }
  let takes := rec_.units != 0 && st.packed && (AMap.find u.offsets u.slot).isNone
  match if takes then s.accessErr st.cursor 8 none else none with
  | some e => stop { u with err := some (u.err.getD e) }
  | none =>
  if takes && (s.badIn (memKey st.cursor) 8).isSome then
    { stop (u.failWith { kind := .input, addr := st.cursor }) with s := ((s.badIn (memKey st.cursor) 8).toList.foldl State.checkFailed s) }
  else
  let i := t0 + d.t0 * t1
  let start := match dir with | .mem a => addrOff a | .win _ o => o
  let u := { u with pruned := u.pruned + rec_.pruned, strict := u.strict + (if rec_.strict then 1 else 0)
                    flags := u.flags ||| flagIf (rec_.pruned != 0) flagPRUNED }
  let sp : State × WorkUnit × Nat :=
    if rec_.units == 0 then (s, u, 0)
    else if st.packed then s.takeSpace u st rec_.units
    else (s, u, d.dirSize / 16 + i * denseUnits d.fmt)
  let off := sp.2.2
  let fits := rec_.units == 0 || !st.packed
    || (off < 2 ^ 40 && start + 16 * (off + rec_.units) ≤ d.rangeLo + d.rangeLen)
  let entry := if rec_.units == 0 then 0 else if fits then off <<< 24 + rec_.units <<< 8 else 0xFFFFFFFFFF <<< 24
  let u := if fits then sp.2.1 else { sp.2.1 with err := some (sp.2.1.err.getD { code := 0x0802 }) }
  { s := sp.1, u := u
    recs := (if i == 0 then storeBytes dir (dirHeader d.t0 d.t1) 16 else [])
      ++ (if fits && rec_.units != 0 then storeBytes (dir.add (16 * off)) rec_.bytes (16 * rec_.units) else [])
      ++ storeBytes (dir.add (16 + 8 * i)) entry 8
    nonzero := es.filter (·.nz) }

-- ## Keyed partials (R182, R188)

/-- What keyed records need of their context's destination: format, SEGS, rows. -/
structure KeyDest where
  fmt : Nat
  segs : Nat
  rows : Nat

/-- The destination of a context block (R180, R182): read from a block of the own package; of another package's, what the core takes it to be. -/
def State.keyDest (s : State) (ctxa : Nat) (rmt : Bool) : KeyDest :=
  let ofBlock (k : Nat) : KeyDest :=
    let d := tdDesc s (CtxBlock.of (Mem.readNat s.mem k 64)).dest
    { fmt := if sacFmt d.fmt then d.fmt else 0x15, segs := max 1 d.segs, rows := max 1 (d.ext.getD 1 1) }
  if !rmt then ofBlock (memKey ctxa)
  else
    let wr := winRef ctxa
    if wr.1.1 == s.pkg then ofBlock (memKey ((s.slot (slotIndex wr.1.2.1 wr.1.2.2)).base + wr.2))
    else
      let x := Config.remoteDest (BitVec.ofNat 64 ctxa)
      { fmt := [0x04, 0x15, 0x14].getD (x.1 % 3) 0x15, segs := max 1 x.2.1, rows := max 1 x.2.2 }

/-- The keyed records of a row's elements from element `e0` on: one record for each segment reached, absent lanes +0 (R182, R188). -/
def keyedRecords (ctxa : Nat) (rmt : Bool) (split row e0 : Nat) (kd : KeyDest) (codes : List Nat) : List Dest :=
  let l := segLanes kd.fmt
  let w := elemBits kd.fmt
  let last := e0 + codes.length
  (List.range (ceilDiv last l)).filterMap fun g =>
    if g * l + l ≤ e0 then none
    else
      let lanes := (List.range l).foldl (fun a i =>
        let e := g * l + i
        if e0 ≤ e && e < last then a + codes.getD (e - e0) 0 <<< (w * i) else a) 0
      some (.keyed ctxa rmt ((row * kd.segs + g) % 2 ^ 32) split (BitVec.ofNat 512 lanes))

end Sys2Proof.Machine
end

