-- ==== Sys2Proof/Machine/Drain.lean ====
section
/-! DEFINITION. The drain of a finished tile and its verdict (07_matrix_array.md, 09_vector_engine.md): the comparison of the check
lines, the drain chain, the store, the marks of a BAROMETER, replays, rescales and the release of a tile. -/

namespace Sys2Proof.Machine

-- ## What leaves the array (R160)

/-- The array row that holds row `i` of a tile's A rows in a slot (R114). -/
def WorkUnit.arrayRow (u : WorkUnit) (i : Nat) : Nat :=
  match u.perm with
  | some p => (p.findIdx? (· == i)).getD i
  | none => i

def WorkUnit.cell (u : WorkUnit) (slot row col : Nat) : Acc := AMap.getD u.acc (cellKey slot row col) {}

/-- A value as it leaves the array: what the accumulator holds, unless a fault put another in its place. -/
def WorkUnit.leaving (u : WorkUnit) (int : Bool) (upsets : List Upset) (slot row col : Nat) : Val :=
  match upsets.find? fun x => x.row == row && x.col == col with
  | some x => decodeVal (accFmt u.mode int) (x.value.toNat % 2 ^ (accFmt u.mode int).bits)
  | none => (u.cell slot row col).value u.mode int

-- ## The check lines (R154 to R157)

/-- What a check line comes to. -/
inductive Line1 where
  | pass | fail | nonfinite | excluded
  deriving DecidableEq, Repr

def Val.special (v : Val) : Bool := v.isNan || v.isInf

/-- A value rounded into FP32, nearest even (R36). -/
def toFp32 (v : Val) : Val := decodeVal fp32 (fp32Code v)

/-- The tolerance of a line per unit of G (R155), each operation rounded into FP32, from left to right (R36; DEDUCED, log 154). -/
def tolerance (mode : Nat) (int : Bool) (kt tau : Nat) : Val :=
  let k (e : Int) : Val := toFp32 (.fin false kt e)
  let plus (a b : Val) : Val := toFp32 (Val.add 0 a b)
  let e : Val :=
    if int then .zero
    else match mode with
      | 0 => k (-24)
      | 1 => k (-11)
      | _ => plus (.fin false 31 (-10)) (toFp32 (.fin false (kt / 32) (-24)))
  plus (plus (decodeVal fp32 tau) e) (k (-24))

/-- A line of sums: the values it covers against S and G, compared in FP32 (R155). -/
def sumLine (tol : Val) (sat : Bool) (vs : List Val) (ck : Check) : Line1 :=
  let s := decodeVal fp32 ck.s
  let g := decodeVal fp32 ck.g
  let d := decodeVal fp32 (innerSum vs)
  if vs.any Val.special || s.special then .nonfinite
  else if sat || ck.passed || g.special || d.special then .excluded
  else if (toFp32 (Val.mul tol g)).lt (toFp32 (Val.sub 0 d s)).abs then .fail else .pass

/-- A line of extrema (R156): the covered values' extremum against the check cell's. A cell that saw no product and a check cell that
saw none both stand for the identity. -/
def extLine (isMax int sat : Bool) (vs : List Val) (ck : Check) : Line1 :=
  let s := decodeVal fp32 ck.s
  let best : Val := match vs with
    | [] => .zero
    | v :: vs => vs.foldl (fun a w => if isMax then Val.max a w else Val.min a w) v
  if vs.any Val.special || s.special then .nonfinite
  else if sat then .excluded
  else if ck.g == 0 then (if int && best.eqv (Val.ofInt (if isMax then -(2 ^ 31) else 2 ^ 31 - 1)) then .pass else .fail)
  else if best.eqv s then .pass else .fail

/-- What a check cell of an extremum holds; without a product it stands for the identity of the mode (R145). -/
def Check.extremum (ck : Check) (isMax int : Bool) : Val :=
  if ck.g != 0 then decodeVal fp32 ck.s
  else if int then Val.ofInt (if isMax then -(2 ^ 31) else 2 ^ 31 - 1) else .inf isMax

/-- All check lines of a slot: check rows, check columns, corners. A check row line is excluded when the saturation bits of its column
and of a row of its strip are set (DEDUCED, log 25). -/
def WorkUnit.lines (u : WorkUnit) (int : Bool) (tau : Nat) (upsets : List Upset) (slot : Nat) : List Line1 :=
  let kt := 128 * u.ran
  let tol := tolerance u.mode int kt tau
  let ext := 3 ≤ u.mode
  let line (sat : Bool) (vs : List Val) (ck : Check) : Line1 :=
    if ext then extLine (u.mode == 3) int sat vs ck else sumLine tol sat vs ck
  let rowSat (p : Nat) : Bool := u.satRow.contains (slot * 128 + p)
  let colSat (q : Nat) : Bool := u.satCol.contains (slot * 128 + q)
  let strip (g : Nat) : List Nat := (List.range 8).map fun j => 8 * g + j
  if u.ran == 0 then []
  else
    ((List.range 16).flatMap fun g => (List.range 128).map fun q =>
        line (colSat q && (strip g).any rowSat) ((strip g).map fun p => u.leaving int upsets slot p q)
          (AMap.getD u.chkRow (cellKey slot g q) {}))
    ++ ((List.range 128).map fun p =>
        line (rowSat p) ((List.range 128).map fun q => u.leaving int upsets slot p q) (AMap.getD u.chkCol (cellKey slot 0 p) {}))
    ++ ((List.range 16).map fun g =>
        let cell (q : Nat) : Check := AMap.getD u.chkRow (cellKey slot g q) {}
        line ((strip g).any rowSat || (!ext && (List.range 128).any fun q => (cell q).passed))
          ((List.range 128).map fun q => if ext then (cell q).extremum (u.mode == 3) int else decodeVal fp32 (cell q).s)
          (AMap.getD u.corner (cellKey slot 0 g) {}))

/-- The lines of a slot are compared: exclusions and failures are counted, and a failing line fails the verdict (R157). A float extremum that
ran no K step drains infinities (R145), which NONFINITE says without a line (R158, R162). -/
def State.compareLines (s : State) (core : Nat) (u : WorkUnit) (int : Bool) (ls : List Line1) : State × WorkUnit :=
  let bad := (ls.filter (· == .fail)).length
  let nonf := ls.any (· == .nonfinite) || (u.ran == 0 && 3 ≤ u.mode && !int)
  let excl := ls.any (· == .excluded)
  let out := (ls.filter fun l => l == .nonfinite || l == .excluded).length
  let s := if out == 0 then s else s.coreBump 0x5117 core out
  let s := if bad == 0 then s else (s.coreBump 0x5116 core bad).coreBit core 5
  let u := { u with flags := u.flags ||| flagIf nonf flagNONFINITE ||| flagIf excl flagCHK_EXCL }
  (s, if bad == 0 then u else u.failWith { kind := .check })

-- ## The drain chain (R219, R220)

/-- The chain that a drain runs: the op's, or none at the accumulator's kind. -/
def Op.drainChain (o : Op) (c : Cmd) (int : Bool) : Chain :=
  if c.hasChain then Chain.of o.chain else Chain.none_ (if int then 1 else 0)

/-- An element that drained: its place in C's view, its value after the chain and the replacement of R132, its winner index. -/
structure Drained where
  m : Nat
  n : Nat
  v : Val
  idx : Nat := 0xFFFFFFFF
  sat : Bool := false
  active : Bool := false
  miss : Bool := false
  maxima : AMap Nat := []

/-- What all elements of a slot's drain share. -/
structure DrainEnv where
  w : Who
  c : Cmd
  op : Op
  ch : Chain
  int : Bool
  upsets : List Upset
  slot : Nat
  m0 : Nat
  n0 : Nat
  rows : Nat
  cols : Nat
  bigM : Nat
  audited : Bool
  seeding : Option Nat

/-- Whether |v| after the chain is above AUD_THRESH; a NaN is (R134). -/
def Cmd.trulyActive (c : Cmd) (v : Val) : Bool := v.isNan || (decodeVal fp32 (c.f 447 416)).lt v.abs

/-- Row `i`, column `q` of a slot through steps 3 to 5 of R219. In a pre-pass (R235) only the stages before the ALMQ that is being seeded
run, and the value that reaches it is what the element contributes. -/
def State.drainElem (s : State) (x : DrainEnv) (u : WorkUnit) (i q : Nat) : Rd Drained :=
  let m := x.m0 + i
  let n := x.n0 + q
  let p := u.arrayRow i
  let a := u.leaving x.int x.upsets x.slot p q
  let auxs := x.ch.aux
  Rd.bind (Rd.all (fun h => if h == 0 then .ok Val.zero else s.readVal x.w (tdDesc s h) 2 [m, n]) auxs) fun aux =>
  Rd.bind (if x.c.actEn then s.actWord x.w (tdDesc s x.c.hAct) (m / 32) n else .ok 0xFFFFFFFF) fun word =>
    let env := x.ch.mkEnv aux .zero x.op.useMap x.op.nextMap u.rescale x.c.store.seed (m + x.bigM * n)
    let wide := if x.ch.firstD.isNone then a.scale (u.rescale : Int) else a
    let e := x.ch.enter wide
    let run : ElemRun := { x := e.1, sat := env.2 || e.2 }
    let done := match x.seeding with
      | some k =>
        let r := ElemRun.stages x.ch env.1 0 (x.ch.stages.take (x.ch.beforeQ k)) run
        { r with maxima := noteMax [] k r.x }
      | none => ElemRun.stages x.ch env.1 0 x.ch.stages run
    let kept := bitOf word (m % 32)
    let truly := x.audited && x.c.trulyActive done.x
    .ok { m := m, n := n, v := if kept then done.x else .zero, idx := (u.cell x.slot p q).idx, sat := done.sat
          active := truly, miss := truly && !kept, maxima := done.maxima }

/-- The in-bounds elements of a drained column, in row order. -/
def State.drainCol (s : State) (x : DrainEnv) (u : WorkUnit) (q : Nat) : Rd (List Drained) :=
  Rd.all (fun i => s.drainElem x u i q) (List.range x.rows)

-- ## The store of a column or slot (R161, R188, R221, R162)

/-- What a slot's drain leaves behind. -/
structure SlotOut where
  s : State
  u : WorkUnit
  recs : List Dest := []
  /-- The item with which the chunk's next part begins, 0 for none. -/
  next : Nat := 0

/-- The mask words of an observed zero mask for one column (R221). -/
def State.zmaskCol (s : State) (h m0 n : Nat) (bits : List Bool) : Rd (List Dest) :=
  if h == 0 then .ok [] else s.storeCodes (tdDesc s h) (fun w => [w, n]) (m0 / 32) (maskWords bits)

/-- The winner indices of a column. -/
def State.idxCol (s : State) (c : Cmd) (es : List Drained) (m0 n : Nat) : Rd (List Dest) :=
  if c.hIdx == 0 then .ok [] else s.storeCodes (tdDesc s c.hIdx) (fun m => [m, n]) m0 (es.map (·.idx))

/-- A column into a strided C. -/
def State.stridedCol (s : State) (x : DrainEnv) (es : List Drained) (n : Nat) : Rd (List Dest × Bool) :=
  let c := x.c
  Rd.bind (s.storeRun x.w (tdDesc s c.hC) (fun m => [m, n]) x.m0 (es.map (·.v)) c.store.round c.store.seed) fun st =>
  Rd.bind (s.idxCol c es x.m0 n) fun ix =>
  Rd.bind (s.zmaskCol x.ch.zmask x.m0 n st.nonzero) fun z => .ok (st.recs ++ ix ++ z, st.sat)

/-- A column as keyed partials (R188), with its winner indices (R145): its records, whether a conversion saturated, and whether its row index, when
it is taken from data (R62), was clamped. -/
def State.keyedCol (s : State) (x : DrainEnv) (kd : KeyDest) (es : List Drained) (n : Nat) : Rd (List Dest × Bool × Bool) :=
  let c := x.c
  Rd.bind (if c.hKey == 0 then .ok (n, false) else s.readIndex x.w (tdDesc s c.hKey) kd.rows n) fun row =>
    let conv := es.map fun e => encode (fmtD kd.fmt) c.store.round
      (if c.store.round == 4 then stochastic c.store.seed (e.m + x.bigM * n) else 0) e.v
    Rd.bind (s.idxCol c es x.m0 n) fun ix =>
    .ok (keyedRecords c.ctxa c.rmt c.kpSplit row.1 x.m0 kd (conv.map (·.1)) ++ ix, conv.any (·.2), row.2)

/-- A whole slot into a strided C. -/
def State.storeStrided (s : State) (x : DrainEnv) (u : WorkUnit) (cols : List (List Drained)) : Rd SlotOut :=
  Rd.bind (Rd.all (fun eq => s.stridedCol x eq.1 (x.n0 + eq.2)) cols.zipIdx) fun rs =>
    .ok { s := s, u := { u with flags := u.flags ||| flagIf (rs.any (·.2)) flagSATURATED }, recs := rs.flatMap (·.1) }

/-- A whole slot as keyed partials. A clamped index counts once for each slot that sends by it (DESIGN CHOICE, log 165). -/
def State.storeKeyed (s : State) (x : DrainEnv) (u : WorkUnit) (cols : List (List Drained)) : Rd SlotOut :=
  let kd := s.keyDest x.c.ctxa x.c.rmt
  Rd.bind (Rd.all (fun eq => s.keyedCol x kd eq.1 (x.n0 + eq.2)) (cols.zipIdx.filter fun eq => !eq.1.isEmpty)) fun rs =>
    let clamps := (rs.filter (·.2.2)).length
    .ok { s := s
          u := { u with flags := u.flags ||| flagIf (rs.any (·.2.1)) flagSATURATED ||| flagIf (clamps != 0) flagCLAMPED }.note 0x5104 clamps
          recs := rs.flatMap (·.1) }

/-- A whole slot into a tiled C (R89 to R94). `zero` asks for a ZERO record (R131). A slot wholly past M or N has no tile (R262). -/
def State.storeTiled (s : State) (x : DrainEnv) (u : WorkUnit) (cols : List (List Drained)) (zero : Bool) : Rd SlotOut :=
  let c := x.c
  let d := tdDesc s c.hC
  if x.rows == 0 || x.cols == 0 then .ok { s := s, u := u }
  else Rd.bind (s.tileAt d [x.m0, x.n0]) fun t =>
    let at_ (r k : Nat) : Val := match (cols.getD r [])[k]? with | some e => e.v | none => .zero
    let rnd (r k : Nat) : Nat := randomOf c.store.round c.store.seed d [x.m0 + k, x.n0 + r]
    let cv := convertTile d.fmt c.store.round x.cols x.rows at_ rnd
    let o := s.storeTile u d t.1 t.2.1 t.2.2.1 c.store cv.1 cv.2.1 zero
    let nzAt (r k : Nat) : Bool := cv.1.any fun e => e.pos == 128 * r + k && e.nz
    Rd.bind (Rd.all (fun eq => Rd.bind (s.idxCol c eq.1 x.m0 (x.n0 + eq.2)) fun ix =>
      Rd.bind (s.zmaskCol x.ch.zmask x.m0 (x.n0 + eq.2) ((List.range x.rows).map (nzAt eq.2))) fun z => .ok (ix ++ z))
        cols.zipIdx) fun more =>
      .ok { s := o.s, u := { o.u with flags := o.u.flags ||| flagIf cv.2.2 flagSATURATED }, recs := o.recs ++ more.flatten }

/-- The marks of a BAROMETER's column (R122 to R126). -/
def State.markCol (s : State) (x : DrainEnv) (u : WorkUnit) (q : Nat) : Rd (List Dest × Bool) :=
  let c := x.c
  let n := x.n0 + q
  let rows := List.range x.rows
  let guard_ := decodeVal fp32 (c.f 191 160)
  let theta (m : Nat) : Rd Val :=
    if bitOf c.body 103 then s.readVal x.w (tdDesc s (c.f 99 80)) 2 [m] else .ok (decodeVal fp32 (c.f 159 128))
  let obs (m : Nat) : Rd Bool :=
    if bitOf c.body 102 then Rd.bind (s.actWord x.w (tdDesc s (c.f 59 40)) (m / 32) n) fun v => .ok (bitOf v (m % 32)) else .ok true
  Rd.bind (Rd.all (fun i => Rd.bind (theta (x.m0 + i)) fun th => Rd.bind (obs (x.m0 + i)) fun ob =>
      let p := u.arrayRow i
      let est := decodeVal fp32 (fp32Code (u.leaving x.int x.upsets x.slot p q))
      let sat := (u.cell x.slot p q).sat
      let v := if c.f 105 104 == 1 then est.abs else est
      let bound := decodeVal fp32 (fp32Code (Val.sub 0 th guard_))
      .ok ((est.isNan || sat || (!bound.isNan && !v.lt bound)) && ob, sat)) rows) fun ms =>
  Rd.bind (s.storeCodes (tdDesc s c.hC) (fun w => [w, n]) (x.m0 / 32) (maskWords (ms.map (·.1)))) fun rs =>
    .ok (rs, ms.any (·.2))

def State.storeMarks (s : State) (x : DrainEnv) (u : WorkUnit) : Rd SlotOut :=
  Rd.bind (Rd.all (fun q => s.markCol x u q) (List.range x.cols)) fun rs =>
    .ok { s := s, u := { u with flags := u.flags ||| flagIf (rs.any (·.2)) flagSATURATED }, recs := rs.flatMap (·.1) }

/-- The status word of a tile (R162). -/
def WorkUnit.statusWord (u : WorkUnit) : Nat :=
  u.flags % 64 + (u.shape % 4) <<< 6 + (u.mode % 8) <<< 8 + min 3 u.replay <<< 12 + min 3 u.rescale <<< 14

/-- The flags that the tile as a whole earns by its last slot. -/
def WorkUnit.tileFlags (u : WorkUnit) : WorkUnit :=
  { u with flags := u.flags ||| flagIf u.ovf flagOVF ||| flagIf (u.ran == 0) flagEMPTY ||| flagIf u.audited flagAUDITED
      ||| flagIf (u.misses != 0) flagAUDIT_MISS }

-- ## A slot drains

/-- The Almanac entry that a pre-pass is seeding (R235): the first of the op's in stage order. -/
def Op.seedEntry (o : Op) : Option Nat := (o.snaps.find? fun x => x.seeding).map (·.entry)

/-- The whole tile's set S is empty (R131). -/
def State.emptySet (s : State) (w : Who) (c : Cmd) (u : WorkUnit) : Rd Bool :=
  let mn := s.tileMN c u.index
  if !c.actEn then .ok false
  else Rd.bind (s.activeRows w (tdDesc s c.hAct) (tileM c.shape * mn.1) (tileM c.shape) (tileN c.shape * mn.2) (tileN c.shape))
    fun rows => .ok rows.isEmpty

/-- The drained columns of a slot, what they count for the audit and the Almanac, and their records. -/
def State.drainSlot (s : State) (x : DrainEnv) (u : WorkUnit) : Rd SlotOut :=
  if x.c.isBaro then s.storeMarks x u
  else
    Rd.bind (Rd.all (fun q => s.drainCol x u q) (List.range x.cols)) fun cols =>
    Rd.bind (s.emptySet x.w x.c u) fun zero =>
      let all := cols.flatten
      let u := { u with
        maxima := all.foldl (fun a e => mergeMaxima a e.maxima) u.maxima
        truly := u.truly + (all.filter (·.active)).length
        misses := u.misses + (all.filter (·.miss)).length
        flags := u.flags ||| flagIf (all.any (·.sat)) flagSATURATED }
      if x.seeding.isSome then .ok { s := s, u := u }
      else if x.c.outMode == 1 then s.storeKeyed x u cols
      else if (tdDesc s x.c.hC).tiled then s.storeTiled x u cols zero
      else s.storeStrided x u cols

/-- The status word's record, behind the last slot's. -/
def State.statRecs (s : State) (x : DrainEnv) (u : WorkUnit) : Rd (List Dest) :=
  let mn := s.tileMN x.c u.index
  if x.c.hStat == 0 || x.seeding.isSome then .ok []
  else s.storeElem (tdDesc s x.c.hStat) [mn.1, mn.2] u.statusWord

/-- A slot is through: the next one follows, or the tile has drained and awaits its verdict. -/
def State.slotDone (s : State) (core : Nat) (u : WorkUnit) (last : Bool) : State :=
  if last then
    let s := s.updUnit core u.id fun _ => { u with st := .drained, slot := u.slot + 1 }
    let c := s.core core
    s.setCore core { c with shadow := c.shadow.filter (· != u.id), lastDrained := some u.id }
  else s.updUnit core u.id fun _ => { u with slot := u.slot + 1 }

/-- Vectors of a drain are counted; a chunk in progress on the core yields (R209, R222). -/
def State.drainCycles (s : State) (core : Nat) : State :=
  let s := s.coreBump 0x511D core 128
  let busy := (s.core core).units.any fun u => u.st == .held && (match s.cmd u.r u.p with | some c => c.opcode == 0x12 | none => false)
  if busy then s.coreBump 0x511E core 128 else s

/-- The environment of a slot's drain. -/
def State.drainEnv (s : State) (core : Nat) (u : WorkUnit) (c : Cmd) (o : Op) (upsets : List Upset) : DrainEnv :=
  let f := s.arrayFmts c
  let int := intPair f.1 f.2
  let mn := s.tileMN c u.index
  let t := slotTiles c.shape mn.1 mn.2 u.slot
  { w := ⟨c.r, c.p, core, c.part⟩, c := c, op := o, ch := o.drainChain c int, int := int, upsets := upsets, slot := u.slot
    m0 := 128 * t.1, n0 := 128 * t.2
    rows := min 128 (s.mM c - 128 * t.1), cols := min 128 (s.mN c - 128 * t.2), bigM := s.mM c
    audited := c.audited u.index, seeding := o.seedEntry }

/-- What a slot's drain reads: the chain's AUX operands, the active set, row indices taken from data; thresholds and marks of a BAROMETER. -/
def State.drainReads (s : State) (x : DrainEnv) : Reads :=
  let c := x.c
  let box (h : Nat) (b : List (Nat × Nat)) : Reads := if h == 0 then [] else [(tdDesc s h, (tdDesc s h).boxIdx 0 b)]
  let words := [(x.m0 / 32, ceilDiv x.rows 32), (x.n0, x.cols)]
  if c.isBaro then
    (if bitOf c.body 103 then box (c.f 99 80) [(x.m0, x.rows)] else []) ++ (if bitOf c.body 102 then box (c.f 59 40) words else [])
  else
    x.ch.aux.flatMap (fun h => box h [(x.m0, x.rows), (x.n0, x.cols)]) ++ (if c.actEn then box c.hAct words else [])
      ++ (if c.outMode == 1 then box c.hKey [(x.n0, x.cols)] else [])

/-- One slot of the tile at the head of the shadow set drains. -/
def State.tileDrain (s : State) (core : Nat) (u : WorkUnit) (c : Cmd) (o : Op) (upsets : List Upset) : State :=
  let x := s.drainEnv core u c o upsets
  let last := slotsOf u.shape ≤ u.slot + 1
  let u := { u with audited := x.audited && x.seeding.isNone }
  let lost (s : State) (u : WorkUnit) : State := (s.readsDone x.w (s.drainReads x)).slotDone core u last
  match s.drainSlot x u with
  | .error st => s.unitStop core u x.w st lost
  | .ok out =>
    let tau := s.odGet 0x3113 (core + 1)
    let cmp := (out.s.drainCycles core).compareLines core out.u x.int (u.lines x.int tau upsets u.slot)
    let u := if last then cmp.2.tileFlags else cmp.2
    match if last then s.statRecs x u else .ok [] with
    | .error (.wait y) => s.unitStop core u x.w (.wait y) lost
    -- the space that the slot took stays taken (R16, R94)
    | .error st => cmp.1.unitStop core u x.w st lost
    | .ok stat =>
      let recs := out.recs ++ stat
      if !(s.core core).fits recs then s.coreBump 0x5142 core 1
      else ((cmp.1.readsDone x.w (s.drainReads x)).enqueueRecords core u recs).slotDone core u last

def effTileDrain (core : Nat) (upsets : List Upset) (s : State) : State :=
  let k := s.core core
  if k.lastDrained.isSome || !s.coreRuns core then s
  else match k.shadow.head?.bind (s.unit core) with
    | none => s
    | some u =>
      match u.contribs.getLast?.map contribCmd, s.op u.r u.p with
      | some c, some o => s.tileDrain core u c o upsets
      | _, _ => s

/-- TILE_DRAIN: the next slot of the oldest shadow tile leaves the array, is compared with its check lines, and its records enter the
outbound queue (R155 to R162, R219). It waits for the verdict of the tile before it and for room in the queue (R284). -/
def execTileDrain (core : Nat) (upsets : List Upset) (s : State) : Out := answer (okCore core) (effTileDrain core upsets s)

-- ## The verdict (R158, R403)

/-- Whether two failures are of one kind at one place (R403). -/
def Fail.again (f : Fail) (last : Option Fail) : Bool :=
  match last with
  | some g => f.kind == g.kind && (f.addr == g.addr || f.kind == .check || f.kind == .parity)
  | none => false

/-- What a failing replay ends in when its stored data is bad (R83, R242, R403). -/
def Fail.outcome (f : Fail) (pkg : Nat) : Err :=
  match f.kind with
  | .header => { code := 0x0704, dkind := 2, detail := f.detail }
  | .mirror => addrErr 0x0707 (f.addr % 2 ^ 52 + pkg <<< 52)
  | _ => addrErr 0x0701 (f.addr % 2 ^ 52 + pkg <<< 52)

def Fail.isData (f : Fail) : Bool := f.kind == .input || f.kind == .mirror || f.kind == .header

/-- The unit starts again by R18, and the failure is logged as replayed (R418). -/
def State.replayAfter (s : State) (core : Nat) (u : WorkUnit) : State :=
  (s.severity 3 (s.coreUnit core) 0 1 0 {}).replayUnit core u

/-- The core must be fenced (R403): the failure that calls for it is kept, and the unit stays on the core. -/
def State.callFence (s : State) (core : Nat) (f : Fail) : State :=
  let c := s.core core
  s.setCore core { c with lastFail := some f }

/-- Whether a core's integrity failures within 1 s reach FENCE_LIM (R406). -/
def State.tooManyFailures (s : State) (core : Nat) : Bool :=
  s.odGet 0x3170 0 ≤ ((s.core core).failTimes.filter fun t => s.timeUs < t + 1000000).length

/-- A failed verdict: a replay, an outcome of R403, or a fence (R406). -/
def State.verdictFails (s : State) (core : Nat) (u : WorkUnit) (f : Fail) : State :=
  let s := s.noteFailure core
  if s.tooManyFailures core then s.callFence core f
  else if u.replay == 0 then s.replayAfter core u
  else if f.isData && f.again u.last then
    let e := f.outcome s.pkg
    let s := if f.kind == .header then s.coreBit core 1 else s
    (s.severity 3 (s.coreUnit core) e.code 3 2 e).failUnit core u e
  else if (!f.isData && f.again u.last) || 3 ≤ u.replay then s.callFence core f
  else s.replayAfter core u

/-- A training op: a MATMUL with an ALMQ or ALMD stage in its drain chain (R230). -/
def Op.training (o : Op) (c : Cmd) : Bool := c.opcode == 0x10 && c.hasChain && !(Chain.of o.chain).almEntries.isEmpty

/-- A tile that overflowed starts again from its inputs, reread, with B lowered by one binade more (R230). -/
def State.rescaleUnit (s : State) (core : Nat) (u : WorkUnit) : State :=
  u.contribs.foldl (fun s x => s.dropArrived x.1 x.2.1 core) <|
    ((s.discard core u.id).dropArrived u.r u.p core).updUnit core u.id fun v =>
      { v.restart with rescale := v.rescale + 1, last := v.last }

/-- The counts of a passing unit (R91, R90, R135, R231). -/
def State.passCounts (s : State) (core : Nat) (u : WorkUnit) : State :=
  let s := s.noteCounts core u
  let s := if u.rescale == 0 then s else s.coreBump 0x5122 core u.rescale
  let s := if u.pruned == 0 then s else s.coreBump 0x5106 core u.pruned
  let s := if u.strict == 0 then s else s.coreBump 0x5107 core u.strict
  let s := if u.audited then ((s.coreBump 0x5111 core 1).coreBump 0x5112 core u.truly).coreBump 0x5113 core u.misses else s
  let s := if u.empty then s.coreBump 0x5114 core 1 else s
  if u.ovf then (s.coreBump 0x5115 core 1).coreBit core 4 else s

/-- The flags a passing unit brings its op. -/
def WorkUnit.opFlags (u : WorkUnit) : Nat :=
  u.flags ||| flagIf (0 < u.rescale) flagRESCALED ||| flagIf u.ovf flagSATURATED

/-- The synthetic push of a rescaled tile (R232), into the entry of the chain's first ALMD stage. -/
def State.pushRescale (s : State) (u : WorkUnit) (c : Cmd) (o : Op) : State :=
  match (Chain.of o.chain).dequants.head? with
  | some e => if 0 < u.rescale then s.syntheticPush (field c.hC 19 18) e u.rescale else s
  | none => s

/-- Whether an op has read its last byte: all its indices are handed out in its last phase, no pre-pass is left, and every unit of it has
been released or has ended, the unit `id` of `core` among them. -/
def State.readAll (s : State) (c : Cmd) (o : Op) (core id : Nat) : Bool :=
  o.seedEntry.isNone && (c.opcode != 0x21 || o.phase == 2)
    && o.blocks.all (fun b => b.lost || (b.size ≤ b.next && b.reissue.isEmpty))
    && s.reissueWait.all (fun x => !(x.1 == o.r && x.2.1 == o.p))
    && s.cores.all fun kc => kc.2.units.all fun v => (kc.1 == core && v.id == id) || v.st == .released
        || !((v.r == o.r && v.p == o.p) || v.contribs.any fun x => x.1 == o.r && x.2.1 == o.p)

/-- The next part of a chunk waits for its turn with its records (R284); the claim's ticket stays in the region's list under it. A part that is
released a second time, after a replay of it, has its next part already (R405). -/
def State.nextPart (s : State) (core : Nat) (u : WorkUnit) : State :=
  if u.isLast || u.counted then s
  else
    let id := (s.core core).nextId
    let v : WorkUnit := { id := id, r := u.r, p := u.p, g := u.g, index := u.index, ticket := u.ticket }
    let s := s.addUnit core
      (if u.rest.isEmpty then { v with sub := u.next } else { v with sub := u.sub, next := u.next, part := u.part + 1, rest := u.rest })
    { s with tickets := s.tickets.map fun t => if t.1 == core && t.2.1 == u.id then (core, id, t.2.2) else t }

/-- A unit's verdict passes: its records are released, and what it counted is counted (R16, R135, R228, R231). A unit of a pre-pass brings
its maxima only: it is not rescaled and counts nothing (DEDUCED, log 26). A unit that is replayed after its release is counted once (R405), a
chunk in parts with its first part; the replays that led to a passing verdict count with it. -/
def State.releaseUnit (s : State) (core : Nat) (u : WorkUnit) (c : Cmd) (o : Op) : State :=
  let again := u.counted || 0 < u.part
  let s := if o.seedEntry.isSome || u.replay == u.passed then s else s.coreBump 0x5150 core (u.replay - u.passed)
  let s := if o.seedEntry.isSome || again then s else (s.passCounts core u).addFlags u.r u.p u.opFlags
  let s := s.updOp u.r u.p fun o =>
    { o with maxima := mergeMaxima o.maxima u.maxima
             truly := if again || o.seedEntry.isSome then o.truly else o.truly + u.truly
             misses := if again || o.seedEntry.isSome then o.misses else o.misses + u.misses }
  let s := if o.training c && !again then
      let s := if u.ovf && o.seedEntry.isNone then (s.coreBit core 7).cmdError u.r u.p (ticketErr 0x0601 (u.name core)) else s
      if o.seedEntry.isNone then s.pushRescale u c o else s
    else s
  let s := match u.err with | some e => s.cmdError u.r u.p (e.named (u.name core)) | none => s
  let v := { u with st := .released, counted := true, passed := u.replay }
  let s := (s.updUnit core u.id fun _ => v).nextPart core u
  let s := if s.readAll c o core u.id then s.freeHolds o.r o.p else s
  s.settleUnit core u.id

/-- The verdict of the unit that drained or computed last on a core. -/
def State.verdict (s : State) (core : Nat) (u : WorkUnit) (c : Cmd) (o : Op) (parity : Bool) : State :=
  let k := s.core core
  let s := s.setCore core { k with lastDrained := none }
  let u := if parity then u.failWith { kind := .parity } else u
  match u.fail with
  | some f => (s.updUnit core u.id fun _ => u).verdictFails core u f
  | none =>
    if o.training c && u.ovf && u.rescale < 3 && o.seedEntry.isNone then s.rescaleUnit core u
    else s.releaseUnit core u c o

def effTileVerdict (core : Nat) (parity : Bool) (s : State) : State :=
  match (s.core core).lastDrained.bind (s.unit core) with
  | none => s
  | some u =>
    match s.cmd u.r u.p, s.op u.r u.p with
    | some c, some o => if s.coreRuns core then s.verdict core u c o parity else s
    | _, _ => s

/-- TILE_VERDICT: the verdict of the tile or chunk whose records wait behind the last mark (R15, R158): release, integrity replay,
rescale replay, or the outcomes of R403. `parity` says that a bus its data crossed failed its parity. -/
def execTileVerdict (core : Nat) (parity : Bool) (s : State) : Out := answer (okCore core) (effTileVerdict core parity s)

end Sys2Proof.Machine
end

