-- ==== Sys2Proof/Machine/Vchain.lean ====
section
/-! DEFINITION. VCHAIN (R195 to R217, R221): its validation, the start of its op, and the work of one chunk. What the ops that work in
chunks share stands first (R178, R207). -/

namespace Sys2Proof.Machine

-- ## Chunks

/-- The chunk of an op that a core works on next: a failed one that starts again goes ahead (R18), then one that has begun to commit (R284). -/
def Core.nextChunk (c : Core) (r p : Nat) : Option WorkUnit :=
  let held := c.units.filter fun u => u.r == r && u.p == p && u.st == .held
  (held.find? fun u => 0 < u.replay) <|> (held.find? fun u => 0 < u.part || 0 < u.sub) <|> held.head?

/-- The pieces of a chunk that a unit computes: as many as fill a part of records with `bytes` of them for each piece, so that a part waits
for no read of a later one (R284; log 48). -/
def WorkUnit.items {α : Type} (u : WorkUnit) (all : List α) (bytes : Nat) : List α := (all.drop u.sub).take (max 1 (partBytes / max 1 bytes))

/-- The piece with which the next unit of a chunk begins, 0 for none. -/
def WorkUnit.nextItem {α : Type} (u : WorkUnit) (all : List α) (bytes : Nat) : Nat :=
  let n := u.sub + (u.items all bytes).length
  if n < all.length then n else 0

/-- A chunk has computed: the records of its next part wait behind its mark for its verdict, once the queue has room for them (R284). -/
def State.chunkDone (s0 : State) (core : Nat) (x : SlotOut) : State :=
  let cut := takePart partBytes (afterParts x.u.part x.recs)
  if !(s0.core core).fits cut.1 then s0.coreBump 0x5142 core 1
  else
    let v := { x.u with st := .drained, rest := cut.2, next := x.next }
    let s := (x.s.updUnit core x.u.id fun _ => v).enqueueRecords core v cut.1
    s.setCore core { s.core core with lastDrained := some x.u.id }

/-- A part of a chunk whose records have been computed with an earlier part's. -/
def State.partDone (s : State) (core : Nat) (u : WorkUnit) : State :=
  let cut := takePart partBytes u.rest
  if !(s.core core).fits cut.1 then s.coreBump 0x5142 core 1
  else
    let v := { u with st := .drained, rest := cut.2 }
    let s := (s.updUnit core u.id fun _ => v).enqueueRecords core v cut.1
    s.setCore core { s.core core with lastDrained := some u.id }

/-- How a kind of chunk computes a part, and what the part reads. -/
structure ChunkOp where
  run : State → Cmd → Op → WorkUnit → Who → Rd SlotOut
  reads : State → Cmd → Op → WorkUnit → Who → Reads

/-- A part of a chunk is computed, or the chunk goes on with the part that it has still to commit. A part whose reads fail has touched all that
it reads (DEDUCED, log 209). -/
def State.workChunk (s : State) (core : Nat) (u : WorkUnit) (c : Cmd) (o : Op) (f : ChunkOp) : State :=
  let w : Who := ⟨u.r, u.p, core, c.part⟩
  if !u.rest.isEmpty then s.partDone core u
  else s.slotChecked core u fun s =>
    match f.run s c o u w with
    | .error st => s.unitStop core u w st fun t u =>
      let t := t.readsDone w (f.reads s c o u w)
      t.chunkDone core { s := t, u := u }
    | .ok x => s.chunkDone core { x with s := x.s.readsDone w (f.reads s c o u w) }

/-- The next chunk that a core holds is worked on, when the verdict before it has been formed (R17). -/
def State.runChunk (s : State) (core r p : Nat) (f : ChunkOp) : State :=
  let k := s.core core
  match s.cmd r p, s.op r p, k.nextChunk r p with
  | some c, some o, some u =>
    if k.lastDrained.isSome || !s.coreRuns core || k.replayWaits u then s else s.workChunk core u c o f
  | _, _, _ => s

/-- A sequence of units begins on the ring's grid (R252). -/
def State.beginSeq (s : State) (c : Cmd) (units chain : Nat) (snaps : List Snap) : State :=
  match s.gridOp c units 1 true with
  | some o => s.beginOp { o with chain := chain, snaps := snaps }
  | none => s.cmdFail c.r c.p { code := 0x0807 }

-- ## The body (R204)

def Cmd.vSrc0 (c : Cmd) : Nat := c.f 19 0
def Cmd.vSrc1 (c : Cmd) : Nat := c.f 39 20
def Cmd.vDst (c : Cmd) : Nat := c.f 59 40
def Cmd.vIdx (c : Cmd) : Nat := c.f 79 60
def Cmd.vRstat (c : Cmd) : Nat := c.f 99 80
def Cmd.vMask (c : Cmd) : Nat := c.f 119 100
def Cmd.vCnt (c : Cmd) : Nat := c.f 139 120
def Cmd.vChain (c : Cmd) : Nat := c.f 255 192
def Cmd.vSeed (c : Cmd) : Nat := c.f 319 256
def Cmd.vRound (c : Cmd) : Nat := c.f 322 320

/-- The RED stage, its kind, D, and whether it takes MASK (R214). -/
def Chain.redStage (ch : Chain) : Option Stage := ch.stages.find? fun st => st.op == opRED
def Stage.redKind (st : Stage) : Nat := st.imm % 8
def Stage.redDims (st : Stage) : Nat := field st.imm 10 8
def Stage.redMask (st : Stage) : Bool := bitOf st.imm 3
def Chain.compressStage (ch : Chain) : Option Stage := ch.stages.find? fun st => st.op == opCOMPRESS
def Chain.expands (ch : Chain) : Bool := ch.uses opEXPAND

/-- Whether the chain needs MASK (R212 to R214). -/
def Chain.needsMask (ch : Chain) : Bool :=
  ch.expands
    || (match ch.compressStage with | some st => !bitOf st.imm 0 | none => false)
    || (match ch.redStage with | some st => st.redMask | none => false)

/-- The iteration space: SRC0's view, or DST's where the chain begins with EXPAND (R202). -/
def State.vSpace (s : State) (c : Cmd) (ch : Chain) : List Nat :=
  (tdDesc s (if ch.expands then c.vDst else c.vSrc0)).view

-- ## Validation (R201, R206, R212 to R214, R223, R224, R228)

/-- Whether the index source of a PERM table is INT16 or INT32 (R206, R210). -/
def State.permOk (s : State) (c : Cmd) (ch : Chain) (st : Stage) : Bool :=
  let fmt : Nat :=
    if 2 ≤ st.bsel && st.bsel ≤ 5 then (tdDesc s (ch.aux.getD (st.bsel - 2) 0)).fmt
    else if st.bsel == 8 then (tdDesc s c.vSrc1).fmt
    else ch.work
  st.op != opPERM || st.imm2 % 4 != 0 || fmt == 0x03 || fmt == 0x04

/-- What must hold of the tensors' extents, with the chain's iteration space. -/
def State.vShapes (s : State) (c : Cmd) (ch : Chain) : Option Err :=
  let d (h : Nat) : Desc := tdDesc s h
  let it := s.vSpace c ch
  let e0 := it.headD 1
  let tl := it.drop 1
  let dv := (d c.vDst).view
  let bad (h : Nat) (fmt : Option Nat) (ext : List Nat) : Bool :=
    h != 0 && ((d h).view != ext || (match fmt with | some f => (d h).fmt != f || (d h).tiled | none => false))
  let src := (d c.vSrc0).view
  let dstBad : Bool := match ch.redStage, ch.compressStage with
    | some st, _ => dv != List.replicate st.redDims 1 ++ it.drop st.redDims
    | none, some _ => dv.drop 1 != tl || dv.length != it.length || dv.headD 0 < e0
    | none, none => dv != it
  firstErr [
    errIf (ch.expands && (src.length != it.length || src.drop 1 != tl || e0 < src.headD 1)) (bodyErr 0x010B 0),
    errIf (bad c.vSrc1 none it) (bodyErr 0x010B 20),
    errIf dstBad (bodyErr 0x010B 40),
    errIf (bad c.vIdx (some 0x04) dv) (bodyErr 0x010B 60),
    errIf (bad c.vRstat (some 0x02) dv) (bodyErr 0x010B 80),
    errIf (bad c.vMask (some 0x04) (ceilDiv e0 32 :: tl)) (bodyErr 0x010B 100),
    errIf (bad c.vCnt (some 0x04) (1 :: tl)) (bodyErr 0x010B 120)]

def State.vchainErr (s : State) (c : Cmd) : Option Err :=
  match firstErr [
    c.reservedErr 0x0101 [(191, 140)],
    errIf (4 < c.vRound) (bodyErr 0x0101 320),
    c.reservedErr 0x0101 [(767, 323)],
    s.handleErr c.part ([(c.vSrc0, 0)] ++ present [(c.vSrc1, 20)] ++ [(c.vDst, 40)]
      ++ present [(c.vIdx, 60), (c.vRstat, 80), (c.vMask, 100), (c.vCnt, 120)]),
    s.chainAddr c.part c.vChain 192, s.chainLost c.vChain] with
  | some e => some e
  | none =>
    let ch := Chain.of (s.chainAt c.vChain)
    let d (h : Nat) : Desc := tdDesc s h
    let indexed := match ch.redStage with | some st => st.redKind == 2 || st.redKind == 3 | none => false
    let rank := (s.vSpace c ch).length
    let dims := match ch.redStage with | some st => st.redDims == 0 || rank < st.redDims | none => false
    let dv := (d c.vDst).view
    firstErr [
      errIf (ch.bad (c.vSrc1 != 0) || dims || (ch.needsMask && c.vMask == 0)) (bodyErr 0x0110 192),
      errIf (!indexed && c.vIdx != 0) (bodyErr 0x0101 60),
      errIf (ch.stages.any fun st => !ch.admits st.op) (bodyErr 0x020B 192),
      errIf ((d c.vSrc0).tiled) (bodyErr 0x0204 0),
      errIf (c.vSrc1 != 0 && (d c.vSrc1).tiled) (bodyErr 0x0204 20),
      errIf ((d c.vDst).tiled) (bodyErr 0x0204 40),
      errIf (c.vMask != 0 && (d c.vMask).tiled) (bodyErr 0x0204 100),
      s.vShapes c ch,
      s.chainTensors c.part 192 ch (s.vSpace c ch) (ceilDiv (dv.headD 1) 32 :: dv.drop 1),
      errIf ((d c.vDst).noStore) (bodyErr 0x0105 40),
      errIf (c.vIdx != 0 && (d c.vIdx).noStore) (bodyErr 0x0105 60),
      errIf (c.vRstat != 0 && (d c.vRstat).noStore) (bodyErr 0x0105 80),
      errIf (c.vCnt != 0 && (d c.vCnt).noStore) (bodyErr 0x0105 120),
      errIf (ch.stages.any fun st => !s.permOk c ch st) (bodyErr 0x020B 192),
      errIf (!ch.quants.isEmpty && (fmax (d c.vDst).fmt).isNone) (bodyErr 0x0110 192),
      s.almNotOwned (field c.vDst 19 18) c.part ch]

-- ## One row through the chain (R199, R202, R203, R210, R213)

/-- What the rows of a VCHAIN share. -/
structure VEnv where
  w : Who
  c : Cmd
  op : Op
  ch : Chain
  space : List Nat
  seeding : Option Nat

/-- The stages that its rows pass: all of them, or those before the ALMQ that a pre-pass seeds (R235). -/
def VEnv.stages (x : VEnv) : List Stage :=
  match x.seeding with | some e => x.ch.stages.take (x.ch.beforeQ e) | none => x.ch.stages

/-- An element in flight: its running value, what its stages read, and the raw integers of its auxiliaries and SRC1, which a PERM table
takes as indices (R61). -/
structure VElem where
  run : ElemRun
  env : ElemEnv
  raws : List Int
  raw1 : Int

/-- A row in flight, with the indices clamped so far. -/
structure VRow where
  es : List VElem
  clamps : Nat := 0
  short : Nat := 0

def product (l : List Nat) : Nat := l.foldl (· * ·) 1

/-- The bits of a mask tensor along dimension 0 of a row (R205). -/
def State.maskBits (s : State) (w : Who) (h e0 : Nat) (tl : List Nat) : Rd (List Bool) :=
  Rd.bind (Rd.all (fun v => s.readElem w (tdDesc s h) 2 (v :: tl)) (List.range (ceilDiv e0 32))) fun ws =>
    .ok ((List.range e0).map fun i => match ws[i / 32]? with | some e => bitOf e.code (i % 32) | none => false)

/-- Values placed in order where the mask is set; a lane beyond the last value gets +0 and is counted (R213). -/
def expandRow : List Bool → List Val → List Val × Nat
  | [], _ => ([], 0)
  | false :: bs, vs => let r := expandRow bs vs; (.zero :: r.1, r.2)
  | true :: bs, [] => let r := expandRow bs []; (.zero :: r.1, r.2 + 1)
  | true :: bs, v :: vs => let r := expandRow bs vs; (v :: r.1, r.2)

/-- The input of `n` elements of a row from `lo` on, with the lanes that an EXPAND, which takes whole rows, left short. -/
def State.rowInput (s : State) (x : VEnv) (tl : List Nat) (lo n : Nat) : Rd (List Val × Nat) :=
  let c := x.c
  let d := tdDesc s c.vSrc0
  if x.ch.expands then
    Rd.bind (if c.vCnt == 0 then .ok (d.viewExt 0)
      else Rd.bind (s.readElem x.w (tdDesc s c.vCnt) 2 (0 :: tl)) fun e =>
        .ok (min (d.viewExt 0) (signed 32 e.code).toNat)) fun k =>
    Rd.bind (Rd.all (fun i => s.readVal x.w d 0 (i :: tl)) (List.range k)) fun vs =>
    Rd.bind (s.maskBits x.w c.vMask n tl) fun bs => .ok (expandRow bs vs)
  else
    Rd.bind (Rd.all (fun i => s.readVal x.w d 0 ((lo + i) :: tl)) (List.range n)) fun vs => .ok (vs, 0)

/-- An operand that may be absent, as an element and as an integer. -/
def State.auxAt (s : State) (w : Who) (h : Nat) (idx : List Nat) : Rd (Val × Int) :=
  if h == 0 then .ok (.zero, 0)
  else
    let d := tdDesc s h
    Rd.bind (s.readElem w d 2 idx) fun e => .ok (e.val d.fmt, signed (elemBits d.fmt) e.code)

/-- An element enters the chain (R196). -/
def State.enterElem (s : State) (x : VEnv) (tl : List Nat) (i : Nat) (v : Val) : Rd VElem :=
  Rd.bind (Rd.all (fun h => s.auxAt x.w h (i :: tl)) x.ch.aux) fun aux =>
  Rd.bind (s.auxAt x.w x.c.vSrc1 (i :: tl)) fun s1 =>
    let env := x.ch.mkEnv (aux.map (·.1)) s1.1 x.op.useMap x.op.nextMap 0 x.c.vSeed (linearIndex x.space (i :: tl))
    let e := x.ch.enter v
    .ok { run := { x := e.1, sat := env.2 || e.2 }, env := env.1, raws := aux.map (·.2), raw1 := s1.2 }

/-- The source lane that lane `i` of a vector of present length `pl` names under a PERM stage (R210). -/
def permSource (ch : Chain) (st : Stage) (e : VElem) (i pl : Nat) : Int :=
  match st.imm2 % 4 with
  | 0 =>
    if 2 ≤ st.bsel && st.bsel ≤ 5 then e.raws.getD (st.bsel - 2) 0
    else if st.bsel == 8 then e.raw1
    else (e.run.operand ch e.env st st.bsel).toInt
  | 1 => (pl : Int) - 1 - i
  | 2 => ((i + st.imm) % pl : Nat)
  | _ => (i ^^^ (st.imm % 512) : Nat)

/-- A PERM stage over a row: every lane receives its source lane's value; each clamp is counted (R210). -/
def VRow.perm (r : VRow) (ch : Chain) (st : Stage) : VRow :=
  let n := r.es.length
  let out := r.es.zipIdx.map fun ei =>
    let v0 := ei.2 / ch.lanes * ch.lanes
    let pl := min ch.lanes (n - v0)
    let j := clampIndex (permSource ch st ei.1 (ei.2 - v0) pl) pl
    let v := match r.es[v0 + j.1]? with | some e => e.run.x | none => .zero
    let run := { ei.1.run with x := v }
    let run : ElemRun := match st.save with
      | 1 => { run with h0 := v }
      | 2 => { run with h1 := v }
      | _ => run
    (({ ei.1 with run := run } : VElem), j.2)
  { r with es := out.map (·.1), clamps := r.clamps + (out.filter (·.2)).length }

/-- Stages `k` and up over a row. -/
def VRow.stages (ch : Chain) : Nat → List Stage → VRow → VRow
  | _, [], r => r
  | k, st :: sts, r =>
    let r := if st.op == opPERM then r.perm ch st
      else { r with es := r.es.map fun e => { e with run := e.run.stage ch e.env k st } }
    VRow.stages ch (k + 1) sts r

/-- `n` elements of a row from `lo` on through the chain, or through the stages before the ALMQ that a pre-pass seeds. -/
def State.vRow (s : State) (x : VEnv) (tl : List Nat) (lo n : Nat) : Rd VRow :=
  Rd.bind (s.rowInput x tl lo n) fun inp =>
  Rd.bind (Rd.all (fun vi => s.enterElem x tl (lo + vi.2) vi.1) inp.1.zipIdx) fun es =>
    .ok (VRow.stages x.ch 0 x.stages { es := es, short := inp.2 })

-- ## Stores of a row (R212, R221)

/-- What a chunk's rows add up to. -/
structure VOut where
  recs : List Dest := []
  sat : Bool := false
  clamps : Nat := 0
  short : Nat := 0
  empties : Nat := 0
  maxima : AMap Nat := []
  vectors : Nat := 0
  /-- Vectors that passed a PERM stage. -/
  perms : Nat := 0

def VOut.append (a b : VOut) : VOut :=
  { recs := a.recs ++ b.recs, sat := a.sat || b.sat, clamps := a.clamps + b.clamps, short := a.short + b.short
    empties := a.empties + b.empties, maxima := mergeMaxima a.maxima b.maxima, vectors := a.vectors + b.vectors
    perms := a.perms + b.perms }

/-- What the rows themselves count. -/
def VRow.out (r : VRow) (x : VEnv) : VOut :=
  { sat := r.es.any fun e => e.run.sat, clamps := r.clamps, short := r.short
    maxima := match x.seeding with
      | some q => r.es.foldl (fun m e => noteMax m q e.run.x) []
      | none => r.es.foldl (fun m e => mergeMaxima m e.run.maxima) []
    vectors := ceilDiv r.es.length x.ch.lanes
    perms := ceilDiv r.es.length x.ch.lanes * (x.stages.filter fun st => st.op == opPERM).length }

/-- Values of a row from position `lo` on into DST, with their observed zero mask. -/
def State.vStore (s : State) (x : VEnv) (tl : List Nat) (lo : Nat) (vs : List Val) : Rd VOut :=
  let c := x.c
  Rd.bind (s.storeRun x.w (tdDesc s c.vDst) (fun p => p :: tl) lo vs c.vRound c.vSeed) fun st =>
  Rd.bind (if x.ch.zmask == 0 then .ok []
    else s.storeCodes (tdDesc s x.ch.zmask) (fun w => w :: tl) (lo / 32) (maskWords st.nonzero)) fun z =>
    .ok { recs := st.recs ++ z, sat := st.sat }

/-- The values that a COMPRESS keeps, in lane order, and their number. -/
def State.compressRow (s : State) (x : VEnv) (st : Stage) (tl : List Nat) (vs : List Val) : Rd (List Val) :=
  Rd.bind (if bitOf st.imm 0 then .ok (vs.map fun v => !v.isZero) else s.maskBits x.w x.c.vMask vs.length tl) fun bs =>
    .ok ((vs.zip bs).filterMap fun vb => if vb.2 then some vb.1 else none)

/-- `n` elements of a row from `lo` on of a chain without RED; a COMPRESS takes whole rows. -/
def State.vPlainRow (s : State) (x : VEnv) (tl : List Nat) (lo n : Nat) : Rd VOut :=
  Rd.bind (s.vRow x tl lo n) fun r =>
    let vs := r.es.map fun e => e.run.x
    if x.seeding.isSome then .ok (r.out x)
    else match x.ch.compressStage with
      | none => Rd.bind (s.vStore x tl lo vs) fun o => .ok ((r.out x).append o)
      | some st =>
        Rd.bind (s.compressRow x st tl vs) fun kept =>
          let width := (tdDesc s x.c.vDst).viewExt 0
          Rd.bind (s.vStore x tl 0 (kept ++ List.replicate (width - kept.length) .zero)) fun o =>
          Rd.bind (if x.c.vCnt == 0 then .ok []
            else s.storeCodes (tdDesc s x.c.vCnt) (fun p => p :: tl) 0 [kept.length]) fun n =>
            .ok (((r.out x).append o).append { recs := n })

-- ## Reductions (R214 to R217)

/-- A running result: the value, its winner index, whether it has saturated. -/
structure RedAcc where
  v : Val
  idx : Nat := 0
  sat : Bool := false

/-- Whether `b` takes the place of `a` as an extremum: the first NaN wins, then the order of R43, then the lower index. -/
def RedAcc.beats (isMax : Bool) (a b : RedAcc) : Bool :=
  if a.v.isNan || b.v.isNan then b.v.isNan && (!a.v.isNan || b.idx < a.idx)
  else if (if isMax then a.v.rankLt b.v else b.v.rankLt a.v) then true
  else if (if isMax then b.v.rankLt a.v else a.v.rankLt b.v) then false
  else b.idx < a.idx

/-- Two running results combine (R214). -/
def RedAcc.combine (kind : Nat) (int : Bool) (round : Nat) (a b : RedAcc) : RedAcc :=
  let f := if int || kind == 4 then 0x04 else 0x15
  let join (v : Val) : RedAcc := let e := toFmt f round 0 v; { v := e.1, sat := a.sat || b.sat || e.2 }
  match kind with
  | 1 => join (Val.mul a.v b.v)
  | 2 => if RedAcc.beats true a b then { b with sat := a.sat || b.sat } else { a with sat := a.sat || b.sat }
  | 3 => if RedAcc.beats false a b then { b with sat := a.sat || b.sat } else { a with sat := a.sat || b.sat }
  | _ => join (Val.add round a.v b.v)

def redJoin (kind : Nat) (int : Bool) (round : Nat) : Option RedAcc → Option RedAcc → Option RedAcc
  | some a, some b => some (RedAcc.combine kind int round a b)
  | some a, none => some a
  | none, b => b

/-- Lane 2i with lane 2i + 1, level by level (R215). -/
def redPairs (kind : Nat) (int : Bool) (round : Nat) : List (Option RedAcc) → List (Option RedAcc)
  | a :: b :: rest => redJoin kind int round a b :: redPairs kind int round rest
  | l => l

def redTree (kind : Nat) (int : Bool) (round : Nat) : Nat → List (Option RedAcc) → Option RedAcc
  | 0, l => (l.headD none)
  | n + 1, l => redTree kind int round n (redPairs kind int round l)

/-- The identity of a kind (R216). -/
def redIdentity (kind : Nat) (ch : Chain) : RedAcc :=
  match kind with
  | 1 => { v := .fin false 1 0 }
  | 2 => { v := if ch.isInt then Val.ofInt (-(2 ^ (elemBits ch.work - 1))) else .inf true, idx := 0xFFFFFFFF }
  | 3 => { v := if ch.isInt then Val.ofInt (2 ^ (elemBits ch.work - 1) - 1) else .inf false, idx := 0xFFFFFFFF }
  | _ => { v := .zero }

/-- One row enters the lanes: position p goes to lane p mod lanes. `base` is the linear index of its first element. -/
def redRow (kind : Nat) (ch : Chain) (base : Nat) (vs : List Val) (bits : List Bool) (acc : List (Option RedAcc)) :
    List (Option RedAcc) :=
  vs.zipIdx.foldl (fun acc vi =>
    if bits.getD vi.2 true then
      let v := if kind == 4 then boolVal (!vi.1.isZero) else vi.1
      let l := vi.2 % ch.lanes
      acc.set l (redJoin kind ch.isInt ch.round (acc.getD l none) (some { v := v, idx := base + vi.2 }))
    else acc) acc

/-- The rows of an output element in iteration order: their lanes and what they count. -/
def State.redRows (s : State) (x : VEnv) (st : Stage) (oidx : List Nat) : List Nat → Rd (List (Option RedAcc) × VOut) →
    Rd (List (Option RedAcc) × VOut)
  | [], a => a
  | t :: ts, a =>
    let e0 := x.space.headD 1
    let tl := unlinear ((x.space.drop 1).take (st.redDims - 1)) t ++ oidx
    s.redRows x st oidx ts (Rd.bind a fun ao =>
      Rd.bind (s.vRow x tl 0 e0) fun r =>
      Rd.bind (if st.redMask then s.maskBits x.w x.c.vMask e0 tl else .ok []) fun bits =>
        .ok (redRow st.redKind x.ch (e0 * t) (r.es.map fun e => e.run.x) bits ao.1, ao.2.append (r.out x)))

/-- One output element of a reduction. -/
def State.redOut (s : State) (x : VEnv) (st : Stage) (o : Nat) : Rd VOut :=
  let oidx := unlinear (x.space.drop st.redDims) o
  let rows := product ((x.space.drop 1).take (st.redDims - 1))
  Rd.bind (s.redRows x st oidx (List.range rows) (.ok (List.replicate x.ch.lanes none, {}))) fun ao =>
    if x.seeding.isSome then .ok ao.2
    else
      let got := redTree st.redKind x.ch.isInt x.ch.round 9 ao.1
      let res := got.getD (redIdentity st.redKind x.ch)
      let tl := List.replicate (st.redDims - 1) 0 ++ oidx
      Rd.bind (s.vStore x tl 0 [res.v]) fun o =>
      let status := flagIf got.isNone 0 + flagIf res.v.isNan 1 + flagIf (res.sat || o.sat) 2
      Rd.bind (if x.c.vRstat == 0 then .ok [] else s.storeCodes (tdDesc s x.c.vRstat) (fun p => p :: tl) 0 [status]) fun rs =>
      Rd.bind (if x.c.vIdx == 0 then .ok [] else s.storeCodes (tdDesc s x.c.vIdx) (fun p => p :: tl) 0 [res.idx]) fun ix =>
        .ok ((ao.2.append o).append { recs := rs ++ ix, sat := res.sat, empties := if got.isNone then 1 else 0 })

-- ## A chunk (R207)

/-- Units of a VCHAIN. -/
def vUnits (ch : Chain) (space : List Nat) : Nat :=
  ceilDiv (match ch.redStage with | some st => product (space.drop st.redDims) | none => product (space.drop 1)) 64

/-- The rows or output elements of chunk `i`. -/
def chunkItems (total i size : Nat) : List Nat := (List.range (min size (total - size * i))).map fun j => size * i + j

def Rd.fold {α β : Type} (f : β → α → Rd β) : List α → β → Rd β
  | [], b => .ok b
  | a :: as, b => Rd.bind (f b a) fun b => Rd.fold f as b

/-- The rows or output elements of a chunk. -/
def VEnv.allItems (x : VEnv) (u : WorkUnit) : List Nat :=
  chunkItems (product (x.space.drop (match x.ch.redStage with | some st => st.redDims | none => 1))) u.index 64

/-- The pieces of a chunk: rows in runs of 512 elements, which hold whole vectors and whole packets. An output of a RED, a row that a COMPRESS or
EXPAND packs, a pre-pass's row and a row of split blocks is one piece (log 48). Each as its item, its first element and their number. -/
def State.vPieces (s : State) (x : VEnv) (u : WorkUnit) : List (Nat × Nat × Nat) :=
  let e0 := x.space.headD 1
  let d := tdDesc s x.c.vDst
  if x.ch.redStage.isSome || x.ch.compressStage.isSome || x.ch.expands || x.seeding.isSome || (isScaled d.fmt && !d.wholeBlocks) then
    (x.allItems u).map fun o => (o, 0, e0)
  else (x.allItems u).flatMap fun o => (List.range (ceilDiv e0 512)).map fun k => (o, 512 * k, min 512 (e0 - 512 * k))

/-- Bytes of a piece's records at most, of the outputs of a RED, or of what a pre-pass stores. -/
def State.vPieceBytes (s : State) (x : VEnv) : Nat :=
  if x.ch.redStage.isSome || x.seeding.isSome then 1
  else
    let d := tdDesc s x.c.vDst
    let n := if x.ch.compressStage.isSome then d.viewExt 0 else min 512 (x.space.headD 1)
    n * ceilDiv (elemBits d.fmt) 8 + (if isScaled d.fmt then n else 0) + 4 * ceilDiv n 32 + 4

def State.vItems (s : State) (x : VEnv) (u : WorkUnit) : List (Nat × Nat × Nat) := u.items (s.vPieces x u) (s.vPieceBytes x)

def State.vChunkOut (s : State) (x : VEnv) (u : WorkUnit) : Rd VOut :=
  Rd.fold (fun a o => Rd.bind (match x.ch.redStage with
    | some st => s.redOut x st o.1
    | none => s.vPlainRow x (unlinear (x.space.drop 1) o.1) o.2.1 o.2.2) fun b => .ok (a.append b)) (s.vItems x u) {}

/-- Whether the core's layout unit has work (R49, R50): a unit on the core that has not finished is of an op with a tensor whose view dimension
0 is not its stored dimension 0. -/
def State.layoutBusy (s : State) (core : Nat) : Bool :=
  (s.core core).units.any fun u => (u.st == .held || u.st == .open_) && match s.cmd u.r u.p with
    | some c => c.bodyHandles.any fun h => (tdDesc s h).order.headD 0 != 0
    | none => false

/-- The vectors of a chunk are counted (R222). While the layout unit has work, a PERM takes every second cycle of the network, so each of
its vectors waits one cycle (R211; DESIGN CHOICE, log 156: by units, not by cycles). -/
def State.vCounts (s : State) (core : Nat) (o : VOut) : State :=
  let s := s.coreBump 0x511C core o.vectors
  if o.perms != 0 && s.layoutBusy core then s.coreBump 0x511F core o.perms else s

/-- What a chunk's data counts (R62, R213, R216). -/
def VOut.note (o : VOut) (u : WorkUnit) : WorkUnit := ((u.note 0x5104 o.clamps).note 0x5120 o.empties).note 0x5121 o.short

/-- The runs of SRC0 that a part of a chunk reads: the indices above dimension 0, the first element and their number. -/
def VEnv.runsOf (x : VEnv) (items : List (Nat × Nat × Nat)) : List (List Nat × Nat × Nat) :=
  match x.ch.redStage with
  | none => items.map fun o => (unlinear (x.space.drop 1) o.1, o.2)
  | some st =>
    let inner := (x.space.drop 1).take (st.redDims - 1)
    items.flatMap fun o =>
      (List.range (product inner)).map fun t => (unlinear inner t ++ unlinear (x.space.drop st.redDims) o.1, o.2)

/-- What a part of a chunk reads of SRC0, SRC1, the AUX operands, MASK and CNT. -/
def State.vReads (s : State) (x : VEnv) (u : WorkUnit) : Reads :=
  (x.runsOf (s.vItems x u)).flatMap fun run =>
    let at_ (h : Nat) (b : Nat × Nat) : Reads :=
      if h == 0 then [] else [(tdDesc s h, (tdDesc s h).boxIdx 0 (b :: run.1.map fun i => (i, 1)))]
    at_ x.c.vSrc0 (if x.ch.expands then (0, (tdDesc s x.c.vSrc0).viewExt 0) else run.2)
      ++ (x.ch.aux ++ [x.c.vSrc1]).flatMap (at_ · run.2)
      ++ (if x.ch.needsMask then at_ x.c.vMask (run.2.1 / 32, ceilDiv run.2.2 32) else [])
      ++ (if x.ch.expands then at_ x.c.vCnt (0, 1) else [])

/-- What the chunks of a VCHAIN share. -/
def State.vEnv (s : State) (c : Cmd) (o : Op) (w : Who) : VEnv :=
  let ch := Chain.of o.chain
  { w := w, c := c, op := o, ch := ch, space := s.vSpace c ch, seeding := o.seedEntry }

def State.vChunk (s : State) (c : Cmd) (o : Op) (u : WorkUnit) (w : Who) : Rd SlotOut :=
  let x := s.vEnv c o w
  Rd.bind (s.vChunkOut x u) fun r =>
    .ok { s := s.vCounts w.core r
          u := r.note { u with maxima := r.maxima, flags := flagIf r.sat flagSATURATED ||| flagIf (r.clamps != 0) flagCLAMPED }
          recs := r.recs
          next := u.nextItem (s.vPieces x u) (s.vPieceBytes x) }

def vchainOp : ChunkOp := { run := State.vChunk, reads := fun s c o u w => s.vReads (s.vEnv c o w) u }

/-- The tensors that a VCHAIN reads. -/
def State.vInputs (s : State) (c : Cmd) (ch : Chain) : List Desc :=
  (([c.vSrc0, c.vSrc1, c.vMask] ++ (if ch.expands then [c.vCnt] else []) ++ ch.aux).filter (· != 0)).map fun h => tdDesc s h

def State.startVchain (s : State) (c : Cmd) : State :=
  if s.chainWaits c then s else
  s.orFail c (s.chainLost c.vChain) <|
  let block := s.chainAt c.vChain
  let ch := Chain.of block
  s.whenHeld c (s.vInputs c ch) fun s =>
    s.issueChain c (field c.vDst 19 18) ch fun s snaps => s.beginSeq c (vUnits ch (s.vSpace c ch)) block snaps

def effVchain (r p core : Nat) (s : State) : State :=
  match s.cmd r p with
  | none => s
  | some c =>
    if c.opcode != 0x12 then s
    else match c.phase with
      | .started => s.startVchain c
      | .running => s.runChunk core r p vchainOp
      | _ => s

/-- VCHAIN: a started command's op is issued (R202, R207); of a running one, the chunk that the core has claimed is computed. -/
def execVchain (r p core : Nat) (s : State) : Out := answer (okRing r && okCore core) (effVchain r p core s)

end Sys2Proof.Machine
end

