-- ==== Sys2Proof/Machine/Gather.lean ====
section
/-! DEFINITION. GATHER, SCATTER and SCATTER_ADD (R173 to R178, R458), and COMPRESS_STORE (R87 to R94). -/

namespace Sys2Proof.Machine

-- ## The body (R173)

def Cmd.gSrc (c : Cmd) : Nat := c.f 19 0
def Cmd.gDst (c : Cmd) : Nat := c.f 39 20
def Cmd.gIdx (c : Cmd) : Nat := c.f 59 40
def Cmd.gDim (c : Cmd) : Nat := c.f 63 61
def Cmd.gVia (c : Cmd) : Bool := c.opcode == 0x22 && bitOf c.body 64
def Cmd.gUnique (c : Cmd) : Bool := bitOf c.body 65
def Cmd.gTag (c : Cmd) : Nat := c.f 85 66
/-- A SCATTER that finds the last of duplicate indices by a tag tensor (R175). -/
def Cmd.gTagged (c : Cmd) : Bool := c.opcode == 0x21 && !c.gUnique
/-- The command that only triggers a merge (R176). -/
def Cmd.mergeOnly (c : Cmd) : Bool := c.gVia && c.final && c.gSrc == 0 && c.gIdx == 0

/-- The destination tensor of a valid context block of the own package; a bad one ends the op when its first record opens it (R180). -/
def State.ctxDest (s : State) (c : Cmd) : Option Desc :=
  let of (k : Nat) : Option Desc :=
    let b := CtxBlock.of (Mem.readNat s.mem k 64)
    if s.ctxOk b c.part then (s.liveHandle c.part b.dest).map TdEntry.desc else none
  if !c.rmt then of (memKey c.ctxa)
  else
    let wr := winRef c.ctxa
    if wr.1.1 == s.pkg then of (memKey ((s.slot (slotIndex wr.1.2.1 wr.1.2.2)).base + wr.2)) else none

/-- The tensor that the indices select in, and the other one, as (indexed, plain); none for the indexed one where only a context in
another package names it. -/
def State.gTensors (s : State) (c : Cmd) : Option Desc × Desc :=
  let d (h : Nat) : Desc := tdDesc s h
  if c.opcode == 0x20 then (some (d c.gSrc), d c.gDst)
  else if c.gVia then (s.ctxDest c, d c.gSrc)
  else (some (d c.gDst), d c.gSrc)

-- ## Validation (R177, R61, R173)

def State.gShapes (s : State) (c : Cmd) : Option Err :=
  let t := s.gTensors c
  let y := t.2
  let n := (tdDesc s c.gIdx).viewExt 0
  let ok (x : Desc) : Bool := (List.range x.rank).all fun v => y.viewExt v == (if v == c.gDim then n else x.viewExt v)
  firstErr [
    errIf ((tdDesc s c.gIdx).fmt != 0x03 && (tdDesc s c.gIdx).fmt != 0x04) (bodyErr 0x0205 40),
    errIf ((tdDesc s c.gIdx).rank != 1) (bodyErr 0x010B 40),
    errIf (y.rank ≤ c.gDim) (bodyErr 0x010B 61),
    errIf (y.viewExt c.gDim != n) (bodyErr 0x010B 40),
    match t.1 with
    | none => none
    | some x => errIf (x.rank != y.rank || !ok x) (bodyErr 0x010B 0),
    match t.1 with
    | some x => errIf (c.gTagged && ((tdDesc s c.gTag).fmt != 0x04 || (tdDesc s c.gTag).view != [x.viewExt c.gDim]))
        (bodyErr 0x010B 66)
    | none => none]

def State.gatherErr (s : State) (c : Cmd) : Option Err :=
  let d (h : Nat) : Desc := tdDesc s h
  match firstErr [
    errIf (c.gSrc == 0 && !c.mergeOnly) (bodyErr 0x0101 0),
    errIf (c.gVia && c.gDst != 0) (bodyErr 0x0101 20),
    errIf (c.gIdx == 0 && !c.mergeOnly) (bodyErr 0x0101 40),
    c.reservedErr 0x0101 [(60, 60)],
    errIf (!c.gTagged && c.gTag != 0) (bodyErr 0x0101 66),
    c.reservedErr 0x0101 [(666, 86), (703, 672)],
    errIf (!c.gVia && c.ctxa != 0) (bodyErr 0x0101 704),
    s.handleErr c.part ((if c.mergeOnly then [] else [(c.gSrc, 0)]) ++ (if c.gVia then [] else [(c.gDst, 20)])
      ++ (if c.mergeOnly then [] else [(c.gIdx, 40)]) ++ (if c.gTagged then [(c.gTag, 66)] else [])),
    if c.gVia then s.kpErr c else none] with
  | some e => some e
  | none =>
    if c.mergeOnly then none
    else firstErr [
      s.gShapes c,
      errIf (!c.gVia && (d c.gDst).tiled) (bodyErr 0x0204 20),
      errIf (c.gTagged && (d c.gTag).tiled) (bodyErr 0x0204 66),
      errIf (!c.gVia && (!(d c.gDst).wr || (c.opcode != 0x22 && (d c.gDst).red))) (bodyErr 0x0105 20),
      errIf (c.gTagged && (d c.gTag).noStore) (bodyErr 0x0105 66),
      errIf (c.opcode == 0x22 && !c.gVia && !sacFmt (d c.gDst).fmt) (bodyErr 0x020A 20)]

-- ## Positions and slices

/-- Chunks of positions (R178). -/
def State.gUnits (s : State) (c : Cmd) : Nat := if c.mergeOnly then 0 else ceilDiv ((tdDesc s c.gIdx).viewExt 0) 1024

/-- A view index with dimension `d` replaced. -/
def withDim (idx : List Nat) (d v : Nat) : List Nat := idx.set d v

/-- The view indices of a slice of the plain tensor, at position `j` along DIM. -/
def sliceIdx (view : List Nat) (dim j : Nat) : List (List Nat) :=
  let v := view.set dim 1
  (List.range (product v)).map fun n => withDim (unlinear v n) dim j

/-- The positions of a chunk. -/
def State.positions (s : State) (c : Cmd) (u : WorkUnit) : List Nat := chunkItems ((tdDesc s c.gIdx).viewExt 0) u.index 1024

/-- The clamped indices at positions of IDX, each with its position and whether it was clamped. -/
def State.chunkIndices (s : State) (w : Who) (c : Cmd) (ext : Nat) (js : List Nat) : Rd (List (Nat × Nat × Bool)) :=
  Rd.all (fun j => Rd.bind (s.readIndex w (tdDesc s c.gIdx) ext j) fun t => .ok (j, t.1, t.2)) js

-- ## The pieces of a chunk (R284; log 48)

def runsOf32 {α : Type} (l : List α) : List (List α) := (List.range (ceilDiv l.length 32)).map fun i => (l.drop (32 * i)).take 32

/-- Elements of equal keys together, in the order of each key's first element. -/
def groupsBy {α β : Type} [BEq β] (key : α → β) (l : List α) : List (List α) := (l.map key).eraseDups.map fun k => l.filter fun x => key x == k

/-- The block of a scaled tensor that holds a view index: the rest of the index and the block of dimension 0. -/
def Desc.blockKey (d : Desc) (idx : List Nat) : List Nat × Nat × Nat := (idx.drop 1, d.blockAt (idx.headD 0))

/-- The pieces in which the slices of a tensor at positions along `dim` are committed: whole blocks of a scaled destination, and runs of 32
elements otherwise. -/
def pieces (scaled : Option Desc) (view : List Nat) (dim : Nat) (js : List Nat) : List (List (List Nat)) :=
  match scaled with
  | some d => groupsBy d.blockKey (js.flatMap (sliceIdx view dim))
  | none => js.flatMap fun j => runsOf32 (sliceIdx view dim j)

/-- Bytes of a piece's records at most: a block with its scale, a run of elements, or of keyed records. -/
def pieceBytes (d : Desc) (via : Bool) (view : List Nat) (dim : Nat) : Nat :=
  let n := min 32 (product (view.set dim 1))
  if via then 64 * n else if isScaled d.fmt then 4 * elemBits d.fmt + 1 else n * ceilDiv (elemBits d.fmt) 8

/-- The pieces of a chunk over the tensor whose slices the positions name in order: DST of a GATHER, SRC of the others. -/
def State.gPieces (s : State) (c : Cmd) (u : WorkUnit) : List (List (List Nat)) :=
  let dst := tdDesc s c.gDst
  pieces (if c.gVia || !isScaled dst.fmt then none else some dst) (s.gTensors c).2.view c.gDim (s.positions c u)

def State.gPieceBytes (s : State) (c : Cmd) : Nat := pieceBytes (tdDesc s c.gDst) c.gVia (s.gTensors c).2.view c.gDim

/-- The view indices that a part works on, and its positions. -/
def State.partIdx (s : State) (c : Cmd) (u : WorkUnit) : List (List Nat) := (u.items (s.gPieces c u) (s.gPieceBytes c)).flatten
def State.partNext (s : State) (c : Cmd) (u : WorkUnit) : Nat := u.nextItem (s.gPieces c u) (s.gPieceBytes c)
def positionsOf (dim : Nat) (idxs : List (List Nat)) : List Nat := (idxs.map fun i => i.getD dim 0).eraseDups

/-- Whether a part holds the first element of a position's slice: a position that several parts share counts in that one. -/
def startsSlice (dim : Nat) (idxs : List (List Nat)) (j : Nat) : Bool := idxs.any fun i => (i.set dim 0).all (· == 0) && i.getD dim 0 == j

-- ## Moving elements (R41, R174, R458)

/-- An element on its way: where it goes in the destination's view, and what it is in the source's format. -/
structure Move where
  idx : List Nat
  e : Elem
  deriving DecidableEq, Repr

/-- The code of an element in another format: the same bits where the formats agree (R41), converted by R39 to nearest even otherwise
(DEDUCED, log 27). -/
def moveCode (from_ target : Nat) (e : Elem) : Nat × Bool :=
  if from_ == target then (e.code, false) else encode (fmtD target) 0 0 (e.val from_)

/-- Blocks of a scaled destination that a list of moves reaches, in order of their first element: rest of the index and block. -/
def Desc.moveBlocks (d : Desc) (ms : List Move) : List (List Nat × (Nat × Nat)) :=
  (ms.map fun m => (m.idx.drop 1, d.blockAt (m.idx.headD 0))).eraseDups

/-- Elements of `src` are stored into a strided destination: bit for bit where formats and blocks agree and whole rows move, by block
otherwise (R458). -/
def State.storeMoves (s : State) (w : Who) (src d : Desc) (dim : Nat) (ms : List Move) : Rd (List Dest × Bool) :=
  let from_ := src.fmt
  if !isScaled d.fmt then
    Rd.bind (Rd.all (fun m => s.storeElem d m.idx (moveCode from_ d.fmt m.e).1) ms) fun rs =>
      .ok (joinDests rs.flatten, ms.any fun m => (moveCode from_ d.fmt m.e).2)
  else if from_ == d.fmt && dim != 0 && src.wholeBlocks && d.wholeBlocks then
    -- a block with one NaN of scale 0xFF keeps that scale, whatever its absent elements read as
    let nan (m : Move) : Bool := ms.any fun n => n.e.scale == 0xFF && n.idx.drop 1 == m.idx.drop 1 && d.blockAt (n.idx.headD 0) == d.blockAt (m.idx.headD 0)
    Rd.bind (Rd.all (fun m => Rd.bind (s.place d (d.stored m.idx)) fun pl =>
      Rd.bind (s.padRecs d (d.stored m.idx)) fun pads =>
      .ok ((match pl.scale with | some l => [storeDest l 0 8 (if nan m then 0xFF else m.e.scale)] | none => [])
        ++ [storeDest pl.loc pl.bit (elemBits d.fmt) m.e.code] ++ pads)) ms) fun rs => .ok (joinDests rs.flatten, false)
  else
    Rd.bind (Rd.all (fun tb =>
      let mine := ms.filter fun m => m.idx.drop 1 == tb.1 && d.blockAt (m.idx.headD 0) == tb.2
      s.storeBlock w d (· :: tb.1) tb.2 (mine.foldl (fun a m => AMap.set a (m.idx.headD 0) (m.e.val from_)) []) 0 0) (d.moveBlocks ms))
      fun rs => .ok (rs.flatMap (·.recs), rs.any (·.sat))

/-- What a part that reads `src` at the view indices given leaves behind. -/
def State.chunkOut (s : State) (u : WorkUnit) (w : Who) (src : Desc) (srcIdx : List (List Nat)) (clamps : Nat) (sat : Bool)
    (recs : List Dest) (next : Nat := 0) : Rd SlotOut :=
  Rd.bind (s.sweepDrops w src 0 srcIdx) fun drops =>
    let earned := flagIf sat flagSATURATED ||| flagIf (clamps != 0) flagCLAMPED ||| flagIf (drops != 0) flagMETA_DROP
    .ok { s := s
          u := ({ u with flags := u.flags ||| earned }.note 0x5104 clamps).note 0x5105 drops
          recs := recs
          next := next }

/-- The clamped indices that a part counts. -/
def clampsOf (dim : Nat) (idxs : List (List Nat)) (ix : List (Nat × Nat × Bool)) : Nat :=
  (ix.filter fun jt => jt.2.2 && startsSlice dim idxs jt.1).length

/-- The target of a position. -/
def targetOf (ix : List (Nat × Nat × Bool)) (j : Nat) : Nat := ((ix.find? fun jt => jt.1 == j).map (·.2.1)).getD 0

/-- Elements read from `src`, each on its way to its place. -/
def State.readMoves (s : State) (w : Who) (src : Desc) (pairs : List (List Nat × List Nat)) : Rd (List Move) :=
  Rd.all (fun p => Rd.bind (s.readElem w src 0 p.2) fun e => .ok ({ idx := p.1, e := e } : Move)) pairs

/-- GATHER: DST[…, j, …] = SRC[…, IDX[j], …] (R174), for the elements of DST of a part. -/
def State.gatherChunk (s : State) (c : Cmd) (_ : Op) (u : WorkUnit) (w : Who) : Rd SlotOut :=
  let src := tdDesc s c.gSrc
  let dst := tdDesc s c.gDst
  let idxs := s.partIdx c u
  Rd.bind (s.chunkIndices w c (src.viewExt c.gDim) (positionsOf c.gDim idxs)) fun ix =>
    let pairs := idxs.map fun i => (i, withDim i c.gDim (targetOf ix (i.getD c.gDim 0)))
    Rd.bind (s.readMoves w src pairs) fun ms =>
    Rd.bind (s.storeMoves w src dst c.gDim ms) fun r =>
      s.chunkOut u w src (pairs.map (·.2)) (clampsOf c.gDim idxs ix) r.2 r.1 (s.partNext c u)

-- ## SCATTER (R175)

/-- The record of an extremum into an INT32 element: a lane of its line. -/
def maxDest (l : Loc) (v : Nat) : Dest :=
  let line (o : Nat) : BitVec 512 := BitVec.ofNat 512 ((v % 2 ^ 32) <<< (8 * (o % 64)))
  let mask (o : Nat) : BitVec 16 := BitVec.ofNat 16 (2 ^ (o % 64 / 4))
  match l with
  | .mem a => .extremum (a - a % 64) true 0x04 (mask a) (line a)
  | .win cs o => .windowMax cs (o - o % 64) 0x04 (mask o) (line o)

/-- Of the positions that select one target, the one whose slice an element keeps: free under UNIQUE = 1 when there are several. -/
def State.pickPos (s : State) (n : Nat) (js : List Nat) : Nat :=
  match js with
  | [] => 0
  | [j] => j
  | js => js.getD (Config.freePick (s.freeCtr + n) js.length % js.length) 0

/-- The positions whose slices are written: with a tag tensor those that won, otherwise all (R175). -/
def State.winners (s : State) (w : Who) (c : Cmd) (ix : List (Nat × Nat × Bool)) : Rd (List (Nat × Nat)) :=
  if !c.gTagged then .ok (ix.map fun jt => (jt.1, jt.2.1))
  else
    Rd.bind (Rd.all (fun jt => Rd.bind (s.readElem w (tdDesc s c.gTag) 2 [jt.2.1]) fun e =>
      .ok (jt.1, jt.2.1, signed 32 e.code == (jt.1 : Int))) ix) fun r =>
      .ok ((r.filter (·.2.2)).map fun jt => (jt.1, jt.2.1))

/-- The elements of SRC at `idxs` of the positions that won, each with the element of DST that it goes to. -/
def State.scatterPairs (s : State) (c : Cmd) (ws : List (Nat × Nat)) (idxs : List (List Nat)) : List (List Nat × List Nat) :=
  let dst := tdDesc s c.gDst
  let all := idxs.flatMap fun i => (ws.filter fun jt => jt.1 == i.getD c.gDim 0).map fun jt => (withDim i c.gDim jt.2, jt.1)
  (all.map (·.1)).eraseDups.map fun to_ =>
    (to_, withDim to_ c.gDim (s.pickPos (linearIndex dst.view to_) ((all.filter fun x => x.1 == to_).map (·.2))))

/-- Whether the elements of one block of DST come from many positions: a scaled DST along dimension 0 (R458). -/
def State.crossesBlocks (s : State) (c : Cmd) : Bool := isScaled (tdDesc s c.gDst).fmt && c.gDim == 0

/-- The elements of SRC whose positions a part of phase 2 reads: those of its pieces, or of the whole chunk where blocks are formed from data. -/
def State.scatterIdx (s : State) (c : Cmd) (u : WorkUnit) : List (List Nat) :=
  if s.crossesBlocks c then (s.gPieces c u).flatten else s.partIdx c u

/-- The moves of a part, and the piece with which the next one begins. -/
def State.scatterPart (s : State) (c : Cmd) (u : WorkUnit) (ws : List (Nat × Nat)) : List (List Nat × List Nat) × Nat :=
  let all := s.scatterPairs c ws (s.scatterIdx c u)
  if s.crossesBlocks c then
    let blocks := groupsBy (fun p => (tdDesc s c.gDst).blockKey p.1) all
    ((u.items blocks (s.gPieceBytes c)).flatten, u.nextItem blocks (s.gPieceBytes c))
  else (all, s.partNext c u)

/-- Phase 2: the winning slices of SRC go to DST. -/
def State.scatterMove (s : State) (c : Cmd) (u : WorkUnit) (w : Who) (ix : List (Nat × Nat × Bool)) : Rd SlotOut :=
  let src := tdDesc s c.gSrc
  let dst := tdDesc s c.gDst
  let idxs := s.scatterIdx c u
  let counts (j : Nat) : Bool := if s.crossesBlocks c then u.sub == 0 else startsSlice c.gDim idxs j
  Rd.bind (s.winners w c ix) fun ws =>
    let part := s.scatterPart c u ws
    let losers := ix.filter fun jt => counts jt.1 && !ws.any fun x => x.1 == jt.1
    Rd.bind (s.readMoves w src part.1) fun ms =>
    Rd.bind (s.storeMoves w src dst c.gDim ms) fun r =>
      (s.useFree (product dst.view)).chunkOut (u.note 0x511B losers.length) w src (part.1.map (·.2))
        (ix.filter fun jt => jt.2.2 && counts jt.1).length r.2 r.1 part.2

/-- A chunk of a SCATTER in the op's phase. An index is clamped in every phase, and counted in the last (R62). -/
def State.scatterChunk (s : State) (c : Cmd) (o : Op) (u : WorkUnit) (w : Who) : Rd SlotOut :=
  let tag := tdDesc s c.gTag
  let js := if o.phase < 2 then s.positions c u else positionsOf c.gDim (s.scatterIdx c u)
  Rd.bind (s.chunkIndices w c ((tdDesc s c.gDst).viewExt c.gDim) js) fun ix =>
    match o.phase with
    | 0 =>
      Rd.bind (Rd.all (fun jt => s.storeElem tag [jt.2.1] 0xFFFFFFFF) ix) fun rs => s.chunkOut u w tag [] 0 false (joinDests rs.flatten)
    | 1 =>
      Rd.bind (Rd.all (fun jt => Rd.bind (s.place tag (tag.stored [jt.2.1])) fun pl => .ok (maxDest pl.loc jt.1)) ix) fun rs =>
        s.chunkOut u w tag [] 0 false rs
    | _ => s.scatterMove c u w ix

/-- Whether all work of an op's present phase has landed (R260): every block is handed out, no unit is left on a core but tiles left open
for a later op, and no record waits for its answer. -/
def State.opQuiet (s : State) (o : Op) : Bool :=
  o.blocks.all (fun b => b.lost || (b.size ≤ b.next && b.reissue.isEmpty))
    && s.cores.all (fun kc => kc.2.units.all fun u => !(u.r == o.r && u.p == o.p)
        || (u.st == .finished && !(o.snaps.any (·.seeding)) && (match u.contribs.getLast? with | some x => !(contribCmd x).ends | none => false)))
    && s.cores.all (fun kc => kc.2.outq.all fun x => !(x.r == o.r && x.p == o.p))
    && s.txns.all (fun t => !(t.r == o.r && t.p == o.p && t.kind == .write))
    && s.reissueWait.all (fun x => !(x.1 == o.r && x.2.1 == o.p))

/-- The barrier between the phases of a SCATTER: the work begins again in the next phase (R175). Its tickets take epochs that no ticket made
stale in an earlier phase had (DESIGN CHOICE, log 157). -/
def State.nextPhase (s : State) (o : Op) : State :=
  s.updOp o.r o.p fun o =>
    { o with phase := o.phase + 1, landed := 0
             blocks := o.blocks.map fun b => { b with next := if b.lost then b.next else 0, reissue := [], base := b.top } }

-- ## SCATTER_ADD (R176, R182)

/-- The record of one lane's add (R167). -/
def addDest (l : Loc) (fmt code : Nat) : Dest :=
  let w := laneBits fmt / 8
  let line (o : Nat) : BitVec 512 := BitVec.ofNat 512 (code <<< (8 * (o % 64)))
  let mask (o : Nat) : BitVec 32 := BitVec.ofNat 32 (2 ^ (o % 64 / w))
  match l with
  | .mem a => .add (a - a % 64) fmt (mask a) (line a)
  | .win cs o => .windowAdd cs (o - o % 64) fmt (mask o) (line o)

/-- Neighbouring adds of one slice into one line are one record. -/
def joinAdds : List Dest → List Dest
  | [] => []
  | a :: rest =>
    match joinAdds rest with
    | [] => [a]
    | b :: bs =>
      match a, b with
      | .add a₁ f₁ m₁ d₁, .add a₂ f₂ m₂ d₂ =>
        if a₁ == a₂ && f₁ == f₂ && m₁ &&& m₂ == 0 then .add a₁ f₁ (m₁ ||| m₂) (d₁ ||| d₂) :: bs else a :: b :: bs
      | .windowAdd c₁ o₁ f₁ m₁ d₁, .windowAdd c₂ o₂ f₂ m₂ d₂ =>
        if c₁ == c₂ && o₁ == o₂ && f₁ == f₂ && m₁ &&& m₂ == 0 then .windowAdd c₁ o₁ f₁ (m₁ ||| m₂) (d₁ ||| d₂) :: bs
        else a :: b :: bs
      | _, _ => a :: b :: bs

/-- Elements of SRC converted to a lane format (R176): index in SRC's view, code, saturation. -/
def State.sliceCodes (s : State) (w : Who) (c : Cmd) (fmt : Nat) (idxs : List (List Nat)) : Rd (List (List Nat × Nat × Bool)) :=
  Rd.all (fun i => Rd.bind (s.readVal w (tdDesc s c.gSrc) 0 i) fun v => .ok (i, encode (fmtD fmt) 0 0 v)) idxs

/-- Elements of a slice by bank adds, `t` their target along DIM. -/
def State.addSlice (s : State) (w : Who) (c : Cmd) (t : Nat) (idxs : List (List Nat)) : Rd (List Dest × Bool) :=
  let dst := tdDesc s c.gDst
  Rd.bind (s.sliceCodes w c dst.fmt idxs) fun es =>
  Rd.bind (Rd.all (fun e => Rd.bind (s.place dst (dst.stored (withDim e.1 c.gDim t))) fun pl =>
    .ok (addDest pl.loc dst.fmt e.2.1)) es) fun rs => .ok (joinAdds rs, es.any (·.2.2))

/-- Elements of a slice from its element `e0` on as keyed records (R182). Where DIM selects along DEST's stored dimension 1, the slice is one row;
otherwise each element is one lane of a record of its own row. `stored1` says which. -/
def keyedSlice (c : Cmd) (kd : KeyDest) (stored1 : Bool) (t e0 : Nat) (codes : List Nat) : List Dest :=
  if stored1 then keyedRecords c.ctxa c.rmt c.kpSplit t e0 kd codes
  else codes.zipIdx.flatMap fun vr => keyedRecords c.ctxa c.rmt c.kpSplit (e0 + vr.2) t kd [vr.1]

def State.keyedSliceAt (s : State) (w : Who) (c : Cmd) (kd : KeyDest) (stored1 : Bool) (t : Nat) (idxs : List (List Nat)) :
    Rd (List Dest × Bool) :=
  let view := (tdDesc s c.gSrc).view
  let e0 := linearIndex (view.set c.gDim 1) (withDim (idxs.headD []) c.gDim 0)
  Rd.bind (s.sliceCodes w c kd.fmt idxs) fun es =>
    .ok (keyedSlice c kd stored1 t e0 (es.map (·.2.1)), es.any (·.2.2))

/-- The extent that the indices of a SCATTER_ADD are clamped to. -/
def State.addExt (s : State) (c : Cmd) : Nat :=
  if c.gVia then (match s.ctxDest c with | some d => d.viewExt c.gDim | none => (s.keyDest c.ctxa c.rmt).rows) else (tdDesc s c.gDst).viewExt c.gDim

def State.scatterAddChunk (s : State) (c : Cmd) (_ : Op) (u : WorkUnit) (w : Who) : Rd SlotOut :=
  let src := tdDesc s c.gSrc
  let kd := s.keyDest c.ctxa c.rmt
  let stored1 := match s.ctxDest c with | some d => d.order.getD c.gDim 1 == 1 | none => c.gDim == 1
  let idxs := s.partIdx c u
  Rd.bind (s.chunkIndices w c (s.addExt c) (positionsOf c.gDim idxs)) fun ix =>
  Rd.bind (Rd.all (fun jt =>
      let mine := idxs.filter fun i => i.getD c.gDim 0 == jt.1
      if c.gVia then s.keyedSliceAt w c kd stored1 jt.2.1 mine else s.addSlice w c jt.2.1 mine) ix) fun rs =>
    s.chunkOut u w src idxs (clampsOf c.gDim idxs ix) (rs.any (·.2)) (rs.flatMap (·.1)) (s.partNext c u)

-- ## What a part reads (R323)

/-- IDX at positions, and what `f` reads once they are known. -/
def State.idxReads (s : State) (c : Cmd) (w : Who) (ext : Nat) (js : List Nat) (f : List (Nat × Nat × Bool) → Reads) : Reads :=
  (tdDesc s c.gIdx, js.map fun j => [j]) :: (match s.chunkIndices w c ext js with | .ok ix => f ix | .error _ => [])

def State.gatherReads (s : State) (c : Cmd) (_ : Op) (u : WorkUnit) (w : Who) : Reads :=
  let src := tdDesc s c.gSrc
  let idxs := s.partIdx c u
  s.idxReads c w (src.viewExt c.gDim) (positionsOf c.gDim idxs) fun ix =>
    [(src, idxs.map fun i => withDim i c.gDim (targetOf ix (i.getD c.gDim 0)))]

def State.scatterReads (s : State) (c : Cmd) (o : Op) (u : WorkUnit) (w : Who) : Reads :=
  let js := if o.phase < 2 then s.positions c u else positionsOf c.gDim (s.scatterIdx c u)
  s.idxReads c w ((tdDesc s c.gDst).viewExt c.gDim) js fun ix =>
    if o.phase < 2 then []
    else (if c.gTagged then [(tdDesc s c.gTag, ix.map fun jt => [jt.2.1])] else [])
      ++ (match s.winners w c ix with | .ok ws => [(tdDesc s c.gSrc, (s.scatterPart c u ws).1.map (·.2))] | .error _ => [])

def State.scatterAddReads (s : State) (c : Cmd) (_ : Op) (u : WorkUnit) (w : Who) : Reads :=
  s.idxReads c w (s.addExt c) (positionsOf c.gDim (s.partIdx c u)) fun _ => [(tdDesc s c.gSrc, s.partIdx c u)]

def gatherOp : ChunkOp := { run := State.gatherChunk, reads := State.gatherReads }
def scatterOp : ChunkOp := { run := State.scatterChunk, reads := State.scatterReads }
def scatterAddOp : ChunkOp := { run := State.scatterAddChunk, reads := State.scatterAddReads }

-- ## The commands

def State.gInputs (s : State) (c : Cmd) : List Desc := ([c.gSrc, c.gIdx].filter (· != 0)).map fun h => tdDesc s h

/-- A merge-only op has no work to hand out, but it takes the grid as the others do (R176, R247, R250). -/
def State.startGather (s : State) (c : Cmd) (phase : Nat) : State :=
  if c.mergeOnly then (s.beginSeq c 0 0 []).updOp c.r c.p fun o => { o with phase := phase }
  else s.whenHeld c (s.gInputs c) fun s => (s.beginSeq c (s.gUnits c) 0 []).updOp c.r c.p fun o => { o with phase := phase }

def effGather (r p core : Nat) (s : State) : State :=
  match s.cmd r p with
  | none => s
  | some c =>
    if c.opcode != 0x20 then s
    else match c.phase with
      | .started => s.startGather c 2
      | .running => s.runChunk core r p gatherOp
      | _ => s

/-- GATHER (R174). -/
def execGather (r p core : Nat) (s : State) : Out := answer (okRing r && okCore core) (effGather r p core s)

def State.runScatter (s : State) (core : Nat) (o : Op) : State :=
  if o.phase < 2 && s.opQuiet o then s.nextPhase o else s.runChunk core o.r o.p scatterOp

def effScatter (r p core : Nat) (s : State) : State :=
  match s.cmd r p with
  | none => s
  | some c =>
    if c.opcode != 0x21 then s
    else match c.phase, s.op r p with
      | .started, _ => s.startGather c (if c.gUnique then 2 else 0)
      | .running, some o => s.runScatter core o
      | _, _ => s

/-- SCATTER (R175). -/
def execScatter (r p core : Nat) (s : State) : Out := answer (okRing r && okCore core) (effScatter r p core s)

def effScatterAdd (r p core : Nat) (s : State) : State :=
  match s.cmd r p with
  | none => s
  | some c =>
    if c.opcode != 0x22 then s
    else match c.phase with
      | .started => s.startGather c 2
      | .running => s.runChunk core r p scatterAddOp
      | _ => s

/-- SCATTER_ADD (R176). -/
def execScatterAdd (r p core : Nat) (s : State) : Out := answer (okRing r && okCore core) (effScatterAdd r p core s)

-- ## COMPRESS_STORE

def Cmd.csSrc (c : Cmd) : Nat := c.f 19 0
def Cmd.csDst (c : Cmd) : Nat := c.f 39 20

/-- R88, in its order; a reserved ROUND is a bad store control (R35). -/
def State.compressErr (s : State) (c : Cmd) : Option Err :=
  let d (h : Nat) : Desc := tdDesc s h
  match firstErr [
    c.reservedErr 0x0101 [(71, 40), (78, 76), (95, 81), (767, 256)],
    s.handleErr c.part [(c.csSrc, 0), (c.csDst, 20)]] with
  | some e => some e
  | none => firstErr [
      errIf (!(d c.csDst).tiled) (bodyErr 0x0204 20),
      errIf ((d c.csDst).noStore) (bodyErr 0x0105 20),
      errIf ((d c.csSrc).view != (d c.csDst).view) (bodyErr 0x010B 20),
      errIf (4 < c.store.round) (bodyErr 0x010A 96),
      s.storeErr c.part c.store (d c.csDst) true]

/-- Tiles along each view dimension of a tiled tensor. -/
def Desc.tileGrid (d : Desc) : List Nat := d.view.zipIdx.map fun ev => if ev.2 < 2 then ceilDiv ev.1 128 else ev.1

/-- What a COMPRESS_STORE reads of SRC for a tile of DST. -/
def State.compressReads (s : State) (c : Cmd) (_ : Op) (u : WorkUnit) (_ : Who) : Reads :=
  let t := unlinear (tdDesc s c.csDst).tileGrid u.index
  [(tdDesc s c.csSrc, (tdDesc s c.csSrc).boxIdx 0 ((128 * t.getD 0 0, 128) :: (128 * t.getD 1 0, 128) :: (t.drop 2).map fun i => (i, 1)))]

/-- One source tile is compressed into its record (R89 to R94). -/
def State.compressTile (s : State) (c : Cmd) (_ : Op) (u : WorkUnit) (w : Who) : Rd SlotOut :=
  let src := tdDesc s c.csSrc
  let d := tdDesc s c.csDst
  let t := unlinear d.tileGrid u.index
  let hi := t.drop 2
  let idx (r k : Nat) : List Nat := (128 * t.getD 0 0 + k) :: (128 * t.getD 1 0 + r) :: hi
  let inR := min 128 (d.viewExt 1 - 128 * t.getD 1 0)
  let inC := min 128 (d.viewExt 0 - 128 * t.getD 0 0)
  let st := c.store
  Rd.bind (Rd.all (fun r => Rd.all (fun k => s.readVal w src 0 (idx r k)) (List.range inC)) (List.range inR)) fun rows =>
  Rd.bind (s.tileAt d (d.stored (idx 0 0))) fun tl =>
    let get (r k : Nat) : Val := (rows.getD r []).getD k .zero
    let cv := convertTile d.fmt st.round inR inC get fun r k => randomOf st.round st.seed d (idx r k)
    let o := s.storeTile u d tl.1 tl.2.1 tl.2.2.1 st cv.1 cv.2.1 false
    o.s.chunkOut o.u w src ((List.range inR).flatMap fun r => (List.range inC).map fun k => idx r k) 0 cv.2.2 o.recs

def effCompressStore (r p core : Nat) (s : State) : State :=
  match s.cmd r p with
  | none => s
  | some c =>
    if c.opcode != 0x24 then s
    else match c.phase with
      | .started => s.whenHeld c [tdDesc s c.csSrc] fun s => s.beginSeq c (product (tdDesc s c.csDst).tileGrid) 0 []
      | .running => s.runChunk core r p { run := State.compressTile, reads := State.compressReads }
      | _ => s

/-- COMPRESS_STORE (R87 to R94). -/
def execCompressStore (r p core : Nat) (s : State) : Out := answer (okRing r && okCore core) (effCompressStore r p core s)

end Sys2Proof.Machine
end

