-- ==== Sys2Proof/Machine/Queues.lean ====
section
/-! DEFINITION. Stream queues (12_memories_queues_locks.md). -/

namespace Sys2Proof.Machine

-- ## The control block (R288, R289)

def queueIndex (die q : Nat) : Nat := die * 1024 + q

/-- Whether a requester may act on an enabled queue. -/
def State.mayQueue (s : State) (who : Requester) (q : Queue) : Bool :=
  match who with
  | .dmp => true
  | _ => s.requesterPart who == some q.part

/-- The RW fields of a control block are stored; PARTITION is the writing host's (R288). -/
def Queue.store (q : Queue) (who : Requester) (cb : Nat) : Queue :=
  { q with
    ringBase := field cb 255 192
    stale := field cb 191 172
    ringLog2 := field cb 171 167
    headCore := field cb 166 162
    tailCore := field cb 161 157
    headWin := field cb 156 151
    tailWin := field cb 150 145
    part := match who with | .host _ p => p | _ => field cb 144 142
    reserved := cb % 2 ^ 136 }

/-- Window slots of 16 KiB in a core's queue-window area (R275). -/
def State.winSlots (s : State) (core : Nat) : Nat := 4 * (s.core core).split.2.2

/-- Whether an enabled queue of the die, other than `qi`, uses a window slot of a core. -/
def State.winUsed (s : State) (qi die core win : Nat) : Bool :=
  s.queues.any fun kq => kq.1 != qi && kq.1 / 1024 == die && kq.2.en
    && ((kq.2.headCore == core && kq.2.headWin == win) || (kq.2.tailCore == core && kq.2.tailWin == win))

/-- CFG_ERR of a write of 1 to EN: the first failing condition, 0 when none (R288). -/
def State.cfgErr (s : State) (qi : Nat) (q : Queue) : Nat :=
  let die := qi / 1024
  let h := 32 * die + q.headCore
  let t := 32 * die + q.tailCore
  let bad (c : Nat) : Bool := !s.assigned c || s.regionPart (c / 8) != some q.part
  if s.winSlots h ≤ q.headWin || s.winSlots t ≤ q.tailWin then 1
  else if s.winUsed qi die q.headCore q.headWin || s.winUsed qi die q.tailCore q.tailWin then 2
  else if q.ringLog2 != 0 && (q.ringBase % 256 != 0 || addrPkg q.ringBase != s.pkg || addrSpace q.ringBase != 0
      || !s.rangeOwned q.part q.ringBase (256 * 2 ^ q.ringLog2)) then 3
  else if bad h || bad t then 4
  else if 1000000 < q.stale || (q.ringLog2 != 0 && (q.ringLog2 < 6 || 24 < q.ringLog2)) || q.reserved != 0 then 5
  else 0

/-- What a requester reads of a control block (R288): of an enabled queue of another partition, 0. -/
def State.readQueue (s : State) (who : Requester) (qi : Nat) : Nat :=
  let q := s.queue qi
  if q.en && !s.mayQueue who q then 0
  else q.reserved + q.cfgErr <<< 136 + (if q.en then 1 else 0) <<< 140 + (if q.notice then 1 else 0) <<< 141 + q.part <<< 142
    + q.tailWin <<< 145 + q.headWin <<< 151 + q.tailCore <<< 157 + q.headCore <<< 162 + q.ringLog2 <<< 167 + q.stale <<< 172
    + q.ringBase <<< 192 + q.rel <<< 256 + q.mark <<< 320 + q.rd <<< 384 + q.wr <<< 448

/-- A write of a control block that leaves EN as it is (R288): RW fields while EN = 0, PARTITION by the writer, NOTICE by writing 1. -/
def State.storeQueue (s : State) (who : Requester) (qi cb : Nat) : State :=
  let old := s.queue qi
  let old' := if s.mayQueue who old && bitOf cb 141 then { old with notice := false } else old
  if old.en then s.setQueue qi old' else s.setQueue qi (old'.store who cb)

def effQueueEnable (who : Requester) (die q : Nat) (cb : BitVec 512) (s : State) : State :=
  let qi := queueIndex die q
  let old := s.queue qi
  if old.en then s.storeQueue who qi cb.toNat
  else
    let new := old.store who cb.toNat
    let e := s.cfgErr qi new
    if e == 0 then
      s.setQueue qi { new with wr := 0, rd := 0, mark := 0, rel := 0, held := [], badEntries := [], en := true, cfgErr := 0 }
    else s.setQueue qi { new with cfgErr := e }

/-- QUEUE_ENABLE: a write of 1 to EN (R288, R289); with EN = 1 already only its NOTICE bit acts. -/
def execQueueEnable (who : Requester) (die q : Nat) (cb : BitVec 512) (s : State) : Out :=
  answer (who.ok && okDie die && okQueue q) (effQueueEnable who die q cb s)

/-- PUSHes of a queue whose entries still wait in a core's outbound queue end with 0x0504. -/
def State.failPushes (s : State) (qi : Nat) : State :=
  let isPush (x : OutRec) : Bool := match x.dest with | .push i _ => i == qi | _ => false
  s.cores.foldl (fun s kc =>
    let mine := kc.2.outq.filter isPush
    let s := mine.foldl (fun s x => s.cmdFail x.r x.p { code := 0x0504 }) s
    if mine.isEmpty then s
    else
      let c := s.core kc.1
      (s.setCore kc.1 { c with outq := c.outq.filter (fun x => !isPush x)
                               units := c.units.filter fun u => !mine.any fun x => x.unit == u.id }).letReleases kc.1) s

/-- A queue is disabled: held entries are discarded, waiting PUSHes and POPs end with 0x0504 (R289). -/
def State.disableQueue (s : State) (qi : Nat) : State :=
  let q := s.queue qi
  let s := q.pops.foldl (fun s w => s.popFails w.r w.p w.addr w.want { code := 0x0504 }) s
  (s.setQueue qi { q with en := false, held := [], badEntries := [], pops := [], notice := false }).failPushes qi

def effQueueDisable (who : Requester) (die q : Nat) (cb : BitVec 512) (s : State) : State :=
  let qi := queueIndex die q
  if (s.queue qi).en then (if s.mayQueue who (s.queue qi) then s.disableQueue qi else s) else s.storeQueue who qi cb.toNat

/-- QUEUE_DISABLE: a write of 0 to EN (R289); while EN is 0 it stores the block like any other write (R288). -/
def execQueueDisable (who : Requester) (die q : Nat) (cb : BitVec 512) (s : State) : Out :=
  answer (who.ok && okDie die && okQueue q) (effQueueDisable who die q cb s)

def effQueueControlBlockWrite (who : Requester) (die q : Nat) (cb : BitVec 512) (s : State) : State :=
  s.storeQueue who (queueIndex die q) cb.toNat

/-- QUEUE_CONTROL_BLOCK_WRITE: RW fields while EN = 0, PARTITION by the writer, NOTICE by writing 1 (R288). -/
def execQueueControlBlockWrite (who : Requester) (die q : Nat) (cb : BitVec 512) (s : State) : Out :=
  answer (who.ok && okDie die && okQueue q) (effQueueControlBlockWrite who die q cb s)

-- ## The commands (R291 to R296)

def Cmd.queueNo (c : Cmd) : Nat := c.f 11 0

/-- The checks of R295; `moves` for PUSH and POP. -/
def State.queueErr (s : State) (c : Cmd) (moves : Bool) : Option Err :=
  let q := s.queue c.queueNo
  let n := c.f 47 40
  let a := c.f 127 64
  firstErr [
    c.reservedErr 0x0101 [(39, 12), (63, 48), (767, 128)],
    errIf (!q.en || q.part != c.part) (bodyErr 0x0501 0),
    errIf (if moves then n == 0 || 64 < n else n != 0) (bodyErr 0x0502 40),
    errIf (if moves then addrSpace a == 0 else a != 0) (bodyErr 0x0502 64),
    if moves then s.bodyAddr c.part a (256 * n) 16 64 else none]

def effQueueMark (r p : Nat) (s : State) : State :=
  s.started r p 0x32 fun c =>
    let q := s.queue c.queueNo
    s.orFail c (s.queueErr c false) ((s.setQueue c.queueNo { q with mark := q.rd }).cmdDone r p 0)

/-- QUEUE_MARK (R293). -/
def execQueueMark (r p : Nat) (s : State) : Out := answer (okRing r) (effQueueMark r p s)

def effQueueRewind (r p : Nat) (s : State) : State :=
  s.started r p 0x33 fun c =>
    let q := s.queue c.queueNo
    s.orFail c (s.queueErr c false) (((s.setQueue c.queueNo { q with rd := q.mark }).wakePops c.queueNo).cmdDone r p 0)

/-- QUEUE_REWIND (R293): RD = MARK, and a POP that waits for the entries gets them (R292). -/
def execQueueRewind (r p : Nat) (s : State) : Out := answer (okRing r) (effQueueRewind r p s)

def effQueueRelease (r p : Nat) (s : State) : State :=
  s.started r p 0x34 fun c =>
    let q := s.queue c.queueNo
    s.orFail c (s.queueErr c false)
      (if !(q.refills q.mark).isEmpty && s.ringClearing q then s
       else s.orFail c (firstErr ((q.refills q.mark).map (s.ringErr q))) ((((s.readRing q (q.refills q.mark)).setQueue c.queueNo (s.releaseTo q q.mark)).wakePops c.queueNo).cmdDone r p 0))

/-- QUEUE_RELEASE: REL = MARK, the space is free, and the head window refills (R293), once its ring may be read (R271); a ring that memory does
not serve ends it (R12, R389). -/
def execQueueRelease (r p : Nat) (s : State) : Out := answer (okRing r) (effQueueRelease r p s)

/-- The entries of a PUSH as they lie at its source. -/
def State.pushEntries (s : State) (c : Cmd) : List Dest :=
  (List.range (c.f 47 40)).map fun i =>
    .push c.queueNo (BitVec.ofNat 2048 (Mem.readNat s.mem (memKey (c.f 127 64) + 256 * i) 256))

/-- The entries of a PUSH as records of the tail core, released at once: its source reads have passed (R291). -/
def State.pushRecords (s : State) (c : Cmd) : State :=
  let core := 32 * (c.queueNo / 1024) + (s.queue c.queueNo).tailCore
  let id := (s.core core).nextId
  let u : WorkUnit := { id := id, r := c.r, p := c.p, index := 0, st := .released }
  (s.addUnit core u).enqueueRecords core u (s.pushEntries c)

/-- A PUSH takes its source at once: it holds the source in the scoreboard and waits while that is being filled (R280, R281) or its core's
outbound queue has no room (R284), ends with 0x0701 when a granule of the source fails its check on the replay as well (R403), and needs its
core ON (R389). -/
def effQueuePush (r p : Nat) (s : State) : State :=
  s.started r p 0x30 fun c =>
    let a := memKey (c.f 127 64)
    let n := 256 * c.f 47 40
    let core := 32 * (c.queueNo / 1024) + (s.queue c.queueNo).tailCore
    s.orFail c (s.queueErr c true)
      (if !s.coreOn core then s.cmdFail r p { code := 0x0807 }
      else match s.badIn a n with
        | some g => let e := addrErr 0x0701 (g + s.pkg <<< 52); (s.lostAt g e).cmdFail r p e
        | none =>
          let i := s.sbIssue r p [⟨a, n, false⟩]
          if !i.2 then i.1
          else if !(s.core core).fits (s.pushEntries c) then i.1.coreBump 0x5142 core 1
          else ((i.1.freeHolds r p).pushRecords c).cmdPhase r p .running)

/-- QUEUE_PUSH (R291). -/
def execQueuePush (r p : Nat) (s : State) : Out := answer (okRing r) (effQueuePush r p s)

def effQueuePop (r p : Nat) (s : State) : State :=
  s.started r p 0x31 fun c =>
    let q := s.queue c.queueNo
    let n := if q.pops.isEmpty then q.popCount (c.f 47 40) else c.f 47 40
    let a := c.f 127 64
    s.orFail c (s.queueErr c true)
      (if !s.coreOn (32 * (c.queueNo / 1024) + q.headCore) then s.cmdFail r p { code := 0x0807 }
      else if n == 0 then s.cmdFail r p { code := 0x0503 }
      else
        let i := s.sbIssue r p [⟨memKey a, 256 * n, true⟩]
        let s := i.1
        if !i.2 then s
        else if q.notice then
          (s.setQueue c.queueNo { q with notice := false }).popEntries c.queueNo r p a n (min n (q.wr - q.rd))
        else if q.pops.isEmpty && n ≤ q.wr - q.rd then s.popEntries c.queueNo r p a n n
        else
          (s.setQueue c.queueNo { q with pops := q.pops ++ [{ r := r, p := p, want := n, addr := a }] }).cmdPhase r p .running)

/-- QUEUE_POP (R292, R294, R296). -/
def execQueuePop (r p : Nat) (s : State) : Out := answer (okRing r) (effQueuePop r p s)

def effStaleTailNotice (die q : Nat) (s : State) : State :=
  let qi := queueIndex die q
  let qu := s.queue qi
  if qu.en && qu.stale != 0 && qu.rd < qu.wr then
    match qu.pops with
    | [] => s.setQueue qi { qu with notice := true }
    | w :: rest =>
      (((s.setQueue qi { qu with pops := rest }).popEntries qi w.r w.p w.addr w.want (min (qu.popCount w.want) (qu.wr - qu.rd))).dieBump 0x5305 die 1).wakePops qi
  else s

/-- STALE_TAIL_NOTICE: the queue's timer has reached STALE µs (R294). -/
def execStaleTailNotice (die q : Nat) (s : State) : Out := answer (okDie die && okQueue q) (effStaleTailNotice die q s)

end Sys2Proof.Machine
end

