-- ==== Sys2Proof/Machine/Rings.lean ====
section
/-! DEFINITION. Command rings (15_commands.md): their control blocks and doorbells, taking, starting and completing commands, and the
seeding of an Almanac entry (R235). -/

namespace Sys2Proof.Machine

-- ## The control block (R351, R352)

/-- The RW fields of a control block, other than EN. -/
def Ring.store (g : Ring) (cb : Nat) : Ring :=
  { g with
    cmdBase := field cb 511 448
    cplBase := field cb 447 384
    irqPort := field cb 33 32
    msix := field cb 31 21
    irqEn := bitOf cb 20
    loc := field cb 19 18
    cplLog2 := field cb 17 13
    cmdLog2 := field cb 12 8
    reserved := 2 * field cb 255 34 + field cb 1 1 }

/-- The fields that stay writable while EN = 1. -/
def Ring.storeIrq (g : Ring) (cb : Nat) : Ring := { g with irqPort := field cb 33 32, irqEn := bitOf cb 20 }

def Ring.logBad (l : Nat) : Bool := l < 4 || 16 < l

/-- Whether a partition exists: it owns a region (R13, R385). -/
def State.partPresent (s : State) (p : Nat) : Bool := (List.range 16).any fun rr => s.regionPart rr == some p

/-- Whether a base breaks cause 3 of R352, for `len` bytes from it. -/
def State.ringBaseBad (s : State) (g : Ring) (part a len : Nat) : Bool :=
  a % 4096 != 0
    || (g.loc == 0 && (addrPkg a != s.pkg || 2 ≤ addrSpace a || !s.rangeOwned part a len))
    || ((g.loc == 1 || g.loc == 2) && !s.portUp (g.loc - 1))

/-- RING_ERR of a write of 1 to EN: the first cause that holds, 0 when none (R352). -/
def State.ringCause (s : State) (r : Nat) (g : Ring) : Nat :=
  if !s.partPresent (ringPart r) then 1
  else if Ring.logBad g.cmdLog2 || Ring.logBad g.cplLog2 then 2
  else if s.ringBaseBad g (ringPart r) g.cmdBase (128 * 2 ^ g.cmdLog2) || s.ringBaseBad g (ringPart r) g.cplBase (32 * 2 ^ g.cplLog2)
    then 3
  else if g.loc == 3 || g.reserved != 0 then 4
  else 0

/-- A ring right after an enable whose checks pass: a new ring starts with the default grid (R247). -/
def Ring.started (g : Ring) : Ring :=
  { g with head := 0, tail := 0, cplTail := 0, cplHead := 0, err := 0, st := .running, en := true, grid := {}, failed := [], seen := 0 }

/-- A write of 1 to EN of a ring that is still DRAINING or has taken commands outstanding is not taken: EN stays 0 (DESIGN CHOICE, log 29). -/
def effRingEnable (r : Nat) (cb : BitVec 512) (s : State) : State :=
  let g := s.ring r
  if g.en then s.setRing r (g.storeIrq cb.toNat)
  else
    let g := g.store cb.toNat
    if g.st == .draining || s.cmds.any (fun c => c.r == r) then s.setRing r g
    else
      let e := s.ringCause r g
      if e == 0 then s.setRing r g.started else s.setRing r { g with err := e, st := .disabled }

/-- RING_ENABLE: a write of a control block with EN = 1 (R351, R352). -/
def execRingEnable (r : Nat) (cb : BitVec 512) (s : State) : Out := answer (okRing r) (effRingEnable r cb s)

def effRingDisable (r : Nat) (cb : BitVec 512) (s : State) : State :=
  let g := s.ring r
  if g.en then s.setRing r { g.storeIrq cb.toNat with en := false, st := .draining }
  else if g.st == .error then s.setRing r { g.store cb.toNat with st := .draining }
  else s.setRing r (g.store cb.toNat)

/-- RING_DISABLE: a write of a control block with EN = 0 moves a RUNNING or ERROR ring to DRAINING (R352). -/
def execRingDisable (r : Nat) (cb : BitVec 512) (s : State) : Out := answer (okRing r) (effRingDisable r cb s)

def effRingDrainDone (r : Nat) (s : State) : State :=
  let g := s.ring r
  if g.st == .draining && s.cmds.all (fun c => c.r != r) then s.setRing r { g with st := .disabled } else s

/-- RING_DRAIN_DONE: the last taken command has written its completion record (R352). -/
def execRingDrainDone (r : Nat) (s : State) : Out := answer (okRing r) (effRingDrainDone r s)

/-- A ring enters ERROR, and its die sets RING_FAULT (R352). -/
def State.ringError (s : State) (r e : Nat) : State :=
  (s.setRing r { s.ring r with err := e, st := .error }).dieBit (ringDie r) 4

-- ## Doorbells (R350, R353)

/-- `a − b` of free-running 32-bit counts. -/
def sub32 (a b : Nat) : Nat := (a % 2 ^ 32 + 2 ^ 32 - b % 2 ^ 32) % 2 ^ 32

def Ring.tailOk (g : Ring) (t : Nat) : Bool := sub32 t g.tail < 2 ^ 31 && sub32 t g.head ≤ 2 ^ g.cmdLog2
def Ring.cplOk (g : Ring) (h : Nat) : Bool := sub32 h g.cplHead < 2 ^ 31 && sub32 g.cplTail h < 2 ^ 31

def effCmdDb (r width : Nat) (v : BitVec 32) (s : State) : State :=
  let g := s.ring r
  if width != 32 then s
  else if g.tailOk v.toNat then s.setRing r { g with tail := v.toNat } else s.ringError r 5

/-- CMD_DB: an accepted value replaces TAIL, any other sends the ring to ERROR, whatever the ring's state (R353); writes of
another width are ignored (R350). -/
def execCmdDb (r width : Nat) (v : BitVec 32) (s : State) : Out := answer (okRing r) (effCmdDb r width v s)

def effCplDb (r width : Nat) (v : BitVec 32) (s : State) : State :=
  let g := s.ring r
  if width != 32 then s
  else if g.cplOk v.toNat then s.setRing r { g with cplHead := v.toNat } else s.ringError r 6

/-- CPL_DB (R353). -/
def execCplDb (r width : Nat) (v : BitVec 32) (s : State) : Out := answer (okRing r) (effCplDb r width v s)

-- ## Taking an entry (R354, R355, R357)

def Ring.mayTake (g : Ring) : Bool :=
  g.st == .running && g.head != g.tail && sub32 g.head g.cplTail < 256 && sub32 g.head g.cplHead < 2 ^ g.cplLog2

/-- The address of entry `n`. -/
def Ring.entryAddr (g : Ring) (n : Nat) : Nat := g.cmdBase + 128 * (n % 2 ^ g.cmdLog2)

/-- What a fetch of an entry finds: it waits for memory that is being cleared, it fails, or it brings 128 bytes (R355). -/
inductive Fetched where
  | wait
  | failed
  | got (e : BitVec 1024)

def State.fetchEntry (s : State) (g : Ring) : Fetched :=
  let a := g.entryAddr g.head
  if g.loc == 0 then
    if s.clearingIn (memKey a) 128 then .wait
    else if s.foreign a || !s.powered a || (s.badIn (memKey a) 128).isSome then .failed
    else .got (BitVec.ofNat 1024 (Mem.readNat s.mem (memKey a) 128))
  else
    let h := g.loc - 1
    if !s.portUp h || (s.hostBadIn h a 128).isSome then .failed
    else .got (BitVec.ofNat 1024 (Mem.readNat (s.hostMem h) a 128))

/-- An entry that fails its check in the package's own memory is logged (R418). -/
def State.noteEntryLost (s : State) (g : Ring) : State :=
  let a := g.entryAddr g.head
  if g.loc == 0 && (s.badIn (memKey a) 128).isSome then (s.lostQuietly (s.siteOf a).1 (s.siteOf a).2).checkFailed a else s

def opcodes : List Nat :=
  [0x01, 0x02, 0x10, 0x11, 0x12, 0x20, 0x21, 0x22, 0x23, 0x24, 0x30, 0x31, 0x32, 0x33, 0x34, 0x40, 0x41, 0x42, 0x50, 0x51, 0x52,
   0x60, 0x61]

def headErr (code bit : Nat) : Err := { code := code, dkind := 7, detail := bit }

/-- DEP value `i` of an entry. -/
def Cmd.depBack (c : Cmd) (i : Nat) : Nat := field c.entry.toNat (199 + 8 * i) (192 + 8 * i)
def Cmd.fence (c : Cmd) : Bool := bitOf c.entry.toNat 9
def Cmd.irq (c : Cmd) : Bool := bitOf c.entry.toNat 10
def Cmd.skipOnErr (c : Cmd) : Bool := bitOf c.entry.toNat 11

/-- The header checks, with `seen` entries taken before this one since enable (R357). -/
def Cmd.headerErr (c : Cmd) (seen : Nat) : Option Err :=
  let e := c.entry.toNat
  firstErr [
    errIf (!opcodes.contains c.opcode) (headErr 0x0108 0),
    errIf (bitOf e 8) (headErr 0x0101 8),
    errIf (field e 15 12 != 0) (headErr 0x0101 12),
    errIf (field e 191 19 != 0) (headErr 0x0101 19),
    errIf (field e 18 16 != c.part) (headErr 0x0116 16),
    ((List.range 4).find? fun i => seen < c.depBack i).map fun i => headErr 0x0115 (192 + 8 * i)]

/-- An entry is taken: its completion slot is reserved, and it has the ring's current grid. -/
def State.take (s : State) (r : Nat) (e : BitVec 1024) : State :=
  let g := s.ring r
  let c : Cmd := { r := r, p := g.head, entry := e, phase := .taken, grid := g.grid }
  let c : Cmd := match c.headerErr g.seen with
    | some x => { c with phase := .ended, err := some x }
    | none => c
  { s.setRing r { g with head := (g.head + 1) % 2 ^ 32, seen := min 255 (g.seen + 1) } with cmds := s.cmds ++ [c] }

def effEntryTake (r : Nat) (s : State) : State :=
  let g := s.ring r
  if !g.mayTake then s
  else match s.fetchEntry g with
    | .wait => s
    | .failed => (s.noteEntryLost g).ringError r 7
    | .got e => s.take r e

/-- ENTRY_TAKE (R354, R355, R357). -/
def execEntryTake (r : Nat) (s : State) : Out := answer (okRing r) (effEntryTake r s)

-- ## Starting (R357, R362, R364)

/-- The positions that a command's DEP fields name. -/
def Cmd.deps (c : Cmd) : List Nat :=
  ((List.range 4).map c.depBack).filterMap fun d => if d == 0 then none else some (sub32 c.p d)

/-- Whether an outstanding command names a position. -/
def State.depOn (s : State) (r q : Nat) : Bool := s.cmds.any fun d => d.r == r && d.deps.contains q

/-- An earlier entry of the command's ring that has not completed. -/
def State.earlier (s : State) (c : Cmd) (f : Cmd → Bool) : Bool := s.cmds.any fun d => d.r == c.r && laterThan d.p c.p && f d

/-- Commands whose op takes the ring's grid, and WORK_GRID itself: they follow the WORK_GRIDs taken before them (R247, R362). -/
def Cmd.usesGrid (c : Cmd) : Bool :=
  (c.opcode == 0x10 && !c.pin) || [0x11, 0x12, 0x20, 0x21, 0x22, 0x24, 0x40].contains c.opcode

/-- Whether a taken command may start. -/
def State.mayStart (s : State) (c : Cmd) : Bool :=
  c.deps.all (fun q => s.cmds.all fun d => !d.at_ c.r q)
    && (!c.fence || !s.earlier c fun _ => true)
    && (!c.usesGrid || !s.earlier c fun d => d.opcode == 0x40)

/-- The validation of a body (R357). -/
def State.validate (s : State) (c : Cmd) : Option Err :=
  match c.opcode with
  | 0x01 => s.tdCreateErr c
  | 0x02 => s.tdDestroyErr c
  | 0x10 => s.matmulErr c
  | 0x11 => s.baroErr c
  | 0x12 => s.vchainErr c
  | 0x20 | 0x21 | 0x22 => s.gatherErr c
  | 0x23 => s.copyErr c
  | 0x24 => s.compressErr c
  | 0x30 | 0x31 => s.queueErr c true
  | 0x32 | 0x33 | 0x34 => s.queueErr c false
  | 0x40 => s.gridErr c
  | 0x41 | 0x42 => s.signalErr c
  | 0x50 | 0x52 => s.windowErr c
  | 0x51 => c.closeErr
  | 0x60 => s.almErr c true
  | 0x61 => s.almErr c false
  | _ => none

/-- A command whose DEP entry ended in error (R364). -/
def State.depFailed (s : State) (c : Cmd) : Bool := c.deps.any fun q => (s.ring c.r).failed.contains q

/-- Whether what the validation of a command reads has to wait: the image of a TD_CREATE, the block of a chain (R271, R280). -/
def State.startWaits (s : State) (c : Cmd) : Bool :=
  match c.opcode with
  | 0x01 => s.tdWaits c
  | 0x10 | 0x12 => s.chainWaits c
  | _ => false

/-- A command starts, or ends with the first check that fails; what its checks read may have to come first. -/
def State.start (s : State) (c : Cmd) : State :=
  if s.depFailed c && c.skipOnErr then s.cmdFail c.r c.p { code := 0x0117 }
  else if s.startWaits c then s
  else match s.validate c with
    | some e => (s.cmdFail c.r c.p e).noteLost e
    | none =>
      s.updCmd c.r c.p fun d => { d with phase := .started, flags := d.flags ||| flagIf (s.depFailed c) flagDEP_ERR }

def effCommandStart (r p : Nat) (s : State) : State :=
  match s.cmd r p with
  | some c => if c.phase == .taken && s.mayStart c then s.start c else s
  | none => s

/-- COMMAND_START (R357, R362, R364). -/
def execCommandStart (r p : Nat) (s : State) : Out := answer (okRing r) (effCommandStart r p s)

-- ## Seeding (R235)

/-- The pre-pass of a cold entry has ended: the entry, whose check is an access's (R234), is seeded with its maximum, and the op runs again from its first unit. -/
def State.seed (s : State) (c : Cmd) (o : Op) (e : Nat) : State :=
  let die := field c.hC 19 18
  let s := s.touchAlm die e
  let a := (s.almEntry (almIndex die e)).seed (AMap.getD o.maxima e 0) (tdDesc s c.hC).fmt
  let s := (s.setAlm (almIndex die e) a).dieBump 0x5301 die 1
  let s := s.addFlags c.r c.p (2 ^ flagCOLD)
  s.updOp c.r c.p fun o =>
    { o with snaps := o.snaps.map fun x => if x.entry == e then { x with use := a.use, next := a.next, seeding := false } else x
             maxima := [], landed := 0
             blocks := o.blocks.map fun b => { b with next := if b.lost then b.next else 0, reissue := [], base := b.top } }

def effAlmanacSeed (r p : Nat) (s : State) : State :=
  match s.cmd r p, s.runningOp r p with
  | some c, some o =>
    match o.seedEntry with
    | some e => if s.opQuiet o then s.seed c o e else s
    | none => s
  | _, _ => s

/-- ALMANAC_SEED (R235). -/
def execAlmanacSeed (r p : Nat) (s : State) : Out := answer (okRing r) (effAlmanacSeed r p s)

-- ## Completing (R260, R363)

/-- Whether anything of a command is still on its way: a unit on a core, a record in an outbound queue, an unanswered write. Tiles that a
pinned op leaves open do not hold it (R153). -/
def State.onTheWay (s : State) (r p : Nat) : Bool :=
  s.cores.any (fun kc => kc.2.outq.any (fun x => x.r == r && x.p == p)
    || kc.2.units.any fun u => u.r == r && u.p == p && u.st != .finished)
  || s.txns.any fun t => t.r == r && t.p == p && t.kind == .write

/-- A command that ends by merging a scatter context (R173, R188). -/
def Cmd.merges (c : Cmd) : Bool := c.final && (c.gVia || (c.opcode == 0x10 && c.outMode == 1))

/-- The context block of a keyed command, when it lies in this package. No message carries FINAL to another package: a remote merge is not
triggered (DESIGN CHOICE, log 31). -/
def State.ctxKey (s : State) (c : Cmd) : Option Nat :=
  if c.rmt then
    let wr := winRef c.ctxa
    if wr.1.1 == s.pkg then some (memKey ((s.slot (slotIndex wr.1.2.1 wr.1.2.2)).base + wr.2)) else none
  else some (memKey c.ctxa)

/-- The open context of a block: its region and number. -/
def State.openedCtx (s : State) (block : Nat) : Option (Nat × Nat) :=
  match blockRegion block with
  | none => none
  | some rr => ((s.sac rr).ctxs.find? fun x => x.block == block).map fun x => (rr, x.num)

/-- What a FINAL op does once its records have landed (R185, R186): the first time it asks its context for the merge; until the merge has
told it, it waits. None: nothing more to wait for. -/
def State.askMerge (s : State) (c : Cmd) (o : Op) : Option State :=
  if !c.merges || o.merged then none
  else match o.final with
    | some x => if (s.sac x.1).ctxs.any fun k => k.num == x.2 && k.finals.contains (c.r, c.p) then some s else none
    | none =>
      match (s.ctxKey c).bind s.openedCtx with
      | none => none
      | some x =>
        some ((s.setSac x.1 (updCtx (s.sac x.1) x.2 fun k => { k with finals := k.finals ++ [(c.r, c.p)] })).updOp c.r c.p
          fun o => { o with final := some x })

/-- The first unclaimed index of an op as a ticket (R260). -/
def Op.unclaimed (o : Op) : Option Ticket :=
  (o.blocks.find? fun b => !b.lost && (b.next < b.size || !b.reissue.isEmpty)).map fun b =>
    match b.reissue with
    | x :: _ => mkTicket x.2 b.region (b.ctr.getD 0) x.1
    | [] => mkTicket b.base b.region (b.ctr.getD 0) b.next

/-- Whether no assigned core of the grid remains to claim an op's work (R11, R260). -/
def State.abandoned (s : State) (o : Op) : Bool := !(o.cores.any fun k => s.assigned k) && o.unclaimed.isSome && !s.onTheWay o.r o.p

/-- 0x0807 of an op whose cores are all gone; a pinned op has no ticket. -/
def Op.coreGone (o : Op) : Err := if o.pinned.isSome then { code := 0x0807 } else ticketErr 0x0807 o.unclaimed

/-- The pushes of an op into the Almanac (R228): each entry it quantised with and found a value for. -/
def State.pushMaxima (s : State) (c : Cmd) (o : Op) : State :=
  let die := field c.hC 19 18
  let fmt := (tdDesc s c.hC).fmt
  o.snaps.foldl (fun s x =>
    match AMap.find o.maxima x.entry with
    | some m => if x.quant then s.pushAlm die x.entry fun a => a.push m fmt x.next else s
    | none => s) s

/-- BARO_MISS of the op's cores whose limit its share of misses exceeds (R135). -/
def State.baroMiss (s : State) (o : Op) : State :=
  if o.truly == 0 then s
  else o.cores.foldl (fun s core =>
    let lim := decodeVal fp32 (s.odGet 0x3112 (core + 1))
    if (Val.mul (Val.ofInt o.truly) lim).lt (Val.ofInt o.misses) then s.coreBit core 3 else s) s

/-- A core lets go of a command: shares and scoreboard entries are freed, and tiles left open belong to no outstanding command. -/
def Core.letGo (k : Core) (r p : Nat) : Core :=
  { k with
    shares := k.shares.filter fun h => !(h.r == r && h.p == p)
    sb := settle [] (k.sb.filter fun e => !(e.r == r && e.p == p))
    stealHold := k.stealHold.filter (· != (r, p))
    units := k.units.map fun u => if u.r == r && u.p == p then { u with r := 512 } else u }

/-- Bindings of commands that are neither outstanding nor contributors of a tile are dropped (R323). -/
def Core.sweepBindings (k : Core) (cmds : List Cmd) : Core :=
  { k with bindings := k.bindings.filter fun b =>
      cmds.any (fun c => c.at_ b.r b.p) || k.units.any fun u => u.contribs.any fun x => x.1 == b.r && x.2.1 == b.p }

/-- An entry of a descriptor table that was lost is free once no command uses it (R402). -/
def State.freeLostTds (s : State) : State :=
  { s with td := s.td.map fun ie =>
      let h := handleOf (ie.1 / 65536) ie.2.gen (ie.1 % 65536)
      if ie.2.bad && ie.2.st == .dying && !s.handleUsed h && !(s.cmds.any fun c => c.opcode == 0x02 && c.f 19 0 == h) then
        (ie.1, { ie.2 with st := .free, bad := false })
      else ie }

-- ## Tickets and reissue (R171, R258, R259)

def ticketIndex (t : Ticket) : Nat := t.toNat % 2 ^ 48
def ticketEpoch (t : Ticket) : Nat := field t.toNat 71 64

/-- The old ticket is in every die's stale-ticket list, and its index joins its block's reissue list under the next epoch. -/
def State.reissue (s : State) (r p g : Nat) (t : Ticket) : State :=
  let s := { s with stale := s.stale ++ [t] }.regionBump 0x5208 (ticketRegion t) 1
  s.updOp r p fun o => o.updBlock g fun b =>
    { b with reissue := b.reissue ++ [(ticketIndex t, ticketEpoch t + 1)], top := max b.top (ticketEpoch t + 1) }

/-- A ticket none of whose records landed is reissued, once the stale-ticket lists have room (R171); one whose epoch would pass 255 is not
(R259). -/
def State.requeue (s : State) (r p g : Nat) (t : Ticket) : State :=
  if 255 ≤ ticketEpoch t then s.cmdError r p (ticketErr 0x0805 (some t))
  else if 64 ≤ s.stale.length then { s with reissueWait := s.reissueWait ++ [(r, p, g, t)] }
  else s.reissue r p g t

/-- Reissues that waited for room proceed in order. -/
def State.drainReissues (s : State) : Nat → State
  | 0 => s
  | n + 1 =>
    match s.reissueWait with
    | [] => s
    | x :: rest =>
      if 64 ≤ s.stale.length then s
      else ({ s with reissueWait := rest }.reissue x.1 x.2.1 x.2.2.1 x.2.2.2).drainReissues n

/-- What a command and its op held is freed. -/
def State.release (s : State) (c : Cmd) (o : Option Op) : State :=
  let ctrsOf (bs : List Block) : List (Nat × Nat) := bs.filterMap fun b => b.ctr.map fun i => (b.region, i)
  let ctrs := match o with | some o => ctrsOf o.blocks | none => []
  let mine := match o with | some o => ctrsOf (o.blocks.filter fun b => !b.lost) | none => []
  let s := { s with
    cmds := s.cmds.filter fun d => !d.at_ c.r c.p
    ops := s.ops.filter fun x => !x.at_ c.r c.p
    counters := s.counters.filter fun x => !mine.contains x
    stale := s.stale.filter fun t => !ctrs.contains (ticketRegion t, field t.toNat 59 48)
    txns := s.txns.filter fun t => !(t.r == c.r && t.p == c.p)
    arrived := s.arrived.filter fun a => !(a.r == c.r && a.p == c.p) }
  let s := s.cores.foldl (fun s kc => s.dropOwn kc.1 fun x =>
    x.r == c.r && x.p == c.p && !kc.2.outq.any fun y => y.r == c.r && y.p == c.p) s
  let s := { s with cores := s.cores.map fun (kc : Nat × Core) => (kc.1, (kc.2.letGo c.r c.p).sweepBindings s.cmds)
                    reissueWait := s.reissueWait.filter fun x => !(x.1 == c.r && x.2.1 == c.p) }
  (s.drainReissues s.reissueWait.length).freeLostTds

/-- The ports of a ring's interrupts (R351, R369). -/
def Ring.irqPorts (g : Ring) : List Nat :=
  match g.irqPort with
  | 0 => [if g.loc == 2 then 1 else 0]
  | 1 => [0]
  | 2 => [1]
  | _ => [0, 1]

/-- Vector MSIX of the partition's function on every port that is up (R369). -/
def State.interrupt (s : State) (r : Nat) : State :=
  let g := s.ring r
  s.sendIrqs ((g.irqPorts.filter fun h => s.portUp h).map fun h => ⟨h, ringPart r + 1, g.msix⟩)

/-- The completion record is written to its slot, or discarded (R348, R365), also where its slot's memory is not served (DEDUCED, log 210); after
a written record comes the interrupt (R369). -/
def State.writeRecord (s : State) (c : Cmd) : State :=
  let g := s.ring c.r
  let a := g.cplBase + 32 * (g.cplTail % 2 ^ g.cplLog2)
  let v := c.record g.cplTail g.cplLog2
  let ring : Ring := { g with
    cplTail := (g.cplTail + 1) % 2 ^ 32
    failed := (if c.err.isSome then [c.p] else []) ++ g.failed.filter fun q => q != c.p && (sub32 g.head q ≤ 255 || s.depOn c.r q) }
  let s := s.setRing c.r ring
  if g.loc == 0 then
    if (s.accessErr a 32 none).isSome then s else
    let s := s.writeRange (memKey a) 32 v
    if ring.irqEn && c.irq then s.interrupt c.r else s
  else
    let h := g.loc - 1
    if s.portCut c.r c.p h then s.dieBump 0x5314 (ringDie c.r) 1
    else
      let s := s.setHost h (Mem.writeNat (s.hostMem h) a v 32)
      if ring.irqEn && c.irq then s.interrupt c.r else s

/-- Whether the slot of the next record lies in memory that is being cleared. -/
def State.recordWaits (s : State) (r : Nat) : Bool :=
  let g := s.ring r
  g.loc == 0 && s.clearingIn (memKey (g.cplBase + 32 * (g.cplTail % 2 ^ g.cplLog2))) 32

/-- A command is complete. -/
def State.complete (s : State) (c : Cmd) (o : Option Op) : State :=
  let s := match o with | some o => (s.pushMaxima c o).baroMiss o | none => s
  (s.writeRecord c).release c o

/-- Whether an op has done all its work: every unit landed or ended (R260), every home block counted, since its start waits for a free counter
(R253), no pre-pass left, the last phase of a SCATTER. -/
def State.opDone (s : State) (c : Cmd) (o : Op) : Bool := s.opQuiet o && o.counted && o.seedEntry.isNone && (c.opcode != 0x21 || o.phase == 2)

/-- A running op completes, asks for its merge, or goes on. -/
def State.completeOp (s : State) (c : Cmd) (o : Op) : State :=
  if s.abandoned o then s.complete (c.fail o.coreGone) (some o)
  else if !s.opDone c o then s
  else match s.askMerge c o with
    | some s => s
    | none => s.complete c (some o)

def effCommandComplete (r p : Nat) (s : State) : State :=
  match s.cmd r p with
  | none => s
  | some c =>
    if s.recordWaits r then s
    else match c.phase, s.op r p with
      | .ended, o => if s.onTheWay r p then s else s.complete c o
      | .running, some o => s.completeOp c o
      | .running, none => if (c.opcode == 0x23 || c.opcode == 0x30) && !s.onTheWay r p then s.complete c none else s
      | _, _ => s

/-- COMMAND_COMPLETE: the completion record of a command whose records have all been accepted and whose effects have been applied
(R260, R363, R365). -/
def execCommandComplete (r p : Nat) (s : State) : Out := answer (okRing r) (effCommandComplete r p s)

end Sys2Proof.Machine
end

