-- ==== Sys2Proof/Machine/Functions.lean ====
section
/-! DEFINITION. The gated functions (R386 to R391): enables, starts and stops, what each kind of function does as it starts and stops, and
what a core that is fenced or loses its logical number leaves behind (R171, R258, R407). -/

namespace Sys2Proof.Machine

-- ## Memory that is lost or cleared

/-- A range of memory reads as zeros, and no check of it fails. -/
def State.wipe (s : State) (key len : Nat) : State :=
  { s.mendBy fun g => key ≤ g && g < key + len with
           mem := Mem.clear s.mem key len
           groups := s.groups.filter fun kg => kg.1 < key || key + len ≤ kg.1 }

def scratchKey (c : Nat) : Nat := c / 32 * 2 ^ 50 + 2 * 2 ^ 48 + c % 32 * 2 ^ 23
def regionKey (rr : Nat) : Nat := rr / 4 * 2 ^ 50 + 2 ^ 48 + rr % 4 * 2 ^ 30
def unitKey (die u : Nat) : Nat := die * 2 ^ 50 + u * 2 ^ 29

/-- A core's scratchpad is zeroed (R278, R389). -/
def State.wipeScratch (s : State) (c : Nat) : State := s.wipe (scratchKey c) (2 ^ 23)
/-- A region's memory is zeroed (R389). -/
def State.wipeRegion (s : State) (rr : Nat) : State := s.wipe (regionKey rr) 0x6000000

/-- The units of a die that a partition owns (R271). -/
def State.ownedUnits (s : State) (die : Nat) : List Nat := (List.range s.unitsPerDie).filter fun u => (s.unitPart die u).isSome

/-- A unit is being cleared: it reads as zeros once that has ended (R271, R390). -/
def State.clearUnit (s : State) (die u : Nat) : State :=
  let s := s.wipe (unitKey die u) (2 ^ 29)
  if s.clearing.contains (die * 256 + u) then s else { s with clearing := s.clearing ++ [die * 256 + u] }

/-- A stack that reaches ON has its part of every owned unit cleared (R390). -/
def State.clearStack (s : State) (ss : Nat) : State :=
  let die := ss / 2
  let mine (k : Nat) : Bool := k / 2 ^ 48 == 4 * die && (channelOf k).1 == ss
  let s := { s.mendBy mine with mem := s.mem.filter fun c => !mine c.1
                                groups := s.groups.filter fun kg => !mine kg.1 }
  { s with clearing := s.clearing ++ ((s.ownedUnits die).map fun u => die * 256 + u).filter fun x => !s.clearing.contains x }

-- ## A core that is fenced (R407)

/-- Whether any record of a claim has landed: of the unit that carries it, or of an earlier part of its chunk. -/
def Core.someLanded (k : Core) (t : Ticket) : Bool :=
  k.units.any (fun u => u.ticket == some t && 0 < u.sent) || !k.units.any fun u => u.ticket == some t && u.part == 0 && u.sub == 0

/-- Contributors of a pinned tile that is lost (R153, R407). -/
def State.loseTile (s : State) (core : Nat) (u : WorkUnit) : State :=
  let e := ticketErr 0x0703 (u.name core)
  (u.contribs.foldl (fun s x => s.cmdError x.1 x.2.1 e) (s.earned core u)).cmdError u.r u.p e

/-- What happens to a unit of a fenced core (R258, R291, R407). Its records that are not released are gone; released ones are carried on by the
region DMA. A claim none of whose records landed is reissued, and its released records stay in the queue until the old ticket makes them stale
there; one with some ends its op with 0x0706. A PUSH that waits halfway ends with 0x0706, and the contributors of a pinned tile with 0x0703.
`k` is the core as it was. -/
def State.orphan (s : State) (core : Nat) (k : Core) (u : WorkUnit) : State :=
  let isPush := k.outq.any fun x => x.unit == u.id && (match x.dest with | .push _ _ => true | _ => false)
  if isPush then (if 0 < u.sent then s.failUnit core u { code := 0x0706 } else s)
  else
    let s' := if u.st == .released then s else (s.discard core u.id).leaveUnit core u
    match u.ticket with
    | none => s'.loseTile core u
    | some t =>
      if !s.tickets.any (fun x => x.1 == core && x.2.1 == u.id) then s'
      else if k.someLanded t then s'.cmdError u.r u.p (ticketErr 0x0706 (some t))
      else
        let s' := (s'.updUnit core u.id fun v => { v with r := 512, ticket := none, contribs := [] })
        let s' := { s' with tickets := s'.tickets.filter fun x => !(x.1 == core && x.2.1 == u.id) }
        if s'.reissueWait.any (fun x => x.2.2.2 == t) || s'.isStale (some t) then s' else s'.requeue u.r u.p u.g t

/-- A core's sequencer state is gone; what the region DMA carries on, with the bindings of its windows, and the counts stay. -/
def Core.cleared (k : Core) : Core :=
  { units := k.units.map fun u => { u with carried := true }, nextId := k.nextId, outq := k.outq, split := k.split, atSlots := k.atSlots, nextRec := k.nextRec
    bindings := k.bindings.filter fun b => k.outq.any fun x => x.r == b.r && x.p == b.p }

/-- All units of a core are let go; the RELEASEs that it held are gone with its sequencer, and their cells are abandoned (R298). -/
def State.orphanCore (s : State) (core : Nat) : State :=
  let s := s.setCore core { s.core core with releases := [] }
  let s := (s.core core).units.foldl (fun s' u => s'.orphan core (s.core core) u) s
  s.setCore core (s.core core).cleared

/-- A package core number is left unassigned: the queues that have it as head or tail are disabled (R11, R289). -/
def State.unassign (s : State) (core : Nat) : State :=
  let s := s.setLogical core 0xF
  let mine := s.queues.filter fun kq =>
    kq.2.en && (32 * (kq.1 / 1024) + kq.2.headCore == core || 32 * (kq.1 / 1024) + kq.2.tailCore == core)
  (mine.foldl (fun s kq => s.disableQueue kq.1) s).refreshService

/-- The region's spare as a physical core of the package, when there is one. -/
def State.spareOf (s : State) (rr : Nat) : Option Nat :=
  let n := s.odGet 0x8001 (rr + 1)
  if n < 9 then some (9 * rr + n) else none

def State.setSpare (s : State) (rr n : Nat) : State := s.odSet 0x8001 (rr + 1) n

/-- Whether a physical core is retired (R408). -/
def State.isRetired (s : State) (phys : Nat) : Bool := bitOf (s.odGet 0x8002 (phys / 9 + 1)) (phys % 9)

/-- A core begins its start: its scratchpad is zeroed (R389). -/
def State.startCore (s : State) (phys : Nat) : State :=
  let s := s.setFn .core phys 1
  match s.logicalOf phys with
  | some c => (s.wipeScratch c).zeroWindows c
  | none => s

/-- The spare is started to take a logical number, or the number is left unassigned (R407). -/
def State.bringSpare (s : State) (core : Nat) : State :=
  let rr := core / 8
  match s.spareOf rr with
  | some x =>
    if s.fnState .core x == 0 && s.fnEnabled .core x && s.fnState .region rr == 2 && !s.isRetired x then
      { (s.setSpare rr 0xF).startCore x with copyingWindows := s.copyingWindows ++ [(x, core)] }
    else s.unassign core
  | none => s.unassign core

/-- A core that was to take a number fails: the number is left unassigned. -/
def State.dropReplacement (s : State) (phys : Nat) : State :=
  let mine := s.copyingWindows.filter fun x => x.1 == phys
  let s := { s with copyingWindows := s.copyingWindows.filter fun x => x.1 != phys }
  mine.foldl (fun s x => s.unassign x.2) s

/-- A core is fenced (R407): it is masked and FAULTED, its epoch advances, its tickets are reissued or ended, and the spare is brought in. -/
def State.fenceCore (s : State) (phys : Nat) : State :=
  let core := s.logicalOf phys
  let s := (s.setFn .core phys 4).bump 0x5151 (phys + 1) 1
  let s := { s with retest := AMap.set s.retest phys s.timeUs, fences := s.fences ++ [phys] }.severity 3 phys 0 4 1 {}
  match core with
  | some c => ((s.advanceEpoch c).orphanCore c).bringSpare c
  | none =>
    let s := s.dropReplacement phys
    if s.spareOf (phys / 9) == some phys then s.setSpare (phys / 9) 0xF else s

-- ## A host port that is reset or stops (R348, R389)

/-- Rings that reach memory through a port go to ERROR with RING_ERR 8, and commands taken before lose their writes through it; of one
partition's function or of all (R348). -/
def State.resetPort (s : State) (port : Nat) (part : Option Nat) : State :=
  let mine (r : Nat) : Bool := match part with | some p => ringPart r == p | none => true
  let rs := (s.rings.filter fun kg => mine kg.1 && kg.2.loc == port + 1 && kg.2.st != .disabled).map (·.1)
  let s := (rs.foldl (fun s r => s.ringError r 8) s).resetHostFns port (part.map (· + 1))
  { s with cmds := s.cmds.map fun (c : Cmd) =>
      if mine c.r && !c.cut.contains port then { c with cut := c.cut ++ [port] } else c }

-- ## Starting (R389)

/-- A region owned by no partition stays powered down (R13). -/
def State.regionOwned (s : State) (rr : Nat) : Bool := (s.regionPart rr).isSome

/-- The cores that a region starts: enabled, OFF and not retired. -/
def State.startCores (s : State) (rr : Nat) : State :=
  ((List.range 9).map fun x => 9 * rr + x).foldl (fun s x =>
    if s.fnEnabled .core x && s.fnState .core x == 0 && !s.isRetired x then s.startCore x else s) s

/-- A function no longer has to stop and start again. -/
def State.unbounce (s : State) (k : FnKind) (n : Nat) : State := { s with bounce := s.bounce.filter fun x => x != (k, n) }

/-- Whether a function may leave OFF: a core whose region is up, unless it is retired or an idle spare; a region that a partition owns. -/
def State.fnMayStart (s : State) (k : FnKind) (n : Nat) : Bool :=
  match k with
  | .core =>
    let rr := n / 9
    (s.fnState .region rr == 2 || s.fnState .region rr == 1) && !s.isRetired n && s.spareOf rr != some n
  | .region => s.regionOwned n
  | _ => true

/-- A function leaves OFF, where it may. -/
def State.startFn (s : State) (k : FnKind) (n : Nat) : State :=
  let s := s.unbounce k n
  if !s.fnMayStart k n then s
  else match k with
  | .core => s.startCore n
  | .region => ((s.setFn .region n 1).wipeRegion n).startCores n
  | .stack => s.setFn .stack n 1
  | .link => s.setFn .link n 1
  | .host => s.setFn .host n 1

-- ## Stopping

/-- A region stops: its cores stop with it and keep their logical numbers (DEDUCED, log 34). -/
def State.stopCores (s : State) (rr : Nat) : State :=
  ((List.range 9).map fun x => 9 * rr + x).foldl (fun s x =>
    if s.fnState .core x == 2 then s.setFn .core x 3
    else if s.fnState .core x == 1 then s.setFn .core x (1 + 16)
    else if s.fnState .core x == 3 then s.setFn .core x 3
    else s) s

/-- A function leaves ON. -/
def State.stopFn (s : State) (k : FnKind) (n : Nat) : State :=
  let s := s.setFn k n 3
  match k with
  | .region => s.stopCores n
  | .link => s.dropEgress n
  | .host => s.resetPort n none
  | _ => s

/-- The die that a function belongs to (R9). -/
def fnDie (k : FnKind) (n : Nat) : Nat :=
  match k with
  | .core => n / 36
  | .region => n / 4
  | .stack => n / 2
  | .link => n / 8
  | .host => 2 * n

def kindCode : FnKind → Nat
  | .core => 3
  | .region => 2
  | .stack => 4
  | .link => 6
  | .host => 8

/-- A write to an enable acts on the function's state (R388). A retired core stays FAULTED (R408). -/
def State.applyEnable (s : State) (k : FnKind) (n : Nat) (on : Bool) : State :=
  let v := s.fnStatus k n
  match v % 8 with
  | 0 => if on then s.startFn k n else s
  | 1 => s.setFn k n (if on then 1 else 1 + 16)
  | 2 => if on then s else s.stopFn k n
  | 3 => s.setFn k n (if on then 3 + 8 else 3)
  | _ => if on || (k == .core && s.isRetired n) then s else (s.setFn k n 0).refreshService

def enableIndex : FnKind → Nat
  | .core => 0x3001
  | .region => 0x3002
  | .stack => 0x3003
  | .link => 0x3141
  | .host => 0x3004

/-- A write to an enable: the entry takes the value, and the transition begins at once or, while the die's DMP restarts, when it returns
(R388, R399). -/
def State.writeEnable (s : State) (k : FnKind) (n : Nat) (on : Bool) : State :=
  let s := (s.setEnable k n on).retain (enableIndex k) (n + 1)
  if s.fw.dmpDown.contains (fnDie k n) then { s with fw := { s.fw with latched := s.fw.latched ++ [(k, n, on)] } }
  else s.applyEnable k n on

/-- A function that is to run differently stops and then starts (R386, R308). In STARTING it does so once the start has ended; while the die's DMP
restarts, once that is back (R399); a stop under way ends what was. -/
def State.bounceFn (s : State) (k : FnKind) (n : Nat) : State :=
  let later : State := { s with bounce := if s.bounce.contains (k, n) then s.bounce else s.bounce ++ [(k, n)] }
  if s.fw.dmpDown.contains (fnDie k n) then later
  else match s.fnState k n with
    | 0 => if s.fnEnabled k n then s.startFn k n else s
    | 1 => later
    | 2 => if s.fnEnabled k n then (s.stopFn k n).setFn k n (3 + 8) else s.stopFn k n
    | _ => s

-- ## Ends of starts and stops

/-- A lane is entered in the retirement list, once (R412, R417). -/
def State.retireLane (s : State) (lane : Nat) : State :=
  if s.log.retired.contains (7, lane) then s else (s.retire 7 lane).severity 7 lane 0 6 1 {}

/-- A link port comes up with the lanes that train: a lane removed four times is retired, and entered in the log (R412, R417); whether another
removed lane trains is free. What training learns of the far end is free. -/
def State.linkUp (s : State) (pp : Nat) : State :=
  let p := s.port pp
  let gone (l : Nat) : Bool := 4 ≤ AMap.getD p.removals l 0
  let rm := (List.range 8).filter fun l => gone l || (p.removed.contains l && Config.freeBit (s.freeCtr + 2 + l))
  let s := ((List.range 8).filter gone).foldl (fun s l => s.retireLane (8 * pp + l)) s
  let wl := widthOf rm
  if s.minWidth pp < wl.1 then ((s.setPort pp { p with removed := rm }).portFault pp).useFree 10
  else
    let ext := bitOf (s.odGet 0x3141 (pp + 1)) 1 && Config.freeBit s.freeCtr
    let s := (s.setFn .link pp 2).setPort pp { removed := rm, removals := p.removals, narrowed := 0 < wl.1 }
    let v := setField (s.odGet 0x4140 (pp + 1)) 4 4 (if ext then 1 else 0)
    let v := setField v 31 15 (Config.freePick (s.freeCtr + 1) (2 ^ 17))
    (((s.odSet 0x4140 (pp + 1) v).portStatus pp wl).useFree 10).refreshService

/-- A core that has started carries its number; a spare that replaces another waits for the queue windows; an idle spare stops again. A core
that lost its number takes it again where that was left unassigned (DESIGN CHOICE, log 35), and becomes the spare otherwise (R389). -/
def State.coreUp (s : State) (phys : Nat) : State :=
  let rr := phys / 9
  let s := s.setFn .core phys 2
  let passed (c : Nat) : Bool := s.copyingWindows.any fun x => x.2 == c
  if s.copyingWindows.any (fun x => x.1 == phys) || (match s.logicalOf phys with | some c => !passed c | none => false) then s
  else if s.spareOf rr == some phys then s.setFn .core phys 3
  else
    match (AMap.find s.carried phys).filter fun c => !s.assigned c && !passed c with
    | some c => ((((s.setLogical c (phys % 9)).advanceEpoch c).wipeScratch c).zeroWindows c).refreshService
    | none => (s.setSpare rr (phys % 9)).setFn .core phys 3

/-- A function's start has succeeded. One that has to stop stops then: also a core whose region is stopping (R13, R389), and the function that is
to run differently (R386). -/
def State.fnUp (s : State) (k : FnKind) (n : Nat) : State :=
  let pendOff := 16 ≤ s.fnStatus k n || (k == .core && (s.fnState .region (n / 9) == 3 || s.fnState .region (n / 9) == 0))
  let again := s.bounce.contains (k, n)
  let s := s.unbounce k n
  let s := match k with
    | .core => s.coreUp n
    | .stack => (s.setFn .stack n 2).clearStack n
    | .link => s.linkUp n
    | _ => s.setFn k n 2
  if s.fnState k n != 2 then s
  else if pendOff then s.stopFn k n
  else if again then s.bounceFn k n
  else s

/-- A function goes to FAULTED: a core is fenced, a link port loses its flits, a host port its rings (R388). -/
def State.fnFault (s : State) (k : FnKind) (n : Nat) : State :=
  let s := s.unbounce k n
  match k with
  | .core => s.fenceCore n
  | .link => s.portFault n
  | .host => (((s.setFn .host n 4).resetPort n none).severity 8 n 0 0 1 {}).refreshService
  | _ => ((s.setFn k n 4).severity (kindCode k) n 0 0 1 {}).refreshService

/-- Whether PERST_N of a host port is asserted, by pin or by storm (R441, R442). -/
def State.perst (s : State) (h : Nat) : Bool :=
  if h == 0 then s.pins.perst0 || s.pins.storm.contains .perst0 else s.pins.perst1 || s.pins.storm.contains .perst1

/-- A host port trains only once its PERST_N is released (R389). -/
def State.startBlocked (s : State) (k : FnKind) (n : Nat) : Bool := k == .host && s.perst n

def effFunctionStartDone (k : FnKind) (n : Nat) (ok : Bool) (s : State) : State :=
  if s.fnState k n != 1 || (ok && s.startBlocked k n) then s
  else if ok then s.fnUp k n else s.fnFault k n

/-- FUNCTION_START_DONE (R388, R389). -/
def execFunctionStartDone (kind : FnKind) (n : Nat) (ok : Bool) (s : State) : Out :=
  answer (kind.ok n) (effFunctionStartDone kind n ok s)

/-- Whether the work that a function had accepted has ended (R389): on a core every tile has landed but those of completed ops (no ring is 512),
which they left open (R152). -/
def State.stopReady (s : State) (k : FnKind) (n : Nat) : Bool :=
  match k with
  | .core =>
    match s.logicalOf n with
    | some c => (s.core c).outq.isEmpty && (s.core c).releases.isEmpty && (s.core c).units.all fun u => u.r == 512
    | none => true
  | .region => (List.range 9).all fun x => s.fnState .core (9 * n + x) == 0 || s.fnState .core (9 * n + x) == 4
  | .link => (s.port n).retry.isEmpty
  | _ => true

/-- Every open context of a region's accumulator merges (R389). -/
def State.mergeAll (s : State) (rr : Nat) : State :=
  (s.sac rr).ctxs.foldl (fun s c => s.mergeCtx rr c) s

/-- A core has stopped: its open tiles are lost, and while its region stays ON its number goes to the spare or is left unassigned, as does the
number that it was to take (R389). -/
def State.coreDown (s : State) (phys : Nat) : State :=
  let s := s.setFn .core phys 0
  match s.logicalOf phys with
  | none => if s.fnState .region (phys / 9) == 2 then s.dropReplacement phys else s
  | some c =>
    let s := (s.orphanCore c).advanceEpoch c
    if s.fnState .region (phys / 9) == 2 then s.bringSpare c else s

/-- A function has stopped. -/
def State.fnDown (s : State) (k : FnKind) (n : Nat) : State :=
  match k with
  | .core => s.coreDown n
  | .region => ((s.mergeAll n).wipeRegion n).setFn .region n 0
  | .link => ((s.setPort n (s.port n).lanesOnly).setFn .link n 0).refreshService
  | _ => s.setFn k n 0

def effFunctionStopDone (k : FnKind) (n : Nat) (s : State) : State :=
  if s.fnState k n != 3 || !s.stopReady k n then s
  else
    let again := bitOf (s.fnStatus k n) 3
    let s := s.fnDown k n
    if again then s.startFn k n else s

/-- FUNCTION_STOP_DONE (R388, R389). -/
def execFunctionStopDone (kind : FnKind) (n : Nat) (s : State) : Out := answer (kind.ok n) (effFunctionStopDone kind n s)

/-- FUNCTION_ENABLE_WRITE (R388, R399). -/
def execFunctionEnableWrite (kind : FnKind) (n : Nat) (on : Bool) (s : State) : Out :=
  answer (kind.ok n) (if s.serving then s.writeEnable kind n on else s)

/-- The spare takes the number: its scratchpad begins zeroed, and its epoch advances (R278, R298, R407). -/
def State.takeNumber (s : State) (phys core : Nat) : State :=
  let s := { s with copyingWindows := s.copyingWindows.filter fun x => x.1 != phys }
  let s := ((s.setLogical core (phys % 9)).advanceEpoch core).wipeScratch core
  ((s.setCore core (s.core core).cleared).severity 3 phys 0 5 1 {}).refreshService

def effQueueWindowCopyDone (rr : Nat) (s : State) : State :=
  match s.copyingWindows.find? fun x => x.1 / 9 == rr && s.fnState .core x.1 == 2 with
  | some x => s.takeNumber x.1 x.2
  | none => s

/-- QUEUE_WINDOW_COPY_DONE (R278, R407). -/
def execQueueWindowCopyDone (rr : Nat) (s : State) : Out := answer (okRegion rr) (effQueueWindowCopyDone rr s)

def effHbmUnitClearDone (die unit : Nat) (s : State) : State :=
  if s.clearing.contains (die * 256 + unit) && s.fnState .stack (2 * die) == 2 && s.fnState .stack (2 * die + 1) == 2 then
    { s with clearing := s.clearing.filter fun x => x != die * 256 + unit }.dieBump 0x5306 die 1
  else s

/-- HBM_UNIT_CLEAR_DONE: the accesses that waited for the unit proceed (R271, R390). -/
def execHbmUnitClearDone (die unit : Nat) (s : State) : Out := answer (okDie die && unit < 252) (effHbmUnitClearDone die unit s)

-- ## Partitions (R385, R386)

def State.partHasUnit (s : State) (p : Nat) : Bool :=
  (List.range 4).any fun d => (List.range 252).any fun u => s.unitPart d u == some p

def State.partAlive (s : State) (p : Nat) : Bool := s.partPresent p || s.partHasUnit p

/-- A partition is removed: its slots close, its Almanac entries are freed, its key is zeroised (R386). -/
def State.removePart (s : State) (p : Nat) : State :=
  let mine := s.slots.filter fun ks => ks.2.owner == p && ks.2.st != .free
  let s := mine.foldl (fun s ks => s.closeSlot (ks.1 / 131072) (ks.1 % 131072)) s
  { s with alm := s.alm.map fun ia => if ia.2.owner == some p then (ia.1, {}) else ia, keys := AMap.erase s.keys p }

/-- A partition is created: the root of trust generates its key (R386). -/
def State.createPart (s : State) (p : Nat) : State :=
  { s with keys := AMap.set s.keys p (Config.freeKey s.freeCtr) }.useFree 1

/-- Partitions appear and disappear as the maps now say; `old` are those there were. -/
def State.settleParts (s : State) (old : List Nat) : State :=
  (List.range 8).foldl (fun s p =>
    if old.contains p && !s.partAlive p then s.removePart p
    else if !old.contains p && s.partAlive p then s.createPart p
    else s) s

/-- Whether a ring of a partition is not DISABLED. -/
def State.partBusy (s : State) (p : Nat) : Bool := s.rings.any fun kg => ringPart kg.1 == p && kg.2.st != .disabled

/-- Nibbles of a map that differ, as (number, old owner, new owner); 0xF is none. -/
def mapChanges (n old new : Nat) : List (Nat × Nat × Nat) :=
  (List.range n).filterMap fun i =>
    let a := field old (4 * i + 3) (4 * i)
    let b := field new (4 * i + 3) (4 * i)
    if a == b then none else some (i, a, b)

/-- The status of a write to a partition map: 0x0903 for a nibble out of range, 0x0902 while a ring of a losing or gaining partition is not
DISABLED, 0 when it is accepted (R385, R386). -/
def State.mapStatus (s : State) (n size old new : Nat) : Nat :=
  let nib (i : Nat) : Nat := field new (4 * i + 3) (4 * i)
  if ((List.range (2 * size)).any fun i => nib i != 0xF && (7 < nib i || n ≤ i)) then 0x0903
  else if (mapChanges n old new).any fun x => (x.2.1 < 8 && s.partBusy x.2.1) || (x.2.2 < 8 && s.partBusy x.2.2) then 0x0902
  else 0

/-- An accepted write to the region map or to a die's unit map (R386). -/
def State.writeMap (s : State) (index sub v : Nat) : State :=
  let old := (List.range 8).filter fun p => s.partAlive p
  let was := s.odGet index sub
  let s := s.odSet index sub v
  let s := s.settleParts old
  if index == 0x2010 then (mapChanges 16 was v).foldl (fun s x => s.bounceFn .region x.1) s
  else (mapChanges s.unitsPerDie was v).foldl (fun s x => if x.2.2 < 8 then s.clearUnit (sub - 1) x.1 else s) s

end Sys2Proof.Machine
end

