-- ==== Sys2Proof/Machine/Faults.lean ====
section
/-! DEFINITION. Faults and spares (17_faults_and_availability.md): fences and retests of cores, mirror repair and pseudo-channel retirement,
modules, phases, dies and the lead role (R402 to R416), and the regulator rails of R425. -/

namespace Sys2Proof.Machine

-- ## Cores (R406 to R408)

/-- Whether a cause of R406 holds, as far as the state shows it; a stopped beat and a parity failure are the core's own events. -/
def State.fenceCalled (s : State) (phys : Nat) (cause : FenceCause) : Bool :=
  match cause with
  | .verdict => (match s.logicalOf phys with | some c => (s.core c).lastFail.isSome | none => false)
  | .failures => (match s.logicalOf phys with | some c => s.tooManyFailures c | none => false)
  | .selfTest => s.fnState .core phys == 1
  | .dieFence => s.diesFenced.contains (phys / 36)
  | _ => true

/-- A core in service, or on its way into it or out of it. -/
def State.coreLive (s : State) (phys : Nat) : Bool := 1 ≤ s.fnState .core phys && s.fnState .core phys ≤ 3

def effCoreFence (phys : Nat) (cause : FenceCause) (s : State) : State :=
  if s.coreLive phys && s.fenceCalled phys cause then s.fenceCore phys else s

/-- CORE_FENCE (R406, R407). -/
def execCoreFence (phys : Nat) (cause : FenceCause) (s : State) : Out := answer (okPhys phys) (effCoreFence phys cause s)

def effProgressBeatTimeout (phys : Nat) (s : State) : State := if s.coreLive phys then s.fenceCore phys else s

/-- PROGRESS_BEAT_TIMEOUT: the core sequencer's beat has stopped for 10 ms (R406). -/
def execProgressBeatTimeout (phys : Nat) (s : State) : Out := answer (okPhys phys) (effProgressBeatTimeout phys s)

/-- A core is retired: it stays FAULTED and never returns (R408). -/
def State.retireCore (s : State) (phys : Nat) : State :=
  let rr := phys / 9
  let s := s.odSet 0x8002 (rr + 1) (s.odGet 0x8002 (rr + 1) ||| 2 ^ (phys % 9))
  (((s.setFn .core phys 4).retire 3 phys).severity 3 phys 0 6 1 {}).refreshService

def effFenceRetest (phys : Nat) (pass : Bool) (s : State) : State :=
  match AMap.find s.retest phys with
  | none => s
  | some _ =>
    let s := { s with retest := AMap.erase s.retest phys }
    if pass && s.fences.count phys ≤ 1 then (s.setSpare (phys / 9) (phys % 9)).setFn .core phys 0
    else s.retireCore phys

/-- FENCE_RETEST: the fenced core is started once; after its first fence it becomes the region's spare, and otherwise it is retired
(R408). -/
def execFenceRetest (phys : Nat) (pass : Bool) (s : State) : Out := answer (okPhys phys) (effFenceRetest phys pass s)

-- ## HBM (R242, R409 to R411)

def effMirrorRepair (bad good : Nat) (verify : Bool) (s : State) : State :=
  let b := memKey bad / 64 * 64
  let g := memKey good / 64 * 64
  if b / 2 ^ 48 % 4 != 0 || g / 2 ^ 48 % 4 != 0 || b / 2 ^ 50 == g / 2 ^ 50 || !s.bad.contains b || s.bad.contains g then s
  else
    let die := b / 2 ^ 50
    let ch := channelOf b
    let s := ((s.dieBump 0x5303 die 1).dieBit die 1).severity 4 ch.1 0 2 0 (addrErr 0 (b + s.pkg <<< 52))
    let s := { s with mem := Mem.writeNat s.mem b (Mem.readNat s.mem g 64) 64 }.sectorFailed b
    if verify then s.mendBy (· == b) else s.retireChannel ch.1 ch.2

/-- MIRROR_REPAIR: the sector that failed a mirrored read counts toward the retirement of its channel (R409); it is rewritten from the other copy and read again to verify; a failed verify retires its channel
(R242, R409). -/
def execMirrorRepair (bad good : Nat) (verify : Bool) (s : State) : Out := answer true (effMirrorRepair bad good verify s)

def effRetireCopyDone (ss : Nat) (s : State) : State :=
  let st := s.stack ss
  match st.copying with
  | none => s
  | some pc =>
    let s := s.setStack ss { st with reserveUsed := some pc, copying := none, failing := st.failing.filter fun f => channelOf f.1 != (ss, pc) }
    s.poison ss (s.bad.filter fun k => k / 2 ^ 48 % 4 == 0 && channelOf k == (ss, pc))

/-- RETIRE_COPY_DONE: the reserve holds the channel's logical number; sectors that failed their check during the copy are poisoned
(R409, R410). -/
def execRetireCopyDone (stack : Nat) (s : State) : Out := answer (okStack stack) (effRetireCopyDone stack s)

/-- The logical pseudo-channel that a physical one of a stack carries: the reserve is physical 63 (DESIGN CHOICE, log 36). -/
def Stack.logical (st : Stack) (pc : Nat) : Option Nat :=
  if pc == 63 then st.reserveUsed else if st.reserveUsed == some pc then none else some pc

def effHbmRetrain (ss pc : Nat) (ok : Bool) (s : State) : State :=
  if ok then s
  else match (s.stack ss).logical pc with
    | some l => if l < 63 then s.retireChannel ss l else s
    | none =>
      if pc == 63 then
        let s' := (s.setStack ss { s.stack ss with reserveUsed := some 63, copying := none }).retirePc ss 63
        match (s.stack ss).copying with
        | some l => s'.retireChannel ss l
        | none => s'
      else s

/-- HBM_RETRAIN: the periodic retraining of a pseudo-channel; one that fails is retired (R409, R431). Where it is the reserve, a copy into it ends,
and the channel that was being copied stays in service (R411; DESIGN CHOICE, log 212). -/
def execHbmRetrain (stack pc : Nat) (ok : Bool) (s : State) : Out := answer (okStack stack && pc < 64) (effHbmRetrain stack pc ok s)

-- ## Modules and phases (R413, R414, R426)

def State.disableModule (s : State) (k module : Nat) : State :=
  let d := AMap.getD s.d2d k {}
  { s with d2d := AMap.set s.d2d k { d with disabled := d.disabled ++ [module] } }

def effD2dModuleDisable (pair module : Nat) (s : State) : State :=
  if (AMap.getD s.d2d (d2dKey pair false) {}).disabled.contains module then s
  else
    (((s.disableModule (d2dKey pair false) module).disableModule (d2dKey pair true) module).severity 10 (8 * pair + module) 0 10 1
      {}).refreshService

/-- D2D_MODULE_DISABLE (R413). -/
def execD2dModuleDisable (pair module : Nat) (s : State) : Out := answer (pair < 6 && module < 8) (effD2dModuleDisable pair module s)

/-- Regions on a rail: rails 0 to 15 are the core rails of the regions, 16 to 19 the SRAM rails of the dies, 20 to 27 the HBM rails of the
stacks (DESIGN CHOICE, log 37). -/
def railRegions (rail : Nat) : List Nat :=
  if rail < 16 then [rail] else if rail < 20 then (List.range 4).map fun i => 4 * (rail - 16) + i else []

/-- The rating of a rail becomes the ceiling of its regions (R426). The clock whose current fits it depends on the load: a free value. -/
def State.lowerRail (s : State) (rail : Nat) : State :=
  (railRegions rail).foldl (fun s rr =>
    let p := s.regionPower rr
    (s.setRegionPower rr { p with railCeil := min p.railCeil (800 + Config.freePick s.freeCtr 1450 % 1450) }).useFree 1) s

def effPhaseFailure (rail : Nat) (s : State) : State :=
  let n := AMap.getD s.power.phases rail 0 + 1
  let s := { s with power := { s.power with phases := AMap.set s.power.phases rail n } }.setBit 0x4400 0 3
  let s := s.severity 9 rail 0 12 (if n < 3 then 0 else 3) {}
  if n < 3 then s else (s.lowerRail rail).refreshService

/-- PHASE_FAILURE: a failed phase is switched out; from the third of its rail on, the regions' clock ceilings are lowered (R414, R426). -/
def execPhaseFailure (rail : Nat) (s : State) : Out := answer (rail < 28) (effPhaseFailure rail s)

-- ## Dies and the lead role (R415, R416)

/-- The ports and other functions of a die go to FAULTED. -/
def State.faultDie (s : State) (d : Nat) : State :=
  let s := (List.range 4).foldl (fun s i => s.setFn .region (4 * d + i) 4) s
  let s := (List.range 2).foldl (fun s i => s.setFn .stack (2 * d + i) 4) s
  let s := (List.range 8).foldl (fun s i => s.portFault (8 * d + i)) s
  if d % 2 == 0 then (s.setFn .host (d / 2) 4).resetPort (d / 2) none else s

/-- Every function of a die goes to FAULTED, its cores too. -/
def State.faultAll (s : State) (d : Nat) : State :=
  (List.range 36).foldl (fun s i => s.setFn .core (36 * d + i) 4) (s.faultDie d)

/-- A die is fenced (R416): all of its structures go to FAULTED, its cores are fenced, its windows close. -/
def State.fenceDie (s : State) (d : Nat) : State :=
  if s.diesFenced.contains d then s
  else
    let s := ({ s with diesFenced := s.diesFenced ++ [d] }.faultDie d).maskDie d
    let s := (List.range 36).foldl (fun s i => if s.fnState .core (36 * d + i) == 4 then s else s.fenceCore (36 * d + i)) s
    let s := { s with retest := s.retest.filter fun kt => kt.1 / 36 != d }
    let s := (s.slots.filter fun ks => ks.1 / 131072 == d).foldl (fun s ks => s.closeSlot d (ks.1 % 131072)) s
    (s.severity 1 d 0 4 3 {}).refreshService

def effDmpHeartbeat (d : Nat) (s : State) : State := { s with dmpBeats := AMap.set s.dmpBeats d s.timeUs }

/-- DMP_HEARTBEAT (R415). -/
def execDmpHeartbeat (die : Nat) (s : State) : Out := answer (okDie die) (effDmpHeartbeat die s)

/-- The lead role moves, the new lead's copy of the ring is the ring (R419), and its mailboxes are the ones mapped (R380): transfers under way go unanswered, and so do requests for up to 20 ms, how long is free (R343, R415). -/
def State.moveLead (s : State) (d : Nat) : State :=
  { s.odSet 0x4000 0 (setField (s.odGet 0x4000 0) 7 6 d) with
      log := { s.log with ring := s.log.copy, copy := s.log.ring }
      can := { s.can with xfer := none }, mb0 := s.mbOther.1, mb1 := s.mbOther.2
      mbOther := ({ s.mb0 with xfer := none }, { s.mb1 with xfer := none })
      fw := { s.fw with leadUntil := s.timeUs + Config.freePick s.freeCtr 20001 % 20001 } }.useFree 1

/-- OWNER of the DMPs in lock cells (R297). -/
def dmpOwner : Nat := 0x82

def effLeadTakeover (s : State) : State :=
  if s.lead == 2 || s.diesFenced.contains 2 || s.fw.dmpDown.contains 2 then s
  else
    let s := ((s.moveLead 2).severity 11 0 0 11 1 {}).advanceEpoch dmpOwner
    ({ s with fw := { s.fw with dmpDown := if s.fw.dmpDown.contains 0 then s.fw.dmpDown else s.fw.dmpDown ++ [0], home := 2 } }.maskEgress 0 35).refreshService

/-- LEAD_TAKEOVER: die 2 takes the lead role for good, also in an update, and die 0's DMP is restarted (R415). -/
def execLeadTakeover (s : State) : Out := answer true (effLeadTakeover s)

def effOnDieNetworkTransfer (d : Nat) (parityOk : Bool) (s : State) : State :=
  if parityOk then { s with netFails := AMap.erase s.netFails d }
  else
    let n := AMap.getD s.netFails d 0 + 1
    let s := { s with netFails := AMap.set s.netFails d n }.severity 1 d 0 0 0 {}
    if 16 ≤ n then { s with netFails := AMap.erase s.netFails d }.fenceDie d else s

/-- ON_DIE_NETWORK_TRANSFER: one attempt of a die's transfer; one that fails parity is resent, and the sixteenth failure of one transfer
fences the die (R402). -/
def execOnDieNetworkTransfer (die : Nat) (parityOk : Bool) (s : State) : Out :=
  answer (okDie die) (effOnDieNetworkTransfer die parityOk s)

/-- The volatile ring is cleared (R423). -/
def State.clearFaultRing (s : State) : State := { s with log := { s.log with ring := [], copy := [] } }

def effFaultRingClear (value : W32) (s : State) : State := if s.serving && value.toNat % 2 == 1 then s.clearFaultRing else s

/-- FAULT_RING_CLEAR: a write of 0x6004.00 with bit 0 set (R423). -/
def execFaultRingClear (value : W32) (s : State) : Out := answer true (effFaultRingClear value s)

end Sys2Proof.Machine
end

