-- ==== Sys2Proof/Machine/Reset.lean ====
section
/-! DEFINITION. Resets and settings (R392 to R397, R424, R434, R443, R444): what ends with the main rails, OTP generations, the retained
store, restoring settings and starting every enabled function. -/

namespace Sys2Proof.Machine

-- ## What outlives a reset (R396, R397, R419, R444)

/-- Entries that no reset changes: identity, flash slots, LOG_SEQ, retirements, and the debug count; of the conditions bit 5, which a retired
structure keeps in force (R420). -/
def odOutlives (index : Nat) : Bool := [0x1000, 0x1001, 0x4001, 0x5321, 0x6000, 0x8002, 0xF012].contains index

/-- Debug unlock ends with a reset (R452). -/
def lockAgain (v : Nat) : Nat := v / 4 * 4 + 1

def State.odAfterReset (s : State) : AMap Nat :=
  (s.od.filter fun kv => odOutlives (kv.1 / 256)).map fun kv =>
    if kv.1 / 256 == 0xF012 then (kv.1, lockAgain kv.2) else if kv.1 / 256 == 0x4001 then (kv.1, kv.2 &&& 32) else kv

/-- A stack keeps its retired pseudo-channel; a copy under way is done with, since its contents are lost. -/
def Stack.afterReset (st : Stack) : Stack := { reserveUsed := st.reserveUsed.or st.copying }

/-- The loops begin again; failed phases and the lifetime temperature stay. -/
def Power.afterReset (p : Power) : Power :=
  { phases := p.phases, tempSum := p.tempSum, tempCount := p.tempCount, alwaysOn := p.alwaysOn, tripped := p.tripped }

/-- An image that was being received into the inactive slot is invalid; a slot that was not confirmed is not booted (R400, R445). -/
def Firmware.afterReset (f : Firmware) (inactive : Nat) : Firmware :=
  let cut (slot : Nat) (img : List Byte) : List Byte := if f.incomingTotal != 0 && slot == inactive then [] else img
  { imageA := cut 0 f.imageA, imageB := cut 1 f.imageB, imageKeys := f.imageKeys, debugKeys := f.debugKeys
    keyRevoked := f.keyRevoked, debugRevoked := f.debugRevoked, secField := f.secField }

/-- Every outstanding command is lost, every function is OFF, and memory off the always-on domain is lost (R444). Kept are OTP and the
flash, the retained store, what lies outside the package, and the clock that runs from the last cold power-up. -/
def State.endAll (s : State) (boot : Boot) : State :=
  { State.reset with
    pending := s.pending
    host0 := s.host0
    host1 := s.host1
    hostBad := s.hostBad
    od := s.odAfterReset
    ports := s.ports.map fun kp => (kp.1, ({ removed := kp.2.removed, removals := kp.2.removals } : Port))
    canTx := s.canTx
    msix := s.msix
    otp := s.otp
    retained := s.retained
    retainedBad := s.retainedBad
    fw := s.fw.afterReset (1 - s.odGet 0x1001 4 % 2)
    hbmStacks := s.hbmStacks.map fun ks => (ks.1, ks.2.afterReset)
    log := { s.log with ring := [], copy := [], recent := [], lastBroadcast := none }
    diesFenced := s.diesFenced
    fences := s.fences
    d2d := s.d2d.map fun kd => (kd.1, ({ disabled := kd.2.disabled } : D2d))
    timeUs := s.timeUs
    regions := s.regions.map fun kr => (kr.1, ({ railCeil := kr.2.railCeil } : RegionPower))
    power := s.power.afterReset
    pins := { s.pins with ready := false, faultN := true, fromOtp := s.pins.fromOtp || s.commit.isSome }
    boot := boot
    dbg := { lastTry := s.dbg.lastTry }
    freeCtr := s.freeCtr }

-- ## The retained store as a whole (R396)

/-- The dies in whose store an entry lies: the die of the structure that its subindex names, or the lead and standby lead dies (R396). -/
def storeDies (key : Nat) : List Nat :=
  let i := key % 256 - 1
  match odRow (key / 256) with
  | none => []
  | some row =>
    match row.n with
    | 144 => [i / 36]
    | 128 => [i / 32]
    | 32 => [i / 8]
    | 16 => [i / 4]
    | 8 => [i / 2]
    | 4 => [i]
    | 2 => [2 * i]
    | _ => [0, 2]

/-- What a die's retained store holds: its entries, each as a record of R393. -/
def State.dieStore (s : State) (d : Nat) : List OtpRec :=
  (s.retained.filter fun kv => (storeDies kv.1).contains d).filterMap fun kv =>
    (odRow (kv.1 / 256)).map fun row =>
      { index := kv.1 / 256, first := kv.1 % 256, last := kv.1 % 256, ty := row.ty, vlen := row.size, value := kv.2 }

/-- The CRC-32C over a die's retained store, which the store carries unless it fails its check (R397). -/
def State.storeCrc (s : State) (d : Nat) : BitVec 32 := crc32c ((s.dieStore d).flatMap OtpRec.bytes)

/-- Whether every store that holds an entry fails its check. -/
def State.storeLost (s : State) (key : Nat) : Bool := (storeDies key).all fun d => s.retainedBad.contains d

/-- The retained stores as they follow from the entries now in force. -/
def State.retainAll (s : State) : State :=
  { s with retainedBad := [], retained := s.od.filter fun kv => isKept (kv.1 / 256) && kv.2 != odDefault s (kv.1 / 256) (kv.1 % 256) }

-- ## OTP (R392, R393)

/-- The copy by which a generation counts: the lead die's, or the standby lead's where that does not pass (R392). -/
def OtpGen.copy (g : OtpGen) : OtpCopy := if g.lead.valid then g.lead else g.standby

def OtpGen.valid (g : OtpGen) : Bool := g.copy.valid
def OtpGen.seq (g : OtpGen) : Nat := g.copy.seq
def OtpGen.recs (g : OtpGen) : List OtpRec := g.copy.recs

/-- The valid generation with the highest SEQ. -/
def latestGen : AMap OtpGen → Option (Nat × OtpGen)
  | [] => none
  | (k, g) :: m =>
    match latestGen m with
    | some b => if g.valid && b.2.seq < g.seq then some (k, g) else some b
    | none => if g.valid then some (k, g) else none

/-- An entry that extends a run of equal values, or begins one (R393). -/
def mergeRec (r : OtpRec) : List OtpRec → List OtpRec
  | [] => [r]
  | q :: qs => if q.index == r.index && q.first == r.last + 1 && q.value == r.value then { q with first := r.first } :: qs else r :: q :: qs

/-- The records of every CP entry whose value differs from its reset value. -/
def State.cpRecords (s : State) : List OtpRec :=
  (s.od.filter fun kv => isCp (kv.1 / 256) && kv.2 != odDefault s (kv.1 / 256) (kv.1 % 256)).foldr (fun kv rs =>
    match odRow (kv.1 / 256) with
    | some row => mergeRec { index := kv.1 / 256, first := kv.1 % 256, last := kv.1 % 256, ty := row.ty, vlen := row.size, value := kv.2 } rs
    | none => rs) []

/-- Bytes of records: an 8-byte key and the value, padded to 8 bytes. -/
def recBytes (rs : List OtpRec) : Nat := rs.foldl (fun a r => a + 8 + roundUp r.vlen 8) 0

/-- A record sets every subindex from FIRST to LAST, of those that `takes` admits. -/
def State.applyRec (takes : Nat → Bool) (s : State) (r : OtpRec) : State :=
  (List.range (r.last + 1 - r.first)).foldl (fun s i =>
    if takes (r.index * 256 + r.first + i) then s.odSet r.index (r.first + i) r.value else s) s

-- ## Restoring settings and starting (R397, R443)

/-- SRC and GEN of 0x4000.00. -/
def State.setSource (s : State) (src gen : Nat) : State :=
  s.odSet 0x4000 0 (setField (setField (s.odGet 0x4000 0) 11 10 src) 15 12 gen)

/-- Entries of the latest valid generation, of those that `takes` admits, and its number. -/
def State.fromGen (s : State) (takes : Nat → Bool) : State × Nat × Nat :=
  match latestGen s.otp with
  | some g => (g.2.recs.foldl (State.applyRec takes) s, 1, g.1)
  | none => (s, 0, 0)

/-- Entries of the retained stores, of those that `takes` admits. -/
def State.fromStores (s : State) (takes : Nat → Bool) : State :=
  (s.retained.filter fun kv => takes kv.1).foldl (fun s kv => s.odSet (kv.1 / 256) (kv.1 % 256) kv.2) s

/-- Retained stores and OTP copies that fail their CRC-32C as the settings are restored are logged for their dies (R402, R417). -/
def State.noteSources (s : State) : State :=
  let fails (c : OtpCopy) : Bool := c.seq != 0 && !c.valid
  let copies := s.otp.flatMap fun kg => if fails kg.2.lead then s.lead :: (if fails kg.2.standby then [s.standby] else []) else []
  (s.retainedBad ++ copies).foldl (fun s d => s.lostQuietly 1 d) s

/-- Settings after a cold power-up come from the latest valid OTP generation, with what has been written since (DEDUCED, log 38); so they do
after a reset in a commit, with the storm bits alone (R445). After a warm reset they come from the retained stores; the entries of a store that
fails its check come as at a cold power-up, and RS_LOST is set (R397). -/
def State.restore (s : State) : State :=
  let s := s.noteSources
  if s.pins.cold || s.pins.fromOtp then
    let x := s.fromGen fun _ => true
    let t := x.1.fromStores fun k => !s.storeLost k && (!s.pins.fromOtp || k / 256 == 0x4401)
    ((if s.retainedBad.isEmpty then t else t.setBit 0xF001 0 10).setSource x.2.1 x.2.2).retainAll
  else if s.retainedBad.isEmpty then (s.fromStores fun _ => true).setSource 2 0
  else
    let x := s.fromGen s.storeLost
    let all := (List.range 4).all fun d => s.retainedBad.contains d
    let t := ((x.1.fromStores fun k => !s.storeLost k).setBit 0xF001 0 10).retainAll
    if all then t.setSource x.2.1 x.2.2 else t.setSource 2 0

/-- A retired core stays FAULTED; the region's spare carries its number from the start, or the number is unassigned (R397, R408; DEDUCED,
log 39). -/
def State.placeRetired (s : State) (phys : Nat) : State :=
  if !s.isRetired phys then s
  else
    let rr := phys / 9
    let s := s.setFn .core phys 4
    if phys % 9 == 8 then s.setSpare rr 0xF
    else match s.spareOf rr with
      | some x => if s.isRetired x then s.setLogical (8 * rr + phys % 9) 0xF
                  else (s.setLogical (8 * rr + phys % 9) (x % 9)).setSpare rr 0xF
      | none => s.setLogical (8 * rr + phys % 9) 0xF

/-- Every core begins with the split that its entries name (R275, R277). -/
def State.splitNow (s : State) (c : Nat) : Nat × Nat × Nat :=
  (s.odGet 0x3130 (c + 1), s.odGet 0x3131 (c + 1), s.odGet 0x3132 (c + 1))

def State.applySplits (s : State) : State :=
  (List.range 128).foldl (fun s c =>
    if s.splitNow c == (s.core c).split then s else s.setCore c { s.core c with split := s.splitNow c }) s

/-- Retired cores as the retirement list has them; a slot whose tag fails is ignored (R419). -/
def State.readRetirements (s : State) : State :=
  (List.range 16).foldl (fun s rr =>
    let cores := (List.range 9).filter fun x => s.log.structures.contains (3, 9 * rr + x)
    s.odSet 0x8002 (rr + 1) (cores.foldl (fun a x => a + 2 ^ x) 0)) s

/-- A host port that has trained while its settings were not known stops where they disable it (R388). -/
def State.stopHosts (s : State) : State :=
  (List.range 2).foldl (fun s h =>
    if !s.fnEnabled .host h && (s.fnState .host h == 1 || s.fnState .host h == 2) then s.applyEnable .host h false else s) s

/-- Each function whose enable is 1 starts (R397, R443); those of a fenced die stay FAULTED (R420). -/
def State.startAll (s : State) : State :=
  let s := (List.range 144).foldl State.placeRetired s.readRetirements
  let s := s.diesFenced.foldl State.faultAll s
  let s := s.applySplits
  let s := s.settleParts []
  let go (s : State) (k : FnKind) : State :=
    (List.range (fnCount k)).foldl (fun s n => if s.fnEnabled k n && s.fnState k n == 0 then s.startFn k n else s) s
  go (go (go (go s.stopHosts .region) .stack) .link) .host

/-- The always-on domain starts after a loss of the 48 V: a cold power-up (R424, R443). The lifetime temperature and the count of cold power-ups
come from the flash (R419). -/
def State.coldPower (s : State) : State :=
  let e := s.log.lifeNow
  ({ s with timeUs := 0, log := { s.log with boots := (e.boots + 1) % 65536 }, power := { s.power with tempSum := e.tempSum, tempCount := e.tempCount }
            dbg := { s.dbg with lastTry := none } }.odSet 0xF012 0 1).keepLife

/-- The 48 V is lost, or handled as lost: the retained store goes with it (R396, R424). A latched trip stays: only SYS_RESET_N clears it (R434). -/
def State.losePower (s : State) : State :=
  let s := s.endAll .noPower
  { s with retained := [], retainedBad := [], pins := { s.pins with cold := true, warm := false, fromOtp := false, late := false } }

/-- The thermal trip sequence: the power stages are off, and the trip is latched (R432, R434). -/
def State.trip (s : State) : State :=
  let s := s.endAll .tripped
  { s with power := { s.power with tripped := true }, pins := { s.pins with warm := false } }

end Sys2Proof.Machine
end

