-- ==== Sys2Proof/Machine/Power.lean ====
section
/-! DEFINITION. Power, clocks and cooling (18_power_clocks_thermal.md): the power loop and its samples, the brakes, the thermal loop and
trip, adaptive voltage, droop, and the clock references. -/

namespace Sys2Proof.Machine

/-- Whether the power stages run. -/
def State.powerOn (s : State) : Bool := s.boot != .noPower && s.boot != .tripped

def regionsAll : List Nat := List.range 16

/-- The lowest ceiling that the loops, the rail and the cap set for a region's clock (R427, R431, R433): what a loop steps down from. -/
def State.loopCeil (s : State) (rr : Nat) : Nat :=
  let p := s.regionPower rr
  max 800 ([p.powerCeil, p.thermalCeil, p.railCeil].foldl min (s.odGet 0x3181 (rr + 1)))

/-- The lowest ceiling of a region's clock, with what a brake has left to return (R430, R431). -/
def State.regionCeil (s : State) (rr : Nat) : Nat := max 800 (min (s.loopCeil rr) (s.regionPower rr).rampCeil)

-- ## The brakes (R429, R430)

/-- Under a brake every clock is 0.8 GHz and every core rail goes to its lowest adaptive voltage; on release the ceilings return from
there (R429, R430). -/
def State.clampRegions (s : State) : State :=
  regionsAll.foldl (fun s rr => s.setRegionPower rr { s.regionPower rr with rampCeil := 800, millivolts := 550 }) s

/-- BRAKE_IN follows the filtered pin. -/
def State.setBrakeIn (s : State) (on : Bool) : State :=
  let s := { s with power := { s.power with brakeIn := on } }
  if on then s.setBit 0x4400 0 0 else s.clearBit 0x4400 0 0

/-- The brake pin asserts after its filter, or is latched so by a storm. -/
def State.brakeOn (s : State) : State := if s.powerOn then (s.setBrakeIn true).clampRegions else s
def State.brakeOff (s : State) : State := s.setBrakeIn false

def State.brakeLatched (s : State) : Bool := s.pins.storm.contains .brake

/-- A brake pin that is held asserted, or latched so by a storm, is in force from the start on (R441, R442). -/
def State.takeBrake (s : State) : State := if s.pins.brake || s.brakeLatched then s.brakeOn else s

def effPowerBrakeAssert (s : State) : State :=
  if s.brakeLatched then s else { s with pins := { s.pins with brake := true } }.brakeOn

/-- POWER_BRAKE_ASSERT (R429). -/
def execPowerBrakeAssert (s : State) : Out := answer true (effPowerBrakeAssert s)

def effPowerBrakeRelease (s : State) : State :=
  if s.brakeLatched then s else { s with pins := { s.pins with brake := false } }.brakeOff

/-- POWER_BRAKE_RELEASE (R430). -/
def execPowerBrakeRelease (s : State) : Out := answer true (effPowerBrakeRelease s)

def effBrakeReleaseStep (s : State) : State :=
  if s.braked then s
  else regionsAll.foldl (fun s rr =>
    let p := s.regionPower rr
    if p.rampCeil < 2250 then s.setRegionPower rr { p with rampCeil := min 2250 (p.rampCeil + 25) } else s) s

/-- BRAKE_RELEASE_STEP: 10 µs after the last (R430). -/
def execBrakeReleaseStep (s : State) : Out := answer true (effBrakeReleaseStep s)

-- ## Input power (R424, R427, R428)

/-- PLIM in force, in microwatts: a write takes effect at the next 100 µs step (R428). -/
def State.plim (s : State) : Nat := s.power.limit * 1000000

/-- The sum of the last 1,000 samples and their number, at least 1: the moving average is their quotient. -/
def Power.total (p : Power) : Nat := p.samples.foldl (· + ·) 0
def Power.count (p : Power) : Nat := max 1 p.samples.length

def State.avgAbovePlim (s : State) : Bool := s.plim * s.power.count < s.power.total

/-- The transient allowance in microwatts at an input voltage in millivolts (R428). -/
def allowance (mv : Nat) : Nat := min 2300000000 (55000 * mv)

/-- The highest samples of the last second, falling towards the newest. -/
def notePeak (now x : Nat) (l : List (Nat × Nat)) : List (Nat × Nat) :=
  (l.filter fun tx => now < tx.1 + 1000000 && x < tx.2) ++ [(now, x)]

/-- The internal brake of R428: a sample above the allowance or 10 ms of samples above PLIM apply it, and it lasts until the average has
fallen to PLIM. -/
def State.judgeBrake (s : State) (mv x : Nat) : State :=
  if allowance mv < x || 10000 ≤ s.power.runAbove then
    if s.power.brakePower then s else { s with power := { s.power with brakePower := true } }.clampRegions
  else if s.power.brakePower && !s.avgAbovePlim then { s with power := { s.power with brakePower := false } }
  else s

def effPowerSample (mv ma : Nat) (s : State) : State :=
  if !s.powerOn then { s with timeUs := s.timeUs + 1 }
  else
    let x := mv * ma
    let p := s.power
    let now := s.timeUs + 1
    let p : Power := { p with
      samples := x :: p.samples.take 999
      runAbove := if s.plim < x then p.runAbove + 1 else 0
      peak := notePeak now x p.peak
      millivolts := mv
      milliamps := ma }
    let s := { s with timeUs := now, power := p }.judgeBrake mv x
    if s.braked then s.bump 0x7030 0 1 else s

/-- POWER_SAMPLE: one microsecond passes, and the input power is sampled (R427, R428). -/
def execPowerSample (millivolts milliamps : Nat) (s : State) : Out := answer true (effPowerSample millivolts milliamps s)

/-- A region's power ceiling goes down from the ceiling in force, or up (R427; DEDUCED, log 40). -/
def State.lowerPower (s : State) (rr step : Nat) : State :=
  s.setRegionPower rr { s.regionPower rr with powerCeil := max 800 (s.loopCeil rr - step) }
def State.raisePower (s : State) (rr : Nat) : State :=
  let p := s.regionPower rr
  s.setRegionPower rr { p with powerCeil := min 2250 (p.powerCeil + 25) }

def State.activeRegions (s : State) : List Nat := regionsAll.filter fun rr => s.fnState .region rr == 2

/-- The value of 0x3180.00 comes into force (R428). -/
def State.takeLimit (s : State) : State := { s with power := { s.power with limit := s.odGet 0x3180 0 } }

/-- The average above PLIM lowers the active regions, by 100 MHz once it has stayed so for 5 ms, and PLIM_HIT is set when a ceiling is lowered;
below 0.97 PLIM they rise. -/
def State.loopStep (s : State) : State :=
  if s.avgAbovePlim then
    let n := s.power.avgAbove + 1
    let s := { s with power := { s.power with avgAbove := n } }
    let step := if n ≤ 50 then 25 else 100
    let low := s.activeRegions.filter fun rr => 800 < s.loopCeil rr
    if low.isEmpty then s else (low.foldl (fun s rr => s.lowerPower rr step) s).setBit 0x4400 0 1
  else
    let s := { s with power := { s.power with avgAbove := 0 } }
    if 100 * s.power.total < 97 * (s.plim * s.power.count) then s.activeRegions.foldl State.raisePower s else s

def effPowerLoopStep (s : State) : State := if s.powerOn then s.takeLimit.loopStep else s

/-- POWER_LOOP_STEP: 100 µs of the package power loop (R427). -/
def execPowerLoopStep (s : State) : Out := answer true (effPowerLoopStep s)

def effInputOutOfRange (s : State) : State := if s.boot == .noPower then s else s.losePower

/-- INPUT_OUT_OF_RANGE: the input was below 39 V or above 62 V for 100 µs; handled as a loss of 48 V (R424). -/
def execInputOutOfRange (s : State) : Out := answer true (effInputOutOfRange s)

-- ## Temperatures (R433, R434)

def State.takeReading (s : State) : Reading → State
  | .region rr k t =>
    let p := s.regionPower rr
    s.setRegionPower rr { p with temps := AMap.set p.temps k t }
  | .die d k t => { s with power := { s.power with dieTemps := AMap.set s.power.dieTemps (4 * d + k % 4) t } }
  | .stack ss t => { s with power := { s.power with stackTemps := AMap.set s.power.stackTemps ss t } }
  | .alwaysOn t => { s with power := { s.power with alwaysOn := t } }

/-- All junction readings of the package. -/
def State.junctions (s : State) : List Int := (s.regions.flatMap fun kr => kr.2.temps.map (·.2)) ++ s.power.dieTemps.map (·.2)

/-- A trip temperature in the readings: a junction at 115 °C, a stack at 105 °C. -/
def State.tripHot (s : State) : Bool :=
  s.junctions.any (fun t => 115000 ≤ t) || s.power.stackTemps.any fun kt => 105000 ≤ kt.2

/-- The thermal brake begins with a junction at 105 °C and lasts until every junction is at 100 °C or below. -/
def State.thermalBrake (s : State) : State :=
  if s.junctions.any fun t => 105000 ≤ t then
    if s.power.brakeThermal then s else { s with power := { s.power with brakeThermal := true } }.clampRegions
  else if s.power.brakeThermal && s.junctions.all fun t => t ≤ 100000 then { s with power := { s.power with brakeThermal := false } }
  else s

/-- Stacks at 95 °C are paced until they are at 92 °C or below. -/
def State.paceStacks (s : State) : State :=
  let keep := s.power.stackPaced.filter fun ss => 92000 < AMap.getD s.power.stackTemps ss 0
  let hot := (s.power.stackTemps.filter fun kt => 95000 ≤ kt.2 && !keep.contains kt.1).map (·.1)
  { s with power := { s.power with stackPaced := keep ++ hot } }

/-- The lifetime average takes the mean of the junctions at each sample, and an entry in the flash keeps it (R419; DEDUCED, log 41). -/
def State.noteLifetime (s : State) : State :=
  let js := s.junctions
  if js.isEmpty then s
  else State.keepLife { s with power := { s.power with
    tempSum := s.power.tempSum + js.foldl (· + ·) 0 / (js.length : Int)
    tempCount := s.power.tempCount + 1 } }

def effThermalSample (rs : List Reading) (s : State) : State :=
  let s := rs.foldl State.takeReading s
  if !s.powerOn then s
  else if s.tripHot then s.trip
  else (s.thermalBrake.paceStacks).noteLifetime

/-- THERMAL_SAMPLE: the sensor readings of 10 µs (R433, R434). -/
def execThermalSample (rs : List Reading) (s : State) : Out := answer (rs.all Reading.ok) (effThermalSample rs s)

/-- A region at 100 °C goes down by 25 MHz, one at 98 °C or below goes up (R433). -/
def State.thermalStep (s : State) (rr : Nat) : State :=
  let t := s.regionTemp rr
  let p := s.regionPower rr
  if 100000 ≤ t then
    (s.setRegionPower rr { p with thermalCeil := max 800 (s.loopCeil rr - 25) }).setBit 0x4400 0 2
  else if t ≤ 98000 && p.thermalCeil < 2250 then s.setRegionPower rr { p with thermalCeil := min 2250 (p.thermalCeil + 25) }
  else s

def effThermalLoopStep (s : State) : State := if s.powerOn then regionsAll.foldl State.thermalStep s else s

/-- THERMAL_LOOP_STEP: 100 µs of the thermal loop (R433). -/
def execThermalLoopStep (s : State) : Out := answer true (effThermalLoopStep s)

-- ## Voltage and droop (R431)

def effAdaptiveVoltageStep (rr : Nat) (up : Bool) (s : State) : State :=
  let p := s.regionPower rr
  if s.braked then s
  else s.setRegionPower rr { p with millivolts := if up then min 900 (p.millivolts + 5) else max 550 (p.millivolts - 5) }

/-- ADAPTIVE_VOLTAGE_STEP: 5 mV, within 0.55 to 0.90 V (R431); under a brake the rail stays at its lowest (R429). -/
def execAdaptiveVoltageStep (rr : Nat) (up : Bool) (s : State) : Out := answer (okRegion rr) (effAdaptiveVoltageStep rr up s)

def effDroopStretch (rr cycles : Nat) (s : State) : State :=
  (s.setRegionPower rr { s.regionPower rr with droop := max 64 cycles }).regionBump 0x5330 rr 1

/-- DROOP_STRETCH: the region clock runs at half rate for 64 cycles or more (R431). -/
def execDroopStretch (rr cycles : Nat) (s : State) : Out := answer (okRegion rr) (effDroopStretch rr cycles s)

/-- DROOP_STRETCH_END (R431). -/
def effDroopStretchEnd (rr : Nat) (s : State) : State := s.setRegionPower rr { s.regionPower rr with droop := 0 }
def execDroopStretchEnd (rr : Nat) (s : State) : Out := answer (okRegion rr) (effDroopStretchEnd rr s)

/-- The clock that a region runs at: half its set clock while a stretch lasts (R431). -/
def State.runningMHz (s : State) (rr : Nat) : Nat := if 0 < (s.regionPower rr).droop then s.regionMHz rr / 2 else s.regionMHz rr

-- ## References (R432)

def effReferenceLoss (ref : Ref) (s : State) : State :=
  let p := s.power
  match ref with
  | .a => ({ s with power := { p with lostA := true, useB := p.useB || !p.lostB } }.setBit 0x4400 0 4).severity 0 0 0 0 0 {}
  | .b => ({ s with power := { p with lostB := true, useB := if p.lostA then p.useB else false } }.setBit 0x4400 0 4).severity 0 0 0 0 0 {}
  | .link => ({ s with power := { p with lostLink := true } }.setBit 0x4400 0 5).severity 0 0 0 0 0 {}

/-- REFERENCE_LOSS: the PLLs run from the other 100 MHz reference, or synthesise the link clock (R432). -/
def execReferenceLoss (ref : Ref) (s : State) : Out := answer true (effReferenceLoss ref s)

def effReferenceHoldoverExpiry (s : State) : State := if s.power.lostA && s.power.lostB && s.powerOn then s.trip else s

/-- REFERENCE_HOLDOVER_EXPIRY: with both 100 MHz references lost, 10 ms of holdover end in the trip sequence (R432). -/
def execReferenceHoldoverExpiry (s : State) : Out := answer true (effReferenceHoldoverExpiry s)

end Sys2Proof.Machine
end

