-- ==== Sys2Proof/Machine/Startup.lean ====
section
/-! DEFINITION. Signals, start-up and debug (19_signals_startup_security.md): the filtered inputs and their storms, the way from input power
to READY, boot images, host port resets, the TAPs and debug unlock. -/

namespace Sys2Proof.Machine

-- ## SYS_RESET_N and the start (R438, R441 to R445)

/-- Whether SYS_RESET_N holds the package in reset, by its pin or by a storm. -/
def State.sysResetHeld (s : State) : Bool := s.pins.sysReset || s.pins.storm.contains .sysReset

/-- An OTP commit that a reset cuts short leaves its generation spent and invalid (R445): the commit stored it so. -/
def State.hold (s : State) : State :=
  let s := { s with pins := { s.pins with warm := false } }
  if s.boot == .noPower || s.boot == .tripped then s else s.endAll .standby

/-- A host port trains from the start on, before its settings are restored, once its PERST_N lets it (R443, R389). -/
def State.trainHosts (s : State) : State :=
  (List.range 2).foldl (fun s h => if s.diesFenced.contains (fnDie .host h) then s else s.setFn .host h 1) s

/-- The moment T of R443: NODE_ID is sampled and the power stages start, under the brake where its pin holds it; the host ports train. -/
def State.powerUp (s : State) : State := { s.odSet 0x1100 0 s.pins.nodeId with boot := .booting }.takeBrake.trainHosts

/-- A release of SYS_RESET_N. It clears a latched trip once the always-on sensor reads 80 °C or below (R434). -/
def State.released (s : State) : State :=
  match s.boot with
  | .standby => s.powerUp
  | .tripped => if s.power.alwaysOn ≤ 80000 then { s with power := { s.power with tripped := false } }.powerUp else s
  | .noPower => { s with pins := { s.pins with late := true } }
  | _ => s

def effSysResetAssert (s : State) : State :=
  if s.pins.storm.contains .sysReset then s else { s with pins := { s.pins with sysReset := true } }.hold

/-- SYS_RESET_ASSERT (R444). -/
def execSysResetAssert (s : State) : Out := answer true (effSysResetAssert s)

def effSysResetRelease (nodeId : Nat) (s : State) : State :=
  if s.pins.storm.contains .sysReset || !s.pins.sysReset then s
  else { s with pins := { s.pins with sysReset := false, nodeId := nodeId % 128 } }.released

/-- SYS_RESET_RELEASE, with the level of NODE_ID[6:0] (R372, R443). -/
def execSysResetRelease (nodeId : Nat) (s : State) : Out := answer true (effSysResetRelease nodeId s)

/-- The always-on domain starts: a cold power-up follows, from T at once when SYS_RESET_N has been released (R443). A latched trip stays until
SYS_RESET_N is released after it, which may have happened without power (R434). -/
def State.applyPower (s : State) : State :=
  if s.boot != .noPower then s
  else
    let t := s.power.tripped
    let late := s.pins.late
    let s := { s.coldPower with boot := if t then .tripped else .standby, pins := { s.pins with late := false } }
    if s.sysResetHeld || (t && !late) then s else s.released

/-- INPUT_POWER_APPLIED (R443). -/
def execInputPowerApplied (s : State) : Out := answer true s.applyPower

/-- INPUT_RESTORED: the input has been back within 40 to 60 V for 10 ms (R424). -/
def execInputRestored (s : State) : Out := answer true s.applyPower

def effWarmReset (s : State) : State :=
  if s.serving then
    let s := s.endAll .standby
    { s with pins := { s.pins with warm := true } }
  else s

/-- WARM_RESET: bit 0 of 0x3000.00 is written 1 (R444). -/
def execWarmReset (s : State) : Out := answer true (effWarmReset s)

def effWarmResetRelease (s : State) : State :=
  if s.pins.warm && s.boot == .standby && !s.sysResetHeld then { s with pins := { s.pins with warm := false } }.powerUp else s

/-- WARM_RESET_RELEASE: 10 ms after the write (R444). -/
def execWarmResetRelease (s : State) : Out := answer true (effWarmResetRelease s)

-- ## Boot images (R447 to R449)

/-- The header of an image: its first 512 bytes. -/
def imageHeader (img : List Byte) : Nat := natOf (img.take 512)

def imageVersion (img : List Byte) : Nat := field (imageHeader img) 95 64
def imageSecver (img : List Byte) : Nat := field (imageHeader img) 63 48
def imageKeyslot (img : List Byte) : Nat := field (imageHeader img) 47 40

/-- BODY_LEN, PUBKEY, SIG and the body of an image (R447). -/
def imageBodyLen (img : List Byte) : Nat := field (imageHeader img) 127 96
def imagePubkey (img : List Byte) : List Byte := (img.drop 319).take 97
def imageSig (img : List Byte) : List Byte := (img.drop 416).take 96
def imageBody (img : List Byte) : List Byte := (img.drop 512).take (imageBodyLen img)

/-- The SHA-384 of a public key that an image-key slot holds, of slots 0 to 3 (R448). -/
def Firmware.imageKey (f : Firmware) (slot : Nat) : Option (BitVec 384) :=
  if slot < 4 then some (AMap.getD f.imageKeys slot (Config.imageKeyHash slot)) else none

/-- The SHA-384 of a public key that a debug-key slot holds, of slots 0 and 1 (R451). -/
def Firmware.debugKey (f : Firmware) (slot : Nat) : Option (BitVec 384) :=
  if slot < 2 then some (AMap.getD f.debugKeys slot (Config.debugKeyHash slot)) else none

/-- Whether the hash of a public key stands in a slot that is not revoked (R448, R451). -/
def slotHolds (hash : Nat → Option (BitVec 384)) (revoked : List Nat) (pubkey : List Byte) (slot : Nat) : Bool :=
  !revoked.contains slot && hash slot == some (BitVec.ofNat 384 (sha384 pubkey))

/-- Whether an image passes the checks of R448, with its fields in their ranges (R447). -/
def State.imagePasses (s : State) (img : List Byte) : Bool :=
  let h := imageHeader img
  field h 31 0 == 0x51464A4E && field h 39 32 == field (s.odGet 0x1000 0) 23 16 && field h 2167 128 == 0
    && s.fw.secMin ≤ imageSecver img && imageSecver img ≤ 64 && imageBodyLen img ≤ 2 ^ 24 - 512 && 512 + imageBodyLen img ≤ img.length
    && slotHolds s.fw.imageKey s.fw.keyRevoked (imagePubkey img) (imageKeyslot img)
    && beNat ((img.drop 271).take 48) == sha384 (imageBody img)
    && sigVerifies (imageSig img) (imagePubkey img) (img.take 416)

/-- The image of slot 0 (A) or 1 (B). -/
def State.imageOf (s : State) (slot : Nat) : List Byte := if slot == 0 then s.fw.imageA else s.fw.imageB

def State.setImage (s : State) (slot : Nat) (img : List Byte) : State :=
  { s with fw := if slot == 0 then { s.fw with imageA := img } else { s.fw with imageB := img } }

/-- What a slot of the boot flash reads: what was written to it, or other bytes, as after a board programmer wrote it while SYS_RESET_N was low (R439;
DESIGN CHOICE, log 194). -/
def State.flashReads (s : State) (slot : Nat) (read : Option (List Byte)) : State :=
  match read with
  | none => s
  | some img => s.setImage slot img

/-- Firmware of a slot runs: settings are restored and every enabled function starts (R443). -/
def State.runSlot (s : State) (slot : Nat) : State :=
  let s := { s.odSet 0x1001 4 slot with boot := .restored }
  let s := s.restore
  { s with pins := { s.pins with cold := false, fromOtp := false } }.startAll

/-- Neither image passes (R449). -/
def State.recover (s : State) : State :=
  { s.setBit 0x4402 0 2 with boot := .recovery, pins := { s.pins with faultN := false } }

def effBootImageCheck (a b : Option (List Byte)) (s : State) : State :=
  if s.boot != .booting then s
  else
    let s := (s.flashReads 0 a).flashReads 1 b
    let first := s.odGet 0x1001 3 % 2
    let other := 1 - first
    let pass (slot : Nat) : Bool := s.imagePasses (s.imageOf slot)
    if pass first then s.runSlot first
    else
      let s := s.setBit 0x4402 0 first
      if pass other then s.runSlot other else (s.setBit 0x4402 0 other).recover

/-- BOOT_IMAGE_CHECK (R449), with what slots A and B read where that is not what the package wrote. -/
def execBootImageCheck (a b : Option (List Byte)) (s : State) : Out := answer true (effBootImageCheck a b s)

-- ## READY (R443)

/-- Every core, region and stack whose enable is 1 has reached ON or FAULTED, but for one that may not leave OFF, such as an idle spare after its
self-test (R443, R388). -/
def State.settled (s : State) : Bool :=
  [FnKind.core, .region, .stack].all fun k => (List.range (fnCount k)).all fun n =>
    !s.fnEnabled k n || s.fnState k n == 2 || s.fnState k n == 4 || (s.fnState k n == 0 && !s.fnMayStart k n)

/-- Whether a host port answers configuration requests with Request Retry Status: it has trained, and its die's DMP does not serve yet (R443). -/
def State.configRetry (s : State) (h : Nat) : Bool :=
  s.portUp h && (!s.serving || s.fw.dmpDown.contains (fnDie .host h))

def effStartupComplete (s : State) : State :=
  if s.boot == .restored && s.settled then
    { s with boot := .ready, pins := { s.pins with ready := true } }.refreshService
  else s

/-- STARTUP_COMPLETE: READY rises and SERVICE follows R420 (R443). -/
def execStartupComplete (s : State) : Out := answer true (effStartupComplete s)

-- ## Host port resets (R348, R389, R442)

def State.setPerst (s : State) (h : Nat) (on : Bool) : State :=
  { s with pins := if h == 0 then { s.pins with perst0 := on } else { s.pins with perst1 := on } }

def perstPin (h : Nat) : Pin := if h == 0 then .perst0 else .perst1

/-- OWNER of a host port in lock cells (R297). -/
def hostOwner (h : Nat) : Nat := 0x80 + h

/-- A host port is held in reset: its rings go to ERROR, its epoch advances, and it stays OFF (R348, R442). -/
def State.portReset (s : State) (h : Nat) : State :=
  let s := (s.resetPort h none).advanceEpoch (hostOwner h)
  if s.fnState .host h == 2 then s.setFn .host h 0 else s

def effPerstAssert (h : Nat) (s : State) : State :=
  if s.pins.storm.contains (perstPin h) then s else (s.setPerst h true).portReset h

/-- PERST_ASSERT (R348). -/
def execPerstAssert (port : Nat) (s : State) : Out := answer (okHost port) (effPerstAssert port s)

/-- A host port whose PERST_N is released trains when it is enabled (R389). -/
def State.portReleased (s : State) (h : Nat) : State :=
  if s.serving && s.fnState .host h == 0 && s.fnEnabled .host h then s.startFn .host h else s

def effPerstRelease (h : Nat) (s : State) : State :=
  if s.pins.storm.contains (perstPin h) then s else (s.setPerst h false).portReleased h

/-- PERST_RELEASE (R389). -/
def execPerstRelease (port : Nat) (s : State) : Out := answer (okHost port) (effPerstRelease port s)

/-- FUNCTION_LEVEL_RESET on a partition's function of a host port (R348). -/
def execFunctionLevelReset (port part : Nat) (s : State) : Out := answer (okHost port && okPart part) (s.resetPort port (some part))

-- ## Storms (R441, R454)

def pinBit : Pin → Nat
  | .sysReset => 0
  | .perst0 => 1
  | .perst1 => 2
  | .brake => 3

/-- The storm bit of an input is set, beside those that the retained store holds (R396, R454). -/
def State.stormBit (s : State) (pin : Pin) : State :=
  let v := s.odGet 0x4401 0 ||| AMap.getD s.retained (0x4401 * 256) 0
  (s.odSet 0x4401 0 (v ||| 2 ^ pinBit pin)).retain 0x4401 0

/-- An input goes into its safe state: asserted (R441). -/
def State.safeState (s : State) (pin : Pin) : State :=
  match pin with
  | .sysReset => s.hold
  | .perst0 => s.portReset 0
  | .perst1 => s.portReset 1
  | .brake => s.brakeOn

def effInputStorm (pin : Pin) (s : State) : State :=
  if s.boot == .noPower then s
  else
    let s := if s.pins.storm.contains pin then s else { s with pins := { s.pins with storm := s.pins.storm ++ [pin] } }.safeState pin
    s.stormBit pin

/-- INPUT_STORM (R441). -/
def execInputStorm (pin : Pin) (s : State) : Out := answer true (effInputStorm pin s)

/-- The filter's output takes the pin's level; `high` is released. -/
def State.takeLevel (s : State) (pin : Pin) (high : Bool) : State :=
  match pin with
  | .sysReset =>
    let s := { s with pins := { s.pins with sysReset := !high } }
    if high then s.released else s
  | .perst0 => if high then (s.setPerst 0 false).portReleased 0 else s.setPerst 0 true
  | .perst1 => if high then (s.setPerst 1 false).portReleased 1 else s.setPerst 1 true
  | .brake =>
    let s := { s with pins := { s.pins with brake := !high } }
    if high then s.brakeOff else s

def effStormQuietEnd (pin : Pin) (level : Bool) (s : State) : State :=
  if s.pins.storm.contains pin then
    { s with pins := { s.pins with storm := s.pins.storm.filter fun x => x != pin } }.takeLevel pin level
  else s

/-- STORM_QUIET_END, with the pin's level (R441). -/
def execStormQuietEnd (pin : Pin) (level : Bool) (s : State) : Out := answer true (effStormQuietEnd pin level s)

/-- The node number (R372). -/
def State.node (s : State) : Nat := s.odGet 0x1100 0

/-- Whether the firmware entries are served: in recovery too (R449). -/
def State.fwServed (s : State) : Bool := s.serving || s.boot == .recovery

-- ## The output pins (R438, R439)

inductive Level where
  | low | high | highZ
  deriving DecidableEq, Repr

/-- What the package drives on its sideband outputs; the board's pulls give a pin that is not driven its level. -/
structure Outputs where
  canTx : Level
  faultN : Level
  ready : Level
  thermTripN : Level
  spiCsN : Level
  spiClk : Level
  spiIo : Level
  tdo : Level
  deriving DecidableEq, Repr

/-- CAN_TX rests recessive while the node serves. From the first read of the flash on the SPI pins are driven: between reads the flash is
deselected, the clock is low and the data pins are inputs (DESIGN CHOICE, log 176). FAULT_N and THERM_TRIP_N are open-drain, and TDO is driven only
while a scan shifts (`drScan`). -/
def State.outputs (s : State) : Outputs :=
  let live := !(s.boot == .noPower || s.boot == .standby || s.boot == .tripped)
  { canTx := if s.fwServed && s.node != 0 then .high else .highZ
    faultN := if live && !s.pins.faultN then .low else .highZ
    ready := if s.boot == .noPower then .highZ else if s.pins.ready then .high else .low
    thermTripN := if s.power.tripped && s.boot != .noPower then .low else .highZ
    spiCsN := if live then .high else .highZ
    spiClk := if live then .low else .highZ
    spiIo := .highZ
    tdo := .highZ }

-- ## The TAPs and debug unlock (R450 to R452)

/-- BYPASS is the instruction of all ones (IEEE 1149.1). -/
def bypass : Nat := 0xFF

/-- The instruction that a TAP takes: any while unlocked; while locked, the boundary-scan drives only in reset. -/
def State.tapTakes (s : State) (ir : BitVec 8) : Nat :=
  match Config.jtagClass ir with
  | 0 => ir.toNat
  | 1 => if s.dbg.unlocked || s.sysResetHeld then ir.toNat else bypass
  | _ => if s.dbg.unlocked then ir.toNat else bypass

/-- JTAG_INSTRUCTION: an instruction scan (R450). The tester has TRST_N high, which releases TAPs that were held in reset, and leaves the TAP in
Run-Test/Idle: TMS and TCK low (PRESUMED, log 112). -/
def execJtagInstruction (die : Nat) (ir : BitVec 8) (s : State) : Out :=
  let taps := if s.pins.jtag.trstN then s.dbg.tap else []
  answer (okDie die) { s with
    pins := { s.pins with jtag := { s.pins.jtag with trstN := true, tms := false, tck := false } }
    dbg := { s.dbg with tap := AMap.set taps die (s.tapTakes ir) } }

/-- Every die's IDCODE (R450). -/
def idcode : BitVec 32 := 0x1B004E53

/-- The data register that a die's TAP has selected, as it is captured, in the order in which its bits leave: IDCODE after a reset of the TAP; the
one bit 0 of bypass under BYPASS, CLAMP and HIGHZ (IEEE 1149.1; PRESUMED, log 112). -/
def State.tapRegister (s : State) (die : Nat) : List Bool :=
  let id := (List.range 32).map fun k => idcode.getLsbD k
  match s.tapIr die with
  | none => id
  | some ir =>
    if ir == bypass then [false]
    else match Config.jtagCode (BitVec.ofNat 8 ir) with
    | 0 => id
    | 3 | 4 => [false]
    | _ => Config.jtagData s.freeCtr die (BitVec.ofNat 8 ir)

/-- What leaves by TDO while a data-register scan shifts bits in by TDI: the chain runs from TDI through dies 0, 1, 2 and 3 to TDO (R450). -/
def State.drScan (s : State) (tdi : List Bool) : List Bool :=
  (([3, 2, 1, 0].flatMap s.tapRegister) ++ tdi).take tdi.length

def State.serial (s : State) : Nat := field (s.odGet 0x1000 0) 127 64

/-- A new challenge becomes the latest. -/
def State.newChallenge (s : State) : State :=
  { s with dbg := { s.dbg with nonce := some (Config.freeNonce s.freeCtr) } }.useFree 1

/-- The 136 bytes of the latest challenge: nonce, serial, signature. -/
def State.challengeBytes (s : State) : List Byte :=
  match s.dbg.nonce with
  | some n => bytesOf (n.toNat + s.serial <<< 256 + (Config.identitySign n (BitVec.ofNat 64 s.serial)).toNat <<< 320) 136
  | none => bytesOf 0 136

/-- DEBUG_CHALLENGE: a read of 0xF010.00 (R451). -/
def execDebugChallenge (s : State) : Out := answer true (if s.serving then s.newChallenge else s)

/-- Whether a token is admitted as an attempt: one per second (R451). -/
def State.attemptDue (s : State) : Bool := match s.dbg.lastTry with | none => true | some t => t + 1000000 ≤ s.timeUs

def State.ringsDisabled (s : State) : Bool := s.rings.all fun kg => kg.2.st == .disabled

/-- Whether a token passes (R451): its key's hash stands in an unrevoked debug-key slot, and its signature verifies over its bytes 0 to 144. -/
def State.tokenPasses (s : State) (token : Nat) : Bool :=
  let bytes := leBytes token 241
  let key := (bytes.drop 48).take 97
  s.ringsDisabled && field token 319 256 == s.serial
    && (match s.dbg.nonce with | some n => field token 255 0 == n.toNat | none => false)
    && (List.range 2).any (slotHolds s.fw.debugKey s.fw.debugRevoked key) && sigVerifies (bytes.drop 145) key (bytes.take 145)

/-- Tokens refused rise, saturating. -/
def State.countRefused (s : State) : State :=
  let v := s.odGet 0xF012 0
  s.odSet 0xF012 0 (setField v 15 8 (min 255 (field v 15 8 + 1)))

/-- Every partition is removed (R386, R452). -/
def State.removeAll (s : State) : State :=
  let s := (s.writeMap 0x2010 0 (2 ^ 64 - 1)).retain 0x2010 0
  (List.range 4).foldl (fun s d => (s.writeMap 0x2011 (d + 1) (2 ^ 1024 - 1)).retain 0x2011 (d + 1)) s

/-- The buffers of a management channel at zero; the transfer under way goes on. -/
def Channel.zeroed (c : Channel) : Channel := { c with req := [], rsp := [] }

/-- Every SRAM is written to zero (R452): region memory, scratchpads, the tables, lists and work counters of the dies and cores, and the buffers that
hold messages on their way, the mailboxes and the volatile log among them. -/
def State.zeroSram (s : State) : State :=
  let sram (k : Nat) : Bool := k / 2 ^ 48 % 4 != 0
  { s with
    mem := s.mem.filter fun c => !sram c.1
    bad := s.bad.filter fun k => !sram k
    groups := s.groups.filter fun kg => !sram kg.1
    td := []
    slots := []
    alm := []
    sacs := []
    queues := []
    locks := []
    routes := []
    badRoutes := []
    msixTable := []
    pba := []
    can := s.can.zeroed
    mb0 := s.mb0.zeroed
    mb1 := s.mb1.zeroed
    mbOther := (s.mbOther.1.zeroed, s.mbOther.2.zeroed)
    mgmtIn := []
    log := { s.log with ring := [], copy := [] }
    counters := []
    stale := []
    txns := []
    arrived := []
    rx := []
    egress := []
    heldReqs := []
    accepted := []
    tickets := []
    reissueWait := []
    ports := s.ports.map fun kp => (kp.1, { kp.2 with retry := [], resent := [], partial_ := [], need := 0 })
    regionArb := s.regionArb.map fun ka => (ka.1, { ka.2 with cur := none, waiting := [], committed := [] })
    egressArb := s.egressArb.map fun ka => (ka.1, { ka.2 with cur := none, waiting := [], committed := [] })
    cores := s.cores.map fun kc => (kc.1, ({ split := kc.2.split } : Core)) }

/-- An accepted token (R452). -/
def State.unlock (s : State) : State :=
  let s := s.removeAll.zeroSram
  let v := s.odGet 0xF012 0
  { s.odSet 0xF012 0 (v / 4 * 4 + 2) with dbg := { s.dbg with unlocked := true } }

/-- A write of 0xF011.00: the state after it, and its STATUS. -/
def State.tryToken (s : State) (token : Nat) : State × Nat :=
  if field token 383 320 != 0 then (s, 0x0903)
  else if !s.attemptDue then (s.countRefused, 0x0902)
  else
    let pass := s.tokenPasses token
    let s := { s with dbg := { s.dbg with nonce := none, lastTry := some s.timeUs } }
    if pass then (s.unlock, 0) else (s.countRefused, 0x0902)

/-- DEBUG_TOKEN (R451, R452): the token's bits 1159 to 0, and its SIG. -/
def execDebugToken (token : BitVec 1160) (sig : BitVec 768) (s : State) : Out :=
  answer true (if s.serving then (s.tryToken (sig ++ token).toNat).1 else s)

end Sys2Proof.Machine
end

