-- ==== Sys2Proof/Machine/Firmware.lean ====
section
/-! DEFINITION. OTP commits (R392 to R395) and live firmware update (R398 to R400). A function that serves a write answers the state after
it and its STATUS (R382). -/

namespace Sys2Proof.Machine

-- ## OTP (R394)

/-- The lowest unprogrammed generation among 1 to 5. -/
def State.freeGen (s : State) : Option Nat := [1, 2, 3, 4, 5].find? fun g => (AMap.find s.otp g).isNone

/-- SEQ of the next generation: one above the highest valid one. -/
def State.nextGenSeq (s : State) : Nat := match latestGen s.otp with | some g => g.2.seq + 1 | none => 1

/-- A copy whose programming has not ended: its CRC does not pass (R445). -/
def OtpCopy.torn (c : OtpCopy) : OtpCopy := { c with crc := ~~~(crc32c c.covered) }

/-- A copy as it is once programmed. -/
def OtpCopy.sealed (c : OtpCopy) : OtpCopy := { c with crc := crc32c c.covered }

/-- A write of 0xF000.00. The generation counts as spent and invalid until its programming has ended (R445). -/
def State.tryCommit (s : State) (v : Nat) : State × Nat :=
  if v != 0x00A5 then (s, 0x0903)
  else if s.commit.isSome then (s, 0x0902)
  else match s.freeGen with
    | none => (s, 0x0905)
    | some g =>
      if 2032 < recBytes s.cpRecords then (s, 0x0905)
      else
        let c := (OtpCopy.of s.nextGenSeq s.cpRecords).torn
        ({ s with commit := some g, otp := AMap.set s.otp g { lead := c, standby := c } }, 0)

/-- OTP_COMMIT (R394). -/
def execOtpCommit (value : Nat) (s : State) : Out := answer true (if s.serving then (s.tryCommit value).1 else s)

def effOtpCommitDone (readback : Bool) (s : State) : State :=
  match s.commit with
  | none => s
  | some g =>
    let s := { s with commit := none }
    let x := AMap.getD s.otp g {}
    if readback then { s with otp := AMap.set s.otp g { lead := x.lead.sealed, standby := x.standby.sealed } }
    else
      let y : OtpGen := match Config.freePick s.freeCtr 3 % 3 with
        | 0 => { x with lead := x.lead.sealed }
        | 1 => { x with standby := x.standby.sealed }
        | _ => x
      ({ s with otp := AMap.set s.otp g y }.useFree 1).setBit 0xF001 0 9

/-- OTP_COMMIT_DONE: programming has ended, and the readback matched or not; which copies a failed readback leaves good is free (R394; log 168). -/
def execOtpCommitDone (readback : Bool) (s : State) : Out := answer true (effOtpCommitDone readback s)

-- ## Receiving and verifying an image (R398, R448)

/-- The slot that does not run. -/
def State.inactive (s : State) : Nat := 1 - s.odGet 0x1001 4 % 2

def State.setUpd (s : State) (u : Upd) : State := { s with fw := { s.fw with upd := u } }
def State.setIncoming (s : State) (n : Nat) : State := { s with fw := { s.fw with incomingTotal := n } }

/-- Whether 0x3010.00 accepts an image. -/
def State.takesImage (s : State) : Bool := s.fw.upd == .idle || s.fw.upd == .received || s.fw.upd == .rejected

/-- An image's bytes are programmed into the inactive slot as they arrive; what it held is gone, and the image is RECEIVED with its last
byte. -/
def State.putImage (s : State) (old bytes : List Byte) (total : Nat) : State :=
  let img := old ++ bytes
  let s := s.setImage s.inactive img
  if total ≤ img.length then (s.setIncoming 0).setUpd .received else (s.setIncoming total).setUpd .idle

/-- A segment of 0x3010.00. One out of sequence ends the transfer (R376). -/
def State.imageWrite (s : State) (offset total : Nat) (bytes : List Byte) : State × Nat :=
  if !s.takesImage then (s, 0x0902)
  else if offset == 0 then
    if 2 ^ 24 < total || total == 0 then (s, 0x0903) else (s.putImage [] bytes total, 0)
  else if s.fw.incomingTotal == total && offset == (s.imageOf s.inactive).length && total != 0 then
    (s.putImage (s.imageOf s.inactive) bytes total, 0)
  else (s.setIncoming 0, 0x0904)

/-- FIRMWARE_IMAGE_WRITE (R398). -/
def execFirmwareImageWrite (offset total : Nat) (bytes : List Byte) (s : State) : Out :=
  answer true (if s.fwServed then (s.imageWrite offset total bytes).1 else s)

def State.tryVerify (s : State) : State × Nat := if s.fw.upd == .received then (s.setUpd .verifying, 0) else (s, 0x0902)

/-- VERIFY (R398). -/
def execFwVerify (s : State) : Out := answer true (if s.fwServed then s.tryVerify.1 else s)

def effFwVerifyDone (flash : Option (List Byte)) (s : State) : State :=
  if s.fw.upd != .verifying then s
  else
    let s := s.flashReads s.inactive flash
    s.setUpd (if s.imagePasses (s.imageOf s.inactive) then .verified else .rejected)

/-- VERIFY_DONE (R398, R448): flash is what the inactive slot reads where that is not what was written (DESIGN CHOICE, log 194). -/
def execFwVerifyDone (flash : Option (List Byte)) (s : State) : Out := answer true (effFwVerifyDone flash s)

-- ## Restarting the DMPs (R399, R400, R415, R416)

/-- A die's DMP restarts. A lead hands the role over, and the epoch of the lead DMP, as which it owns locks, advances (R297, R298). -/
def State.restartDmp (s : State) (d : Nat) : State :=
  let s := if s.lead == d then s.advanceEpoch dmpOwner else s
  let s := if s.lead == d && !s.diesFenced.contains s.standby then s.moveLead s.standby else s
  ({ s with fw := { s.fw with dmpDown := s.fw.dmpDown ++ [d] } }.maskEgress d 35).refreshService

/-- Every die runs the target image: TRIAL, or the update is over (R399, R400). -/
def State.endRestarts (s : State) : State :=
  let s := s.odSet 0x1001 4 s.fw.target
  s.setUpd (if s.fw.upd == .activating then .trial else .idle)

/-- The die whose turn it is in the order 1, 3, 2, 0. -/
def State.restartTurn (s : State) : Option Nat := [1, 3, 2, 0].find? fun d => !s.fw.restarted.contains d && !s.diesFenced.contains d

/-- The next die restarts, unless its DMP is down already, or the sequence ends. A lead waits for a standby that restarts after a takeover. -/
def State.nextRestart (s : State) : State :=
  match s.restartTurn with
  | some d =>
    let waits := s.lead == d && !s.diesFenced.contains s.standby && s.fw.dmpDown.contains s.standby
    if s.fw.dmpDown.contains d || waits then s else s.restartDmp d
  | none => s.endRestarts

/-- A sequence of restarts begins, from the image of a slot. -/
def State.beginRestarts (s : State) (u : Upd) (slot : Nat) : State :=
  { s with fw := { s.fw with upd := u, restarted := [], target := slot, home := s.lead } }.nextRestart

/-- In recovery the verified image boots at once (R449). -/
def State.leaveRecovery (s : State) : State :=
  let s := (s.setUpd .idle).clearBit 0x4402 0 2
  { s with pins := { s.pins with faultN := true } }.runSlot s.inactive

def State.tryActivate (s : State) : State × Nat :=
  if s.fw.upd != .verified then (s, 0x0902)
  else if s.boot == .recovery then (s.leaveRecovery, 0)
  else (s.beginRestarts .activating s.inactive, 0)

/-- ACTIVATE (R399). -/
def execFwActivate (s : State) : Out := answer true (if s.fwServed then s.tryActivate.1 else s)

/-- A die's DMP is back: writes that were latched for the die begin (R399), and a standby lead copies the ring again (R419). -/
def State.dmpBack (s : State) (d : Nat) : State :=
  let mine := s.fw.latched.filter fun x => fnDie x.1 x.2.1 == d
  let s := { s with fw := { s.fw with dmpDown := s.fw.dmpDown.filter fun x => x != d
                                      latched := s.fw.latched.filter fun x => fnDie x.1 x.2.1 != d } }
  let s := mine.foldl (fun s x => s.applyEnable x.1 x.2.1 x.2.2) s
  let again := s.bounce.filter fun x => fnDie x.1 x.2 == d
  let s := if d == s.standby then { s with log := { s.log with copy := s.log.ring } } else s
  (again.foldl (fun s x => (s.unbounce x.1 x.2).bounceFn x.1 x.2) s).refreshService


/-- The die is done with in this sequence; the die that held the lead role takes it back. -/
def State.restartDone (s : State) (d : Nat) : State :=
  let s := { s with fw := { s.fw with restarted := s.fw.restarted ++ [d] } }
  let s := if d == s.fw.home && s.lead != d && !s.diesFenced.contains d then s.moveLead d else s
  s.nextRestart

def effDmpRestartDone (d : Nat) (s : State) : State :=
  if !s.fw.dmpDown.contains d then s
  else
    let s := s.dmpBack d
    if !s.restarting then s
    else if s.restartTurn == some d then s.restartDone d
    else s.nextRestart

/-- DMP_RESTART_DONE (R399, R415): a sequence goes on when the die whose turn it is returns, or one whose return it waited for. -/
def execDmpRestartDone (die : Nat) (s : State) : Out := answer (okDie die) (effDmpRestartDone die s)

/-- An update reverts to the other image: from TRIAL to the slot that no longer runs, from ACTIVATING to the one that still does. -/
def State.revert (s : State) : State :=
  s.beginRestarts .reverting (if s.fw.upd == .trial then s.inactive else s.odGet 0x1001 4 % 2)

def State.tryRevert (s : State) : State × Nat := if s.fw.upd == .trial then (s.revert, 0) else (s, 0x0902)

/-- REVERT (R400). -/
def execFwRevert (s : State) : Out := answer true (if s.fwServed then s.tryRevert.1 else s)

/-- TRIAL_TIMEOUT: the TRIAL time ran out without a CONFIRM (R400). -/
def execTrialTimeout (s : State) : Out := answer true s.tryRevert.1

def effDmpReturnTimeout (d : Nat) (s : State) : State :=
  if !s.fw.dmpDown.contains d then s
  else
    let s := { s with fw := { s.fw with dmpDown := s.fw.dmpDown.filter fun x => x != d
                                        latched := s.fw.latched.filter fun x => fnDie x.1 x.2.1 != d } }.fenceDie d
    match s.fw.upd with
    | .activating => s.revert
    | .trial => s.revert
    | .reverting => s.nextRestart
    | _ => s

/-- DMP_RETURN_TIMEOUT: a DMP has not returned within 1 s of its restart: its die is fenced, and an update reverts (R400, R416). -/
def execDmpReturnTimeout (die : Nat) (s : State) : Out := answer (okDie die) (effDmpReturnTimeout die s)

/-- `n` more bits are set, the lowest that are clear. -/
def setClear : Nat → List Bool → List Bool
  | 0, bs => bs
  | _, [] => []
  | n + 1, true :: bs => true :: setClear (n + 1) bs
  | n + 1, false :: bs => true :: setClear n bs

/-- The image-key slots below the confirmed image's are revoked, and the least security version is raised to its SECVER (R448): the lowest
clear bits of the field are set (DESIGN CHOICE, log 172). -/
def State.confirmImage (s : State) (img : List Byte) : State :=
  let below := (List.range (imageKeyslot img)).filter fun k => k < 4 && !s.fw.keyRevoked.contains k
  { s with fw := { s.fw with
      secField := (BitVec.ofBoolListLE (setClear (imageSecver img - s.fw.secMin) s.fw.secBits)).setWidth 64, keyRevoked := s.fw.keyRevoked ++ below } }

def State.tryConfirm (s : State) : State × Nat :=
  if s.fw.upd != .trial then (s, 0x0902)
  else
    let slot := s.odGet 0x1001 4 % 2
    (((s.odSet 0x1001 3 slot).confirmImage (s.imageOf slot)).setUpd .idle, 0)

/-- CONFIRM (R400, R448). -/
def execFwConfirm (s : State) : Out := answer true (if s.fwServed then s.tryConfirm.1 else s)

end Sys2Proof.Machine
end

