-- ==== Sys2Proof/Machine/Dictionary.lean ====
section
/-! DEFINITION. The object dictionary (16_object_dictionary.md): what each entry reads as, and what a write to it does (R381 to R386 and the
chapters' entry tables). -/

namespace Sys2Proof.Machine

-- ## Values that follow from other state

/-- A quotient as FP32, rounded to nearest even; 0 over 0. -/
def f32Of (num : Int) (den : Nat) : Nat := if den == 0 then 0 else ratToFp32 (num < 0) num.natAbs den 0

def updCode : Upd → Nat
  | .idle => 0
  | .received => 1
  | .verifying => 2
  | .verified => 3
  | .rejected => 4
  | .activating => 5
  | .trial => 6
  | .reverting => 7

/-- Bits 8 to 11 of 0x4401.00: storm latches in force now. -/
def State.stormNow (s : State) : Nat :=
  ([Pin.sysReset, .perst0, .perst1, .brake].map fun p => if s.pins.storm.contains p then 2 ^ (8 + pinBit p) else 0).foldl (· + ·) 0

/-- 0xF001.00 (R394); its sticky bits are stored. -/
def State.commitStatus (s : State) : Nat :=
  let latest := match latestGen s.otp with | some g => g.1 | none => 0
  let left := ([1, 2, 3, 4, 5].filter fun g => (AMap.find s.otp g).isNone).length
  let valid := (s.otp.map fun kg => if kg.2.valid then 2 ^ (16 + kg.1) else 0).foldl (· + ·) 0
  latest + left <<< 4 + (if s.commit.isSome then 256 else 0) + s.odGet 0xF001 0 + valid

/-- The counter records of an arbiter, record k of requester k (R341). -/
def arbRecords (a : Arbiter) (n : Nat) : Nat :=
  ((List.range n).map fun k =>
    let c := AMap.getD a.recs k {}
    (c.grants + c.wait <<< 48 + c.longest <<< 96) <<< (128 * k)).foldl (· + ·) 0

/-- A die's routing table (R317). -/
def State.routeTable (s : State) (die : Nat) : Nat :=
  ((s.routes.filter fun kv => kv.1 / 4096 == die).map fun kv => kv.2 <<< (16 * (kv.1 % 4096))).foldl (· + ·) 0

def State.peakPower (s : State) : Nat :=
  ((s.power.peak.filter fun tx => s.timeUs < tx.1 + 1000000).map (·.2)).foldl max 0

/-- Whether the die rails and the PLLs are up, from T + 3 ms on (R443): region clocks and rails read 0 before (R436). -/
def State.railsUp (s : State) : Bool := s.boot == .restored || s.boot == .ready || s.boot == .recovery

/-- The number that an entry's structure reads as, where it is not simply stored. -/
def State.odNumber (s : State) (index sub : Nat) : Nat :=
  let i := sub - 1
  match index with
  | 0x1001 => if sub == 1 then imageVersion s.fw.imageA else if sub == 2 then imageVersion s.fw.imageB else s.odGet index sub
  | 0x3011 => s.odGet index sub + updCode s.fw.upd <<< 8
  | 0x3150 => s.routeTable i
  | 0x4111 => f32Of (s.odGet 0x5113 sub) (s.odGet 0x5112 sub)
  | 0x4201 => (s.sac i).ctxs.length
  | 0x4202 => (s.counters.filter fun c => c.1 == i).length
  | 0x4302 => (s.slots.filter fun ks => ks.1 / 131072 == i && ks.2.st != .free).length
  | 0x4401 => s.odGet index sub % 16 + s.stormNow
  | 0x5220 => arbRecords (s.arbiter (.region i)) 9
  | 0x5410 => arbRecords (s.arbiter (.egress i)) 36
  | 0x7000 => f32Of s.power.millivolts 1000
  | 0x7001 => f32Of s.power.milliamps 1000
  | 0x7002 => f32Of s.power.total (1000000 * s.power.count)
  | 0x7003 => f32Of s.peakPower 1000000
  | 0x7010 => if s.railsUp then s.regionMHz i else 0
  | 0x7011 => if s.railsUp then (s.regionPower i).millivolts else 0
  | 0x7012 => f32Of (s.regionTemp i) 1000
  | 0x7013 => f32Of (AMap.getD s.power.stackTemps i 0) 1000
  | 0x7020 => f32Of ((maxInt s.junctions).getD 0) 1000
  | 0x7021 => f32Of s.power.tempSum (1000 * s.power.tempCount)
  | 0xF001 => s.commitStatus
  | _ => s.odGet index sub

/-- A fault-log record of 32 bytes (R418). -/
def faultBytes (f : FaultRec) : List Byte :=
  bytesOf (f.count <<< 16 + f.boots <<< 32 + f.dkind <<< 48 + f.kind <<< 52 + f.unit <<< 56 + f.severity <<< 72 + f.action <<< 80
    + f.code <<< 88 + (f.seq % 2 ^ 32) <<< 104 + (f.time % 2 ^ 48) <<< 136 + f.detail <<< 184) 32

/-- Whether a subindex is the count of an entry's structures (R381). -/
def isCount (row : OdRow) (sub : Nat) : Bool := sub == 0 && row.n != 0

/-- The bytes that a read of an entry returns (R381, R382); a write-only entry reads 0. -/
def State.odBytes (s : State) (index sub : Nat) : List Byte :=
  match odRow index with
  | none => []
  | some row =>
    if isCount row sub then bytesOf row.n 1
    else if row.acc == .wo then bytesOf 0 row.size
    else match index with
      | 0x1001 => bytesOf (s.odNumber index sub) (row.at_ index sub).size
      | 0x6001 =>
        let l := s.log.ring.flatMap faultBytes
        l ++ List.replicate (32768 - l.length) 0
      | 0x6002 => s.log.records.flatMap faultBytes
      | 0x6003 => s.log.structures.flatMap fun ku => bytesOf (ku.1 + ku.2 <<< 16) 4
      | 0xF010 => s.challengeBytes
      | _ => bytesOf (s.odNumber index sub) row.size

-- ## Ranges (R382)

/-- An FP32 number between two positive bounds; −0 counts as 0, and a NaN lies nowhere. -/
def f32In (lo hi v : Nat) : Bool := (lo ≤ v && v ≤ hi) || (lo == 0 && v == 0x80000000)

/-- Reserved bits of a routing table entry are 0 (R317). -/
def routesOk (v : Nat) : Bool := (List.range 4096).all fun k => (v >>> (16 * k)) &&& 0x731F == 0

/-- Whether a value lies in its entry's stated range, and sets no reserved bit or value. -/
def inRange (index v : Nat) : Bool :=
  match index with
  | 0x1101 => v ≤ 10000
  | 0x1102 => v ≤ 3
  | 0x2001 => v < 4096
  | 0x3001 => v ≤ 1
  | 0x3002 => v ≤ 1
  | 0x3003 => v ≤ 1
  | 0x3004 => v ≤ 1
  | 0x3011 => 10 ≤ v >>> 16
  | 0x3110 => f32In 0x3F800000 0x40800000 v
  | 0x3112 => f32In 0 0x3F800000 v
  | 0x3113 => f32In 0 0x3E000000 v
  | 0x3114 => v != 0
  | 0x3120 => f32In 0x42700000 0x42D20000 v
  | 0x3121 => v != 0
  | 0x3130 => 8 ≤ v && v ≤ 128
  | 0x3131 => v ≤ 120
  | 0x3132 => v ≤ 16
  | 0x3141 => field v 5 4 != 3
  | 0x3142 => 1 ≤ v && v ≤ 1000000
  | 0x3143 => 10 ≤ v && v ≤ 1000000
  | 0x3150 => routesOk v
  | 0x3170 => v != 0
  | 0x3180 => 900 ≤ v && v ≤ 1900
  | 0x3181 => 800 ≤ v && v ≤ 2250
  | _ => true

/-- Bits of a U32 that a write ignores. -/
def roBits (index : Nat) : Nat :=
  match index with
  | 0x3011 => 0xF00
  | 0x4400 => 1
  | 0x4401 => 0xF00
  | 0xF001 => 0x3F01F7
  | _ => 0

/-- Whether a write sets no reserved bit of an entry whose bits have codes of their own. -/
def bitsOk (index : Nat) (acc : Access) (v : Nat) : Bool :=
  match acc with
  | .bits w rw sc => v &&& (w ||| rw ||| sc ||| roBits index) == v
  | _ => true

/-- What a U32 becomes when each bit is written by its own code (R383): a bit that is written 1 clears, or takes the value written. -/
def writeBits (w rw old v : Nat) : Nat :=
  let keep := old - (old &&& (w &&& v))
  keep - (keep &&& rw) + (v &&& rw)

-- ## Writes with an effect of their own

/-- The split of a scratchpad with one of its areas rewritten (R275, R277). -/
def State.writeSplit (s : State) (index sub v : Nat) : State × Nat :=
  let c := sub - 1
  let get (i : Nat) : Nat := if i == index then v else s.odGet i sub
  let w := get 0x3132
  let outside := s.queues.any fun kq => kq.2.en && kq.1 / 1024 == c / 32
    && ((kq.2.headCore == c % 32 && 4 * w ≤ kq.2.headWin) || (kq.2.tailCore == c % 32 && 4 * w ≤ kq.2.tailWin))
  if 128 < get 0x3130 + get 0x3131 + w then (s, 0x0903)
  else if outside then (s, 0x0902)
  else (s.odSet index sub v, 0)

/-- A link port's configuration (R308). A change of EXT or MIN_W takes a port that was ON or STARTING through a stop and a start (DEDUCED, log
42). -/
def State.writePort (s : State) (pp v : Nat) : State :=
  let old := s.odGet 0x3141 (pp + 1)
  let changed := bitOf old 1 != bitOf v 1 || field old 5 4 != field v 5 4
  let ran := s.fnState .link pp == 2 || s.fnState .link pp == 1
  let s := ((s.odSet 0x3141 (pp + 1) v).writeEnable .link pp (bitOf v 0)).flush pp
  if changed && bitOf v 0 && ran then s.bounceFn .link pp else s

/-- A routing table (R317). -/
def State.writeRoutes (s : State) (die v : Nat) : State :=
  let mine := (List.range 4096).filterMap fun k =>
    let e := field v (16 * k + 15) (16 * k)
    if e == 0 then none else some (die * 4096 + k, e)
  { s with routes := (s.routes.filter fun kv => kv.1 / 4096 < die) ++ mine ++ s.routes.filter fun kv => die < kv.1 / 4096
           badRoutes := s.badRoutes.filter fun k => k / 4096 != die }

/-- The actions of bits 0 to 3 of 0x3011.00 in ascending order; one that UPD_STATE does not allow refuses the write (R398). -/
def State.updActions (s : State) (v : Nat) : State × Nat :=
  let act (x : State × Nat) (i : Nat) (f : State → State × Nat) : State × Nat := if x.2 == 0 && bitOf v i then f x.1 else x
  act (act (act (act (s, 0) 0 State.tryVerify) 1 State.tryActivate) 2 State.tryConfirm) 3 State.tryRevert

/-- A write of 0x3011.00. -/
def State.writeUpd (s : State) (v : Nat) : State × Nat :=
  let x := ((s.odSet 0x3011 0 (v >>> 16 <<< 16)).retain 0x3011 0).updActions v
  if x.2 == 0 then x else (s, x.2)

/-- A write of the region map or of a die's unit map (R385, R386). -/
def State.writePartition (s : State) (index sub v : Nat) : State × Nat :=
  let n := if index == 0x2010 then 16 else s.unitsPerDie
  let size := if index == 0x2010 then 8 else 128
  let st := s.mapStatus n size (s.odGet index sub) v
  if st == 0 then ((s.writeMap index sub v).retain index sub, 0) else (s, st)

/-- The package resets as by SYS_RESET_N, for 10 ms (R444). -/
def State.warmStart (s : State) : State :=
  let s := s.endAll .standby
  { s with pins := { s.pins with warm := true } }

def fnKindOf (index : Nat) : FnKind :=
  if index == 0x3001 then .core else if index == 0x3002 then .region else if index == 0x3003 then .stack else .host

/-- An accepted value takes effect. -/
def State.writeValue (s : State) (index sub : Nat) (acc : Access) (bytes : List Byte) : State × Nat :=
  let v := natOf bytes
  if !inRange index v || !bitsOk index acc v then (s, 0x0903)
  else if index == 0x2010 || index == 0x2011 then s.writePartition index sub v
  else if index == 0x3000 then (if bitOf v 0 then s.warmStart else s, 0)
  else if 0x3001 ≤ index && index ≤ 0x3004 then (s.writeEnable (fnKindOf index) (sub - 1) (v == 1), 0)
  else if index == 0x3010 then s.imageWrite 0 bytes.length bytes
  else if index == 0x3011 then s.writeUpd v
  else if 0x3130 ≤ index && index ≤ 0x3132 then
    let x := s.writeSplit index sub v
    (if x.2 == 0 then x.1.retain index sub else s, x.2)
  else if index == 0x3141 then ((s.writePort (sub - 1) v).retain index sub, 0)
  else if index == 0x3150 then (s.writeRoutes (sub - 1) v, 0)
  else if index == 0x3161 then (if bitOf v 0 then effArbiterCountersClear (sub - 1) s else s, 0)
  else if index == 0x6004 then (if bitOf v 0 then s.clearFaultRing else s, 0)
  else if index == 0xF000 then s.tryCommit v
  else if index == 0xF011 then s.tryToken (v % 2 ^ 1928)
  else match acc with
    | .bits w rw _ => ((s.odSet index sub (writeBits w rw (s.odGet index sub) v)).retain index sub, 0)
    | _ => ((s.odSet index sub v).retain index sub, 0)

-- ## Admission (R381, R382, R449)

/-- In recovery only a few entries are served (R449); a request for another is answered as one for no entry (DEDUCED, log 43). -/
def State.odServed (s : State) (index : Nat) : Bool :=
  s.boot != .recovery || (0x1000 ≤ index && index ≤ 0x10FF) || index == 0x3010 || index == 0x3011 || index == 0x4402

/-- The row of an entry that a request names, when there is one. -/
def State.odEntry (s : State) (index sub : Nat) : Option OdRow :=
  match odRow index with
  | none => none
  | some row => if s.odServed index && (isCount row sub || odHolds row sub) then some (row.at_ index sub) else none

/-- Access and length of a write (R381, R382). -/
def writeAdmits (row : OdRow) (sub len : Nat) : Nat :=
  if isCount row sub || row.acc == .ro then 0x0902
  else if row.size != 0 && len != row.size then 0x0904
  else 0

/-- A write of a whole value to an entry: the state after it, and its STATUS. A refused write changes nothing but what a token's refusal
counts. -/
def State.odWrite (s : State) (index sub : Nat) (bytes : List Byte) : State × Nat :=
  match s.odEntry index sub with
  | none => (s, 0x0901)
  | some row =>
    let st := writeAdmits row sub bytes.length
    if st == 0 then s.writeValue index sub row.acc bytes else (s, st)

/-- PARTITION_CONFIG_WRITE (R385, R386). -/
def execPartitionConfigWrite (index sub : Nat) (value : List Byte) (s : State) : Out :=
  answer true (if s.serving && (index == 0x2010 || index == 0x2011) then (s.odWrite index sub value).1 else s)

end Sys2Proof.Machine
end

