-- ==== Sys2Proof/Machine/Management.lean ====
section
/-! DEFINITION. The object access protocol over CAN FD and the two mailboxes, and the heartbeat (R372 to R380). -/

namespace Sys2Proof.Machine

/-- The header of R374 and the bytes that follow it. -/
structure Oap where
  cmd : Nat
  seq : Nat
  index : Nat
  sub : Nat
  ty : Nat
  len : Nat
  off : Nat
  data : List Byte
  deriving DecidableEq, Repr

def parseOap (frame : List Byte) : Oap :=
  let h := natOf (frame.take 16)
  { cmd := field h 7 0, seq := field h 15 8, index := field h 31 16, sub := field h 39 32, ty := field h 47 40,
    len := field h 95 64, off := field h 127 96, data := frame.drop 16 }

/-- The header of a response (R375). -/
def replyHeader (q : Oap) (status len : Nat) : List Byte :=
  bytesOf ((q.cmd ||| 0x80) + q.seq <<< 8 + q.index <<< 16 + q.sub <<< 32 + q.ty <<< 40 + status <<< 48 + len <<< 64 + q.off <<< 96) 16

/-- The segment size S (R375). -/
def segSize : Chan → Nat
  | .can => 48
  | _ => 4080

/-- A CAN FD frame is padded with zero bytes to the next length (R374). -/
def padCan (bytes : List Byte) : List Byte :=
  match [16, 20, 24, 32, 48, 64].find? fun n => bytes.length ≤ n with
  | some n => bytes ++ List.replicate (n - bytes.length) 0
  | none => bytes

def chanPort : Chan → Nat
  | .mb1 => 1
  | _ => 0

/-- Whether a request is taken: the dictionary is served and the lead role at rest (R343), node 0 is silent on CAN (R372), a mailbox needs its host port, and a doorbell
rung while BUSY is ignored (R380). A frame of less than 16 bytes is ignored (R374). -/
def State.hears (s : State) (ch : Chan) (frame : List Byte) : Bool :=
  s.fwServed && !s.leadMoves && 16 ≤ frame.length
    && (match ch with
        | .can => s.node != 0
        | _ => (s.portUp (chanPort ch) || s.boot == .recovery) && !(s.channel ch).busy)

/-- A mailbox takes its request. -/
def State.submit (s : State) (ch : Chan) (frame : List Byte) : State :=
  match ch with
  | .can => s
  | _ => s.setChannel ch { s.channel ch with req := frame, busy := true }

/-- A response leaves: a CAN frame, or RSP with DONE and MSI-X vector 0 of PF 0 (R373, R380). A request that reset the package stays
unanswered. -/
def State.respond (s : State) (ch : Chan) (q : Oap) (status len : Nat) (data : List Byte) : State :=
  if !s.fwServed then s
  else
    let bytes := replyHeader q status len ++ data
    match ch with
    | .can => { s with canTx := s.canTx ++ [⟨false, 0x500 + s.node, padCan bytes⟩] }
    | _ =>
      let s := s.setChannel ch { s.channel ch with rsp := bytes, busy := false, done := true }
      s.sendIrq ⟨chanPort ch, 0, 0⟩

def State.setXfer (s : State) (ch : Chan) (x : Option Xfer) : State := s.setChannel ch { s.channel ch with xfer := x }

/-- The channel's transfer ends, and a partly received write is discarded (R376). -/
def State.endXfer (s : State) (ch : Chan) : State :=
  let image := match (s.channel ch).xfer with | some x => x.write && x.index == 0x3010 | none => false
  (if image then s.setIncoming 0 else s).setXfer ch none

/-- Whether a frame continues a transfer (R376). -/
def Xfer.follows (x : Xfer) (q : Oap) : Bool :=
  q.sub == x.sub && q.index == x.index && q.ty == x.ty && q.len == x.len && q.off == x.nextOff && q.seq == x.nextSeq
    && x.write == (q.cmd == 2)

/-- The status of a request by index, subindex and TYPE (R381); the count of an entry's structures is a U8. -/
def State.typeStatus (s : State) (q : Oap) : Nat :=
  match s.odEntry q.index q.sub with
  | none => 0x0901
  | some row => if q.ty == (if isCount row q.sub then 2 else row.ty) then 0 else 0x0904

-- ## READ

/-- One segment of a value is sent; the transfer stays open while more remains. -/
def State.sendSegment (s : State) (ch : Chan) (q : Oap) (v : List Byte) : State :=
  let next := q.off + segSize ch
  let x : Option Xfer := if next < v.length then
    some { write := false, index := q.index, sub := q.sub, ty := q.ty, len := q.len, nextOff := next, nextSeq := (q.seq + 1) % 256, data := v }
    else none
  (s.setXfer ch x).respond ch q 0 v.length ((v.drop q.off).take (segSize ch))

/-- A read that begins: a snapshot of the value is taken (R376). Each read of 0xF010.00 makes a new challenge (R451). -/
def State.firstRead (s : State) (ch : Chan) (q : Oap) : State :=
  let st := if q.off != 0 then 0x0904 else if s.typeStatus q != 0 then s.typeStatus q else if q.len != 0 then 0x0904 else 0
  if st != 0 then s.respond ch q st q.len []
  else
    let s := if q.index == 0xF010 then s.newChallenge else s
    s.sendSegment ch q (s.odBytes q.index q.sub)

/-- A request on a channel: it continues the open transfer, breaks it, or ends it silently and begins its own (R376). -/
def State.route_ (s : State) (ch : Chan) (q : Oap) (begin_ : State → State) (more : Xfer → State → State) : State :=
  match (s.channel ch).xfer with
  | none => begin_ s
  | some x =>
    if x.index == q.index && x.sub == q.sub then
      if x.follows q then more x s else (s.endXfer ch).respond ch q 0x0904 q.len []
    else begin_ (s.endXfer ch)

def effOapRead (ch : Chan) (frame : List Byte) (s : State) : State :=
  let q := parseOap frame
  if !s.hears ch frame || q.cmd != 1 then s
  else (s.submit ch frame).route_ ch q (fun s => s.firstRead ch q) (fun x s => s.sendSegment ch q x.data)

/-- OAP_READ (R375, R376). -/
def execOapRead (ch : Chan) (frame : List Byte) (s : State) : Out := answer true (effOapRead ch frame s)

-- ## WRITE

/-- Bytes that a WRITE frame carries of its value. -/
def segNeed (ch : Chan) (q : Oap) : Nat := min (segSize ch) (q.len - q.off)

/-- A segment of the value has arrived; its last byte makes the whole value take effect (R376). The image of 0x3010.00 is programmed as it
arrives (R398). -/
def State.takeSegment (s : State) (ch : Chan) (q : Oap) (old : List Byte) : State :=
  let need := segNeed ch q
  if ch == .can && q.data.length < need then (s.endXfer ch).respond ch q 0x0904 q.len []
  else
    let bytes := (q.data ++ List.replicate need 0).take need
    let next := q.off + need
    let image := q.index == 0x3010
    let all := if image then [] else old ++ bytes
    let w := if image then s.imageWrite q.off q.len bytes else if next < q.len then (s, 0) else s.odWrite q.index q.sub all
    let x : Option Xfer := if next < q.len && w.2 == 0 then
      some { write := true, index := q.index, sub := q.sub, ty := q.ty, len := q.len, nextOff := next, nextSeq := (q.seq + 1) % 256, data := all }
      else none
    if w.1.fwServed then (w.1.setXfer ch x).respond ch q w.2 q.len [] else w.1

/-- The status of a WRITE that begins. -/
def State.writeStatus (s : State) (q : Oap) : Nat :=
  if q.off != 0 then 0x0904
  else if s.typeStatus q != 0 then s.typeStatus q
  else match s.odEntry q.index q.sub with
    | some row => writeAdmits row q.sub q.len
    | none => 0x0901

def State.firstWrite (s : State) (ch : Chan) (q : Oap) : State :=
  let st := s.writeStatus q
  if st != 0 then s.respond ch q st q.len [] else s.takeSegment ch q []

def effOapWrite (ch : Chan) (frame : List Byte) (s : State) : State :=
  let q := parseOap frame
  if !s.hears ch frame || q.cmd != 2 then s
  else (s.submit ch frame).route_ ch q (fun s => s.firstWrite ch q) (fun x s => s.takeSegment ch q x.data)

/-- OAP_WRITE (R375, R376). -/
def execOapWrite (ch : Chan) (frame : List Byte) (s : State) : Out := answer true (effOapWrite ch frame s)

-- ## ABORT, other commands, timeouts

def effOapAbort (ch : Chan) (frame : List Byte) (s : State) : State :=
  let q := parseOap frame
  if !s.hears ch frame || q.cmd != 3 then s else ((s.submit ch frame).endXfer ch).respond ch q 0 q.len []

/-- OAP_ABORT (R377). -/
def execOapAbort (ch : Chan) (frame : List Byte) (s : State) : Out := answer true (effOapAbort ch frame s)

def effOapUnknownCommand (ch : Chan) (frame : List Byte) (s : State) : State :=
  let q := parseOap frame
  if !s.hears ch frame || (1 ≤ q.cmd && q.cmd ≤ 3) then s else (s.submit ch frame).respond ch q 0x0904 q.len []

/-- OAP_UNKNOWN_COMMAND (R375). -/
def execOapUnknownCommand (ch : Chan) (frame : List Byte) (s : State) : Out := answer true (effOapUnknownCommand ch frame s)

/-- OAP_TRANSFER_TIMEOUT: a transfer idle for 1 s ends (R376). -/
def execOapTransferTimeout (ch : Chan) (s : State) : Out := answer true (s.endXfer ch)

-- ## The registers of BAR0 (R380)

def mailboxOf (h : Nat) : Chan := if h == 1 then .mb1 else .mb0

/-- REQ with bytes written from an offset on. -/
def patchReq (req : List Byte) (off : Nat) (bytes : List Byte) : List Byte :=
  let all := (req ++ List.replicate 4096 0).take 4096
  all.take off ++ bytes ++ all.drop (off + bytes.length)

/-- The request in a mailbox is submitted: the 4,096 bytes of REQ, whatever their command. -/
def State.doorbell (s : State) (ch : Chan) : State :=
  let frame := patchReq (s.channel ch).req 0 []
  match (parseOap frame).cmd with
  | 1 => effOapRead ch frame s
  | 2 => effOapWrite ch frame s
  | 3 => effOapAbort ch frame s
  | _ => effOapUnknownCommand ch frame s

/-- Host port `h` writes BAR0 of its PF 0 at an offset: only its own mailbox takes a write (R380). -/
def State.barWrite (s : State) (h off : Nat) (bytes : List Byte) : State :=
  let ch := mailboxOf h
  let c := s.channel ch
  let o := off - 0x4000 * h
  if !s.fwServed || !(s.portUp h || s.boot == .recovery) || off < 0x4000 * h then s
  else if o + bytes.length ≤ 0x1000 then s.setChannel ch { c with req := patchReq c.req o bytes }
  else if o == 0x2000 then (if bitOf (natOf bytes) 0 then s.doorbell ch else s)
  else if o == 0x2008 then (if bitOf (natOf bytes) 1 then s.setChannel ch { c with done := false } else s)
  else s

/-- What BAR0 reads at an offset: a mailbox register, and 0 at every other (R380). -/
def State.barRead (s : State) (h off len : Nat) : List Byte :=
  let c := s.channel (mailboxOf h)
  let o := off - 0x4000 * h
  let zeros := List.replicate 4096 (0 : Byte)
  if off < 0x4000 * h then List.replicate len 0
  else if o + len ≤ 0x1000 then ((patchReq c.req 0 []).drop o).take len
  else if 0x1000 ≤ o && o + len ≤ 0x2000 then ((c.rsp ++ zeros).drop (o - 0x1000)).take len
  else if o == 0x2008 then bytesOf ((if c.busy then 1 else 0) + if c.done then 2 else 0) len
  else List.replicate len 0

/-- REGISTER_WRITE: a write to a dictionary entry (R382, R383). An index from 0x1_0000 on stands for BAR0 offset `index` − 0x1_0000, written by
host port `sub` (DESIGN CHOICE, log 115). -/
def execRegisterWrite (index sub : Nat) (value : List Byte) (s : State) : Out :=
  answer true (if 0x10000 ≤ index then (if okHost sub then s.barWrite sub (index - 0x10000) value else s)
    else if s.fwServed then (s.odWrite index sub value).1 else s)

-- ## The heartbeat (R378)

/-- The 8 bytes of a heartbeat. -/
def State.heartbeatBytes (s : State) : List Byte :=
  bytesOf (field (s.odGet 0x4000 0) 2 0 + s.lead <<< 6 + updCode s.fw.upd <<< 8 + s.pkg <<< 16 + (s.timeUs / 1000000 % 2 ^ 32) <<< 32) 8

def effHeartbeat (s : State) : State :=
  if s.fwServed && s.node != 0 && s.odGet 0x1101 0 != 0 then
    { s with canTx := s.canTx ++ [⟨false, 0x700 + s.node, s.heartbeatBytes⟩] }
  else s

/-- HEARTBEAT (R378). -/
def execHeartbeat (s : State) : Out := answer true (effHeartbeat s)

end Sys2Proof.Machine
end

