-- ==== Sys2Proof/Machine/Responses.lean ====
section
/-! DEFINITION. The responses that return for the requests of this package, and the requests that time out (R322, R323, R326, R328). -/

namespace Sys2Proof.Machine

def Txn.who (t : Txn) (part : Nat) : Who := ⟨t.r, t.p, t.core, part⟩

/-- Whether a read's unit reads again after a failed verdict: it ends its op itself, with 0x0702 for a refused reread (R404). -/
def State.rereads (s : State) (t : Txn) : Bool :=
  (s.core t.core).units.any fun u => u.r == t.r && u.p == t.p && u.isAgain

/-- A response has come for a record: its unit ends with the last one (R285, R328), and a RELEASE that waited for it goes on (R300). -/
def State.acknowledge (s : State) (t : Txn) : State :=
  match t.unit with
  | some id => (s.settleUnit t.core id).letReleases t.core
  | none => s

/-- A request ends its op with a code (R318, R322, R323, R326). -/
def State.txnFails (s : State) (t : Txn) (code : Nat) : State :=
  match t.kind with
  | .read =>
    let s' := s.readEnds (t.who (ringPart t.r)) t.pkg t.die t.slot t.off code
    if s.rereads t then s' else s'.cmdError t.r t.p (ticketErr code t.ticket)
  | .write => (s.cmdError t.r t.p (ticketErr code t.ticket)).acknowledge t
  | .signalAdd => s.cmdFail t.r t.p { code := code }
  | .waitRead => s.cmdFail t.r t.p { code := code }

/-- The die that counts a late response: the requester's, or the lead die's for a requester that is no core. -/
def State.lateDie (s : State) (req : Nat) : Nat := if req < 128 then req / 32 else s.lead

/-- A response of type `type` returns (R323): a late one is counted (R326); one whose OGEN differs from the binding ends the op with
0x0405; otherwise it binds the window and is used. -/
def State.response (s : State) (type : Nat) (m : Msg) (use : State → Txn → State) : State :=
  if m.type != type || m.dpkg != s.pkg || !s.isFront m then s
  else
    let s := s.consume m
    match s.txns.find? fun t => t.tag == m.tag with
    | none => s.dieBump 0x5312 (s.lateDie m.req) 1
    | some t =>
      let s := { s with txns := s.txns.erase t }
      let w := t.who (ringPart t.r)
      match s.bound w t.pkg t.die t.slot with
      | some g =>
        if g != m.gen then s.txnFails t 0x0405
        else use (s.bindWindow w t.pkg t.die t.slot m.gen) t
      | none => use (s.bindWindow w t.pkg t.die t.slot m.gen) t

def effRdata (m : Msg) (s : State) : State :=
  s.response 0x10 m fun s t =>
    match t.kind with
    | .waitRead => s.waitRead t.r t.p (natOf (m.data.take 8))
    | _ => { s with arrived := s.arrived ++ [{ r := t.r, p := t.p, core := t.core, pkg := t.pkg, die := t.die, slot := t.slot
                                               off := t.off, data := m.data }] }

/-- RDATA (R323, R326). -/
def execRdata (m : Msg) (s : State) : Out := answer true (effRdata m s)

def effWack (m : Msg) (s : State) : State := s.response 0x11 m fun s t => s.acknowledge t

/-- WACK: a remote record counts as accepted (R328). -/
def execWack (m : Msg) (s : State) : Out := answer true (effWack m s)

/-- The old value of a SIGNAL's fetch-add tells whether the sum stands at its limit (R40). -/
def State.signalled (s : State) (r p old : Nat) : State :=
  (s.flagSum r p old (((s.cmd r p).map fun c => c.f 127 64).getD 0)).cmdDone r p old

def effAdata (m : Msg) (s : State) : State :=
  s.response 0x12 m fun s t => if t.kind == .signalAdd then s.signalled t.r t.p (natOf (m.data.take 8)) else s.acknowledge t

/-- ADATA: the old value of a remote fetch-add returns (R315), and flags a SIGNAL whose sum saturated (R40). -/
def execAdata (m : Msg) (s : State) : Out := answer true (effAdata m s)

/-- A refusal ends the requester's op with its code, naming the refused record's ticket (R322); it binds no window. -/
def effRefuse (m : Msg) (s : State) : State :=
  if m.type != 0x13 || m.dpkg != s.pkg || !s.isFront m then s
  else
    let s := s.consume m
    match s.txns.find? fun t => t.tag == m.tag with
    | none => s.dieBump 0x5312 (s.lateDie m.req) 1
    | some t => { s with txns := s.txns.erase t }.txnFails t m.status

/-- REFUSE (R322, R323). -/
def execRefuse (m : Msg) (s : State) : Out := answer true (effRefuse m s)

def effRemoteTimeout (tag : Nat) (s : State) : State :=
  match s.txns.find? fun t => t.tag == tag with
  | none => s
  | some t => { s with txns := s.txns.erase t }.txnFails t 0x0407

/-- REMOTE_TIMEOUT: no response within 0x3143.dd (R326). -/
def execRemoteTimeout (tag : Nat) (s : State) : Out := answer true (effRemoteTimeout tag s)

end Sys2Proof.Machine
end

