-- ==== Sys2Proof/Machine/Dispatch.lean ====
section
/-! DEFINITION. Which meaning a command has: one arm per constructor of `Instr`, in its order. -/

namespace Sys2Proof.Machine

def exec (i : Instr) (s : State) : Host.Outcome State Fault Refusal :=
  match i with
  | .tdCreate r p => Sys2Proof.Machine.execTdCreate r p s
  | .tdDestroy r p => Sys2Proof.Machine.execTdDestroy r p s
  | .tdDestroyDone r p => Sys2Proof.Machine.execTdDestroyDone r p s
  | .matmul r p => Sys2Proof.Machine.execMatmul r p s
  | .barometer r p => Sys2Proof.Machine.execBarometer r p s
  | .vchain r p core => Sys2Proof.Machine.execVchain r p core s
  | .gather r p core => Sys2Proof.Machine.execGather r p core s
  | .scatter r p core => Sys2Proof.Machine.execScatter r p core s
  | .scatterAdd r p core => Sys2Proof.Machine.execScatterAdd r p core s
  | .copy r p => Sys2Proof.Machine.execCopy r p s
  | .compressStore r p core => Sys2Proof.Machine.execCompressStore r p core s
  | .queuePush r p => Sys2Proof.Machine.execQueuePush r p s
  | .queuePop r p => Sys2Proof.Machine.execQueuePop r p s
  | .queueMark r p => Sys2Proof.Machine.execQueueMark r p s
  | .queueRewind r p => Sys2Proof.Machine.execQueueRewind r p s
  | .queueRelease r p => Sys2Proof.Machine.execQueueRelease r p s
  | .workGrid r p => Sys2Proof.Machine.execWorkGrid r p s
  | .signal r p => Sys2Proof.Machine.execSignal r p s
  | .wait r p => Sys2Proof.Machine.execWait r p s
  | .waitPoll r p => Sys2Proof.Machine.execWaitPoll r p s
  | .waitTimeout r p => Sys2Proof.Machine.execWaitTimeout r p s
  | .windowOpen r p => Sys2Proof.Machine.execWindowOpen r p s
  | .windowClose r p => Sys2Proof.Machine.execWindowClose r p s
  | .windowCloseDone die slot => Sys2Proof.Machine.execWindowCloseDone die slot s
  | .slotWrite r p => Sys2Proof.Machine.execSlotWrite r p s
  | .slotRewriteApply die slot => Sys2Proof.Machine.execSlotRewriteApply die slot s
  | .slotRewriteTimeout die slot => Sys2Proof.Machine.execSlotRewriteTimeout die slot s
  | .almanacSave r p => Sys2Proof.Machine.execAlmanacSave r p s
  | .almanacLoad r p => Sys2Proof.Machine.execAlmanacLoad r p s
  | .cmdDb r width v => Sys2Proof.Machine.execCmdDb r width v s
  | .cplDb r width v => Sys2Proof.Machine.execCplDb r width v s
  | .ringEnable r cb => Sys2Proof.Machine.execRingEnable r cb s
  | .ringDisable r cb => Sys2Proof.Machine.execRingDisable r cb s
  | .ringDrainDone r => Sys2Proof.Machine.execRingDrainDone r s
  | .entryTake r => Sys2Proof.Machine.execEntryTake r s
  | .commandStart r p => Sys2Proof.Machine.execCommandStart r p s
  | .commandComplete r p => Sys2Proof.Machine.execCommandComplete r p s
  | .almanacSeed r p => Sys2Proof.Machine.execAlmanacSeed r p s
  | .accRangeAlloc core r p => Sys2Proof.Machine.execAccRangeAlloc core r p s
  | .stagingShareAlloc core r p => Sys2Proof.Machine.execStagingShareAlloc core r p s
  | .workCounterAlloc r p g => Sys2Proof.Machine.execWorkCounterAlloc r p g s
  | .tileClaim core r p => Sys2Proof.Machine.execTileClaim core r p s
  | .stealHoldExpiry core r p => Sys2Proof.Machine.execStealHoldExpiry core r p s
  | .kStep core unit readFail => Sys2Proof.Machine.execKStep core unit readFail s
  | .pacingWindow core activity => Sys2Proof.Machine.execPacingWindow core activity s
  | .tileSwap core unit => Sys2Proof.Machine.execTileSwap core unit s
  | .tileDrain core upsets => Sys2Proof.Machine.execTileDrain core upsets s
  | .tileVerdict core parity => Sys2Proof.Machine.execTileVerdict core parity s
  | .outboundSend core recordFail => Sys2Proof.Machine.execOutboundSend core recordFail s
  | .bankRead src addr => Sys2Proof.Machine.execBankRead src addr s
  | .bankWrite src addr data nibbles => Sys2Proof.Machine.execBankWrite src addr data nibbles s
  | .bankAdd src addr fmt lanes data => Sys2Proof.Machine.execBankAdd src addr fmt lanes data s
  | .bankMaxMin src addr isMax fmt lanes data => Sys2Proof.Machine.execBankMaxMin src addr isMax fmt lanes data s
  | .bankMaxMinIndex src addr isMax fmt lanes data => Sys2Proof.Machine.execBankMaxMinIndex src addr isMax fmt lanes data s
  | .bankFetchAdd src addr amount => Sys2Proof.Machine.execBankFetchAdd src addr amount s
  | .sacRecord src ctxa key split data => Sys2Proof.Machine.execSacRecord src ctxa key split data s
  | .sacMerge region ctx => Sys2Proof.Machine.execSacMerge region ctx s
  | .queueEnable who die q cb => Sys2Proof.Machine.execQueueEnable who die q cb s
  | .queueDisable who die q cb => Sys2Proof.Machine.execQueueDisable who die q cb s
  | .staleTailNotice die q => Sys2Proof.Machine.execStaleTailNotice die q s
  | .lockAcquire who region cell => Sys2Proof.Machine.execLockAcquire who region cell s
  | .lockTest who region cell => Sys2Proof.Machine.execLockTest who region cell s
  | .lockRelease who region cell => Sys2Proof.Machine.execLockRelease who region cell s
  | .lockMisuseWrite who region cell => Sys2Proof.Machine.execLockMisuseWrite who region cell s
  | .scratchpadSplitApply core => Sys2Proof.Machine.execScratchpadSplitApply core s
  | .flitReceive pp fecOk corrected flit => Sys2Proof.Machine.execFlitReceive pp fecOk corrected flit s
  | .linkRetrain pp lane ok => Sys2Proof.Machine.execLinkRetrain pp lane ok s
  | .laneLossOfLock pp lane => Sys2Proof.Machine.execLaneLossOfLock pp lane s
  | .laneFecWindow pp lane corrected => Sys2Proof.Machine.execLaneFecWindow pp lane corrected s
  | .linkRd m => Sys2Proof.Machine.execLinkRd m s
  | .linkWr m => Sys2Proof.Machine.execLinkWr m s
  | .linkAt m => Sys2Proof.Machine.execLinkAt m s
  | .linkKp m => Sys2Proof.Machine.execLinkKp m s
  | .rdata m => Sys2Proof.Machine.execRdata m s
  | .wack m => Sys2Proof.Machine.execWack m s
  | .adata m => Sys2Proof.Machine.execAdata m s
  | .refuse m => Sys2Proof.Machine.execRefuse m s
  | .mgmt m => Sys2Proof.Machine.execMgmt m s
  | .transitMessage pp m => Sys2Proof.Machine.execTransitMessage pp m s
  | .remoteTimeout tag => Sys2Proof.Machine.execRemoteTimeout tag s
  | .arbiterRequest arb cycles req kind bytes => Sys2Proof.Machine.execArbiterRequest arb cycles req kind bytes s
  | .arbiterCountersClear die => Sys2Proof.Machine.execArbiterCountersClear die s
  | .oapRead ch frame => Sys2Proof.Machine.execOapRead ch frame s
  | .oapWrite ch frame => Sys2Proof.Machine.execOapWrite ch frame s
  | .oapAbort ch frame => Sys2Proof.Machine.execOapAbort ch frame s
  | .oapTransferTimeout ch => Sys2Proof.Machine.execOapTransferTimeout ch s
  | .heartbeat => Sys2Proof.Machine.execHeartbeat s
  | .faultRingClear value => Sys2Proof.Machine.execFaultRingClear value s
  | .registerWrite index sub value => Sys2Proof.Machine.execRegisterWrite index sub value s
  | .partitionConfigWrite index sub value => Sys2Proof.Machine.execPartitionConfigWrite index sub value s
  | .functionEnableWrite kind n on => Sys2Proof.Machine.execFunctionEnableWrite kind n on s
  | .functionStartDone kind n ok => Sys2Proof.Machine.execFunctionStartDone kind n ok s
  | .functionStopDone kind n => Sys2Proof.Machine.execFunctionStopDone kind n s
  | .hbmUnitClearDone die unit => Sys2Proof.Machine.execHbmUnitClearDone die unit s
  | .otpCommit value => Sys2Proof.Machine.execOtpCommit value s
  | .otpCommitDone readback => Sys2Proof.Machine.execOtpCommitDone readback s
  | .firmwareImageWrite offset total bytes => Sys2Proof.Machine.execFirmwareImageWrite offset total bytes s
  | .fwVerify => Sys2Proof.Machine.execFwVerify s
  | .fwVerifyDone c => Sys2Proof.Machine.execFwVerifyDone c s
  | .fwActivate => Sys2Proof.Machine.execFwActivate s
  | .dmpRestartDone die => Sys2Proof.Machine.execDmpRestartDone die s
  | .fwConfirm => Sys2Proof.Machine.execFwConfirm s
  | .fwRevert => Sys2Proof.Machine.execFwRevert s
  | .trialTimeout => Sys2Proof.Machine.execTrialTimeout s
  | .dmpReturnTimeout die => Sys2Proof.Machine.execDmpReturnTimeout die s
  | .warmReset => Sys2Proof.Machine.execWarmReset s
  | .debugChallenge => Sys2Proof.Machine.execDebugChallenge s
  | .debugToken token c => Sys2Proof.Machine.execDebugToken token c s
  | .coreFence phys cause => Sys2Proof.Machine.execCoreFence phys cause s
  | .progressBeatTimeout phys => Sys2Proof.Machine.execProgressBeatTimeout phys s
  | .fenceRetest phys pass => Sys2Proof.Machine.execFenceRetest phys pass s
  | .mirrorRepair bad good verify => Sys2Proof.Machine.execMirrorRepair bad good verify s
  | .retireCopyDone stack => Sys2Proof.Machine.execRetireCopyDone stack s
  | .hbmRetrain stack pc ok => Sys2Proof.Machine.execHbmRetrain stack pc ok s
  | .d2dModuleDisable pair module => Sys2Proof.Machine.execD2dModuleDisable pair module s
  | .phaseFailure rail => Sys2Proof.Machine.execPhaseFailure rail s
  | .dmpHeartbeat die => Sys2Proof.Machine.execDmpHeartbeat die s
  | .leadTakeover => Sys2Proof.Machine.execLeadTakeover s
  | .inputOutOfRange => Sys2Proof.Machine.execInputOutOfRange s
  | .inputRestored => Sys2Proof.Machine.execInputRestored s
  | .powerSample millivolts milliamps => Sys2Proof.Machine.execPowerSample millivolts milliamps s
  | .powerLoopStep => Sys2Proof.Machine.execPowerLoopStep s
  | .powerBrakeAssert => Sys2Proof.Machine.execPowerBrakeAssert s
  | .powerBrakeRelease => Sys2Proof.Machine.execPowerBrakeRelease s
  | .brakeReleaseStep => Sys2Proof.Machine.execBrakeReleaseStep s
  | .thermalSample rs => Sys2Proof.Machine.execThermalSample rs s
  | .thermalLoopStep => Sys2Proof.Machine.execThermalLoopStep s
  | .adaptiveVoltageStep rr up => Sys2Proof.Machine.execAdaptiveVoltageStep rr up s
  | .droopStretch rr cycles => Sys2Proof.Machine.execDroopStretch rr cycles s
  | .droopStretchEnd rr => Sys2Proof.Machine.execDroopStretchEnd rr s
  | .referenceLoss ref => Sys2Proof.Machine.execReferenceLoss ref s
  | .referenceHoldoverExpiry => Sys2Proof.Machine.execReferenceHoldoverExpiry s
  | .inputPowerApplied => Sys2Proof.Machine.execInputPowerApplied s
  | .sysResetAssert => Sys2Proof.Machine.execSysResetAssert s
  | .sysResetRelease nodeId => Sys2Proof.Machine.execSysResetRelease nodeId s
  | .bootImageCheck a b => Sys2Proof.Machine.execBootImageCheck a b s
  | .startupComplete => Sys2Proof.Machine.execStartupComplete s
  | .perstAssert port => Sys2Proof.Machine.execPerstAssert port s
  | .perstRelease port => Sys2Proof.Machine.execPerstRelease port s
  | .functionLevelReset port part => Sys2Proof.Machine.execFunctionLevelReset port part s
  | .inputStorm pin => Sys2Proof.Machine.execInputStorm pin s
  | .stormQuietEnd pin level => Sys2Proof.Machine.execStormQuietEnd pin level s
  | .jtagInstruction die ir => Sys2Proof.Machine.execJtagInstruction die ir s
  | .d2dFlitReceive pair toHigh crcOk seq payload => Sys2Proof.Machine.execD2dFlitReceive pair toHigh crcOk seq payload s
  | .onDieNetworkTransfer die parityOk => Sys2Proof.Machine.execOnDieNetworkTransfer die parityOk s
  | .oapUnknownCommand ch frame => Sys2Proof.Machine.execOapUnknownCommand ch frame s
  | .queueWindowCopyDone rr => Sys2Proof.Machine.execQueueWindowCopyDone rr s
  | .warmResetRelease => Sys2Proof.Machine.execWarmResetRelease s
  | .queueControlBlockWrite who die q cb => Sys2Proof.Machine.execQueueControlBlockWrite who die q cb s

end Sys2Proof.Machine
end

