-- ==== Sys2Proof/Safety.lean ====
section
/-! DEFINITION. What a claim may call a safe run, in the terms of the statements. -/

namespace Sys2Proof.Machine

/-- A step that stops neither with a fault nor with a refusal. -/
def Completes (i : Instr) (s : State) : Prop := ∃ t, exec i s = .next t

/-- Every memory of the machine has the canonical form of `Mem.wf`. -/
def State.memWf (s : State) : Bool := Mem.wf s.mem && Mem.wf s.host0 && Mem.wf s.host1

/-- The settings that outlive a reset are settings: the retained store lists CP entries and the storm bits alone (R396), and the records of
every OTP generation set CP entries alone (R393). -/
def State.settingsWf (s : State) : Bool :=
  s.retained.all (fun kv => isKept (kv.1 / 256))
    && s.otp.all fun kg => (kg.2.lead.recs ++ kg.2.standby.recs).all fun r => isCp r.index && decide (r.last < 256)

/-- The pointers of an enabled queue stand in their order, and it holds no more entries than it can (R290). -/
def Queue.inOrder (q : Queue) : Bool := !q.en || (q.rel ≤ q.mark && q.mark ≤ q.rd && q.rd ≤ q.wr && q.wr - q.rel ≤ queueCap q)

/-- Every queue keeps its order. -/
def State.queuesWf (s : State) : Bool := s.queues.all fun kq => kq.2.inOrder

/-- Every waiting command names structures that the package has. -/
def State.pendingWf (s : State) : Bool := s.pending.all Instr.wf

/-- The command at (r, p) is outstanding in a phase, with an opcode of R358. -/
def State.Holds (s : State) (r p : Nat) (ph : Phase) (op : Nat) (c : Cmd) : Prop :=
  r < 512 ∧ s.cmd r p = some c ∧ c.phase = ph ∧ c.entry.toNat % 256 = op

/-- Byte `i` of an end of a COPY in the package or in host memory. -/
def State.endByte (s : State) (e : End) (i : Nat) : Byte :=
  match e with
  | .key k => Mem.read s.mem (k + i)
  | .host port a => Mem.read (s.hostMem port) (a + i)
  | .remote _ _ _ _ => 0

/-- Nothing stops a read of `len` bytes at an end, which lies inside one address space. -/
def State.endReadable (s : State) (e : End) (len : Nat) : Prop :=
  match e with
  | .key k => k % 2 ^ 48 + len ≤ 2 ^ 48 ∧ s.badIn k len = none ∧ s.clearingIn k len = false
  | .host port a => s.portUp port = true ∧ s.hostBadIn port a len = none
  | .remote _ _ _ _ => False

/-- Nothing stops a write of the command `c` at an end. -/
def State.endWritable (s : State) (c : Cmd) (e : End) (len : Nat) : Prop :=
  match e with
  | .key k => k % 2 ^ 48 + len ≤ 2 ^ 48 ∧ s.clearingIn k len = false
  | .host port _ => s.portUp port = true ∧ port ∉ c.cut
  | .remote _ _ _ _ => False

/-- Ends of `len` bytes with no byte in common. -/
def End.Apart (a b : End) (len : Nat) : Prop :=
  match a, b with
  | .key x, .key y => x + len ≤ y ∨ y + len ≤ x
  | .host g x, .host h y => g ≠ h ∨ x + len ≤ y ∨ y + len ≤ x
  | _, _ => True

/-- A record of an op whose ticket is in no stale-ticket list, at a line of this package's memory that serves accesses and is not being cleared. -/
def State.Fresh (s : State) (r : Nat) (t : Option Ticket) (addr : Nat) : Prop :=
  r < 512 ∧ field addr 49 48 ≠ 3 ∧ s.accessErr addr 1 t = none ∧ s.clearingIn (memKey addr / 64 * 64) 64 = false ∧ ∀ k, t = some k → k ∉ s.stale

/-- MSI-X vector 0 of PF 0 of a host port has gone out, or waits in the PBA while it is held there (R346, R369). -/
def State.Rings (s t : State) (port : Nat) : Prop :=
  if s.irqHeld ⟨port, 0, 0⟩ = true then t.msix = s.msix ∧ ⟨port, 0, 0⟩ ∈ t.pba else t.msix = s.msix ++ [⟨port, 0, 0⟩]

/-- The package's answer to a request has gone out on its channel: a CAN FD frame, or the mailbox's RSP with DONE and MSI-X vector 0. -/
def State.Answers (s t : State) (ch : Chan) (q : Oap) (status len : Nat) (data : List Byte) : Prop :=
  match ch with
  | .can => t.canTx = s.canTx ++ [⟨false, 0x500 + s.node, padCan (replyHeader q status len ++ data)⟩] ∧ t.msix = s.msix
  | .mb0 => t.mb0.rsp = replyHeader q status len ++ data ∧ t.mb0.busy = false ∧ t.mb0.done = true ∧ s.Rings t 0 ∧ t.canTx = s.canTx
  | .mb1 => t.mb1.rsp = replyHeader q status len ++ data ∧ t.mb1.busy = false ∧ t.mb1.done = true ∧ s.Rings t 1 ∧ t.canTx = s.canTx

end Sys2Proof.Machine
end

