-- ==== Sys2Proof/Certificates/Slice0/Obligations.lean ====
section
/-! DEFINITION. The statements for the provers, one `Obligations.<Name>` each. A statement of an effect says what the machine is after the
command, by an equation between states or by the parts that changed and the rest put back (`{ t with … := s.… } = s`). -/

section

open Sys2Proof Sys2Proof.Machine

-- ## The block itself

/-- A step takes the command at the front of the queue and answers what that command does on the state with the queue's rest; an
empty queue leaves the block as it is (the model's choice, log 10). -/
def Obligations.StepRunsTheFrontCommand : Prop :=
  (∀ (c : Instr) (rest : List Instr) (s : State), s.pending = c :: rest → step s = exec c { s with pending := rest })
    ∧ ∀ s : State, s.pending = [] → step s = .next s

/-- Every command whose operands name structures that the package has (R9) is executed; any other stops with the model's one fault
(log 9). -/
def Obligations.OnlyAbsentStructuresStopACommand : Prop :=
  ∀ (i : Instr) (s : State), (i.wf = true → Completes i s) ∧ (i.wf = false → exec i s = .fault .noSuchStructure)

/-- No command touches the commands that wait behind it. -/
def Obligations.CommandsLeaveTheQueue : Prop :=
  ∀ (i : Instr) (s t : State), exec i s = .next t → t.pending = s.pending

/-- The canonical form in which the model holds the three memories, addresses rising and no byte listed that reads as an unlisted one does
(`Mem.wf`, the model's own representation), is an invariant of every step. -/
def Obligations.StepKeepsMemoryForm : Prop :=
  ∀ s t : State, s.memWf = true → step s = .next t → t.memWf = true

/-- What outlives a reset stays a set of settings: no step puts anything but CP entries and the storm bits into the retained store, or
anything but CP entries into the records of an OTP generation. The pointers of every enabled queue stay in order, REL, MARK, RD, WR, no further apart
than its capacity (R290). -/
def Obligations.StepKeepsSettingsForm : Prop :=
  ∀ s t : State, step s = .next t →
    (s.settingsWf = true → t.settingsWf = true) ∧ (s.queuesWf = true → t.queuesWf = true)

/-- The state after reset has the forms of the two statements above, of which that of the memories (`Mem.wf`) is the model's own representation. -/
def Obligations.ResetHasItsForms : Prop :=
  State.reset.memWf = true ∧ State.reset.settingsWf = true ∧ State.reset.queuesWf = true

/-- R419, R448: whatever a step does, no entry of the retirement list is lost, no image-key slot that is revoked becomes valid again, the least security
version does not fall, and the fault log's sequence number does not go back. -/
def Obligations.RetirementsAndRevocationsStay : Prop :=
  ∀ s t : State, step s = .next t →
    (∀ x ∈ s.log.retired, x ∈ t.log.retired) ∧ (∀ k ∈ s.fw.keyRevoked, k ∈ t.fw.keyRevoked) ∧ s.fw.secMin ≤ t.fw.secMin ∧
      s.log.nextSeq ≤ t.log.nextSeq

-- ## Rings (15)

/-- R353 and R350: a doorbell of 32 bits replaces TAIL or CPL_HEAD when its value is accepted, and sends the ring to ERROR with its cause,
and RING_FAULT of the die, when it is not, in every state of the ring; other widths are ignored. -/
def Obligations.DoorbellsMoveOrStopARing : Prop :=
  ∀ (r : Nat) (v : BitVec 32) (s : State), r < 512 →
    (∀ width, width ≠ 32 → exec (.cmdDb r width v) s = .next s ∧ exec (.cplDb r width v) s = .next s) ∧
      exec (.cmdDb r 32 v) s = .next
        (if ((v.toNat : Int) - (s.ring r).tail) % 2 ^ 32 < 2 ^ 31 ∧ ((v.toNat : Int) - (s.ring r).head) % 2 ^ 32 ≤ 2 ^ (s.ring r).cmdLog2
          then s.setRing r { s.ring r with tail := v.toNat }
          else (s.setRing r { s.ring r with err := 5, st := .error }).setBit 0x4300 (r / 128 + 1) 4) ∧
      exec (.cplDb r 32 v) s = .next
        (if ((v.toNat : Int) - (s.ring r).cplHead) % 2 ^ 32 < 2 ^ 31 ∧ (((s.ring r).cplTail : Int) - v.toNat) % 2 ^ 32 < 2 ^ 31
          then s.setRing r { s.ring r with cplHead := v.toNat }
          else (s.setRing r { s.ring r with err := 6, st := .error }).setBit 0x4300 (r / 128 + 1) 4)

/-- R351 and R352: a write with EN = 1 to a ring that is not enabled stores the RW fields and checks causes 1 to 4 in their order; a failing
check leaves the ring DISABLED with the cause, passing checks start it with its counts at 0. While a command of the ring is still
outstanding the fields are stored and EN stays 0 (the model's choice, log 29); the reserved bits are stored with them (DEDUCED, log 141).
R351 and R352: while EN = 1 only IRQ_PORT, IRQ_EN and EN can be written; a write of 0 to EN moves a RUNNING or ERROR ring to DRAINING, which
ends once no taken command of the ring is outstanding. On a ring in another state such a write stores the RW fields, on a DRAINING one too
(DEDUCED, log 97), reserved bits among them (DEDUCED, log 141). -/
def Obligations.RingsAreEnabledAndDrained : Prop :=
  (∀ (r : Nat) (cb : BitVec 512) (s : State), r < 512 → (s.ring r).en = false → (s.ring r).st ≠ .draining →
     let g : Ring :=
       { s.ring r with
         cmdBase := field cb.toNat 511 448, cplBase := field cb.toNat 447 384, irqPort := field cb.toNat 33 32, msix := field cb.toNat 31 21
         irqEn := bitOf cb.toNat 20, loc := field cb.toNat 19 18, cplLog2 := field cb.toNat 17 13, cmdLog2 := field cb.toNat 12 8
         reserved := 2 * field cb.toNat 255 34 + field cb.toNat 1 1 }
     let off (l : Nat) : Prop := l < 4 ∨ 16 < l
     let bad (a len : Nat) : Prop :=
       a % 4096 ≠ 0 ∨ (g.loc = 0 ∧ (addrPkg a ≠ s.pkg ∨ 2 ≤ addrSpace a ∨ s.rangeOwned (r / 64) a len = false))
         ∨ (g.loc = 1 ∧ s.portUp 0 = false) ∨ (g.loc = 2 ∧ s.portUp 1 = false)
     ((∃ c ∈ s.cmds, c.r = r) → exec (.ringEnable r cb) s = .next (s.setRing r g)) ∧
     ((∀ c ∈ s.cmds, c.r ≠ r) → ∃ t, exec (.ringEnable r cb) s = .next t ∧
       ((∀ rr, rr < 16 → s.regionPart rr ≠ some (r / 64)) → t = s.setRing r { g with err := 1, st := .disabled }) ∧
       ((∃ rr, rr < 16 ∧ s.regionPart rr = some (r / 64)) →
         ((off g.cmdLog2 ∨ off g.cplLog2) → t = s.setRing r { g with err := 2, st := .disabled }) ∧
         (¬ off g.cmdLog2 → ¬ off g.cplLog2 →
           ((bad g.cmdBase (128 * 2 ^ g.cmdLog2) ∨ bad g.cplBase (32 * 2 ^ g.cplLog2)) → t = s.setRing r { g with err := 3, st := .disabled }) ∧
           (¬ bad g.cmdBase (128 * 2 ^ g.cmdLog2) → ¬ bad g.cplBase (32 * 2 ^ g.cplLog2) →
             ((g.loc = 3 ∨ g.reserved ≠ 0) → t = s.setRing r { g with err := 4, st := .disabled }) ∧
             (g.loc ≠ 3 → g.reserved = 0 →
               t = s.setRing r { g with head := 0, tail := 0, cplTail := 0, cplHead := 0, err := 0, st := .running, en := true
                                        grid := {}, failed := [], seen := 0 })))))) ∧
  (∀ (r : Nat) (cb : BitVec 512) (s : State), r < 512 →
     ((s.ring r).en = true →
       exec (.ringEnable r cb) s
         = .next (s.setRing r { s.ring r with irqPort := field cb.toNat 33 32, irqEn := bitOf cb.toNat 20 }) ∧
       exec (.ringDisable r cb) s
         = .next (s.setRing r { s.ring r with irqPort := field cb.toNat 33 32, irqEn := bitOf cb.toNat 20, en := false, st := .draining })) ∧
     ((s.ring r).en = false →
       let g : Ring :=
         { s.ring r with
           cmdBase := field cb.toNat 511 448, cplBase := field cb.toNat 447 384, irqPort := field cb.toNat 33 32, msix := field cb.toNat 31 21
           irqEn := bitOf cb.toNat 20, loc := field cb.toNat 19 18, cplLog2 := field cb.toNat 17 13, cmdLog2 := field cb.toNat 12 8
           reserved := 2 * field cb.toNat 255 34 + field cb.toNat 1 1 }
       exec (.ringDisable r cb) s = .next (s.setRing r (if (s.ring r).st = .error then { g with st := .draining } else g))) ∧
     ((s.ring r).st = .draining →
       ((∀ c ∈ s.cmds, c.r ≠ r) → exec (.ringDrainDone r) s = .next (s.setRing r { s.ring r with st := .disabled })) ∧
       ((∃ c ∈ s.cmds, c.r = r) → exec (.ringDrainDone r) s = .next s)))

/-- R354, R355, R357: a RUNNING ring that may take its next entry takes it from package or host memory: HEAD advances, and the command has
the entry's 128 bytes and the ring's grid; it waits for its start, or has ended with the first header check that fails. A fetch that
cannot be made sends the ring to ERROR with cause 7. -/
def Obligations.EntryIsTakenWithItsHeaderChecked : Prop :=
  ∀ (r : Nat) (s : State), r < 512 → (s.ring r).st = .running → (s.ring r).loc ≤ 2 → (s.ring r).head ≠ (s.ring r).tail →
    (((s.ring r).head : Int) - (s.ring r).cplTail) % 2 ^ 32 < 256 →
    (((s.ring r).head : Int) - (s.ring r).cplHead) % 2 ^ 32 < 2 ^ (s.ring r).cplLog2 →
    let a := (s.ring r).cmdBase + 128 * ((s.ring r).head % 2 ^ (s.ring r).cmdLog2)
    let h := (s.ring r).loc - 1
    (((s.ring r).loc = 0 ∧ s.clearingIn (memKey a) 128 = false ∧ (s.foreign a = true ∨ s.powered a = false) ∧ s.badIn (memKey a) 128 = none
        ∨ (s.ring r).loc ≠ 0 ∧ (s.portUp h = false ∨ s.hostBadIn h a 128 ≠ none)) →
      exec (.entryTake r) s = .next ((s.setRing r { s.ring r with err := 7, st := .error }).setBit 0x4300 (r / 128 + 1) 4)) ∧
    (((s.ring r).loc = 0 ∧ s.clearingIn (memKey a) 128 = false ∧ s.foreign a = false ∧ s.powered a = true ∧ s.badIn (memKey a) 128 = none
        ∨ (s.ring r).loc ≠ 0 ∧ s.portUp h = true ∧ s.hostBadIn h a 128 = none) →
    ∃ c : Cmd,
      exec (.entryTake r) s = .next
        { s.setRing r { s.ring r with head := ((s.ring r).head + 1) % 2 ^ 32, seen := min 255 ((s.ring r).seen + 1) } with
          cmds := s.cmds ++ [c] } ∧
      c.r = r ∧ c.p = (s.ring r).head ∧ c.grid = (s.ring r).grid ∧ c.flags = 0 ∧ c.result = 0 ∧ c.cut = [] ∧
      c.entry = BitVec.ofNat 1024 (if (s.ring r).loc = 0 then Mem.readNat s.mem (memKey a) 128 else Mem.readNat (s.hostMem h) a 128) ∧
      c.phase = (if c.err = none then .taken else .ended) ∧
      let e := c.entry.toNat
      c.err.map (·.code) =
        if e % 256 ∉ [0x01, 0x02, 0x10, 0x11, 0x12, 0x20, 0x21, 0x22, 0x23, 0x24, 0x30, 0x31, 0x32, 0x33, 0x34, 0x40, 0x41, 0x42, 0x50, 0x51,
          0x52, 0x60, 0x61] then some 0x0108
        else if bitOf e 8 = true ∨ field e 15 12 ≠ 0 ∨ field e 191 19 ≠ 0 then some 0x0101
        else if field e 18 16 ≠ r / 64 then some 0x0116
        else if (List.range 4).any (fun i => (s.ring r).seen < field e (199 + 8 * i) (192 + 8 * i)) then some 0x0115
        else none)

/-- R357, R364: a taken command whose dependencies, fence and grid allow it starts when its body's validation finds nothing, with DEP_ERR when
an entry it depends on ended in error; it ends with the validation's first code otherwise, and with 0x0117 when SKIP_ON_ERR is set and
such an entry failed. Nothing else changes, unless a lost input is logged. Where the image or chain block that the validation reads is being
cleared or filled, the start waits (R271, R280). -/
def Obligations.CommandStartValidatesTheBody : Prop :=
  ∀ (r p : Nat) (c : Cmd) (s : State), r < 512 → s.cmd r p = some c → c.phase = .taken → s.mayStart c = true →
    let dep := ∃ q ∈ c.deps, q ∈ (s.ring r).failed
    let skip := dep ∧ bitOf c.entry.toNat 11 = true
    (skip → exec (.commandStart r p) s
      = .next (s.updCmd r p fun d => { d with err := some (d.err.getD { code := 0x0117 }), phase := .ended })) ∧
    (¬ skip → s.startWaits c = true → exec (.commandStart r p) s = .next s) ∧
    (¬ skip → s.startWaits c = false →
    (∀ e, s.validate c = some e → e.code ≠ 0x0701 → exec (.commandStart r p) s
      = .next (s.updCmd r p fun d => { d with err := some (d.err.getD e), phase := .ended })) ∧
    (∀ e, s.validate c = some e → e.code = 0x0701 → ∃ t, exec (.commandStart r p) s = .next t ∧
      (t.cmd r p).map (fun d => (d.phase, d.err)) = some (.ended, some (c.err.getD e)) ∧ t.mem = s.mem) ∧
    (s.validate c = none → dep → exec (.commandStart r p) s
      = .next (s.updCmd r p fun d => { d with phase := .started, flags := d.flags ||| 2 ^ 14 })) ∧
    (s.validate c = none → ¬ dep → exec (.commandStart r p) s
      = .next (s.updCmd r p fun d => { d with phase := .started, flags := d.flags ||| 0 })))

/-- R365, R366, R348: the completion record of a command that has ended, or whose op or copy is done, stands in its slot in package or host
memory, CPL_TAIL counts it, and the command is no longer outstanding; no byte outside the slot changes. A record for a host port that was
reset since the command was taken is discarded, and 0x5314 counts it; CPL_TAIL advances all the same (DEDUCED, log 96). A record for a slot
of package memory that is no memory of the package, or is OFF or STARTING, is discarded too (DEDUCED, log 210). R369: after a written record
with IRQ of a ring with IRQ_EN = 1, vector MSIX of the partition's function goes out on each host port that IRQ_PORT names (0: the port of
the ring's records, port 0 for package memory) and that is up; a vector masked in the MSI-X table, or of a function in D3hot, sets its PBA
bit (PRESUMED, log 161). -/
def Obligations.CompletionRecordIsWritten : Prop :=
  (∀ (r p : Nat) (c : Cmd) (s : State), r < 512 → s.cmd r p = some c → s.memWf = true → (s.ring r).loc ≤ 2 →
     (c.phase = .ended ∧ s.onTheWay r p = false
       ∨ c.phase = .running ∧ s.op r p = none ∧ c.opcode ∈ [0x23, 0x30] ∧ s.onTheWay r p = false
       ∨ c.phase = .running ∧ ∃ o, s.op r p = some o ∧ s.abandoned o = false ∧ s.opDone c o = true ∧ s.askMerge c o = none) →
     let g := s.ring r
     let a := g.cplBase + 32 * (g.cplTail % 2 ^ g.cplLog2)
     let h := g.loc - 1
     let rec_ :=
       c.entry.toNat % 2 ^ 8 + 2 ^ 8 * (if g.cplTail / 2 ^ g.cplLog2 % 2 = 0 then 1 else 0) + 2 ^ 16 * (p % 2 ^ 16)
         + 2 ^ 32 * (c.entry.toNat / 2 ^ 224 % 2 ^ 32) + 2 ^ 64 * (c.flags % 2 ^ 32)
         + 2 ^ 96 * ((c.err.map (·.code)).getD 0 % 2 ^ 16) + 2 ^ 116 * ((c.err.map (·.dkind)).getD 0 % 2 ^ 4)
         + 2 ^ 120 * ((c.err.map (·.detail)).getD 0 % 2 ^ 72) + 2 ^ 192 * (c.result % 2 ^ 64)
     (g.loc = 0 → s.clearingIn (memKey a) 32 = false) →
     ∃ t, exec (.commandComplete r p) s = .next t ∧
       (g.loc = 0 → s.accessErr a 32 none ≠ none → t.mem = s.mem ∧ t.host0 = s.host0 ∧ t.host1 = s.host1) ∧
       (g.loc = 0 → s.accessErr a 32 none = none → Mem.readNat t.mem (memKey a) 32 = rec_ ∧ t.host0 = s.host0 ∧ t.host1 = s.host1 ∧
         ∀ x, x < memKey a ∨ memKey a + 32 ≤ x → Mem.read t.mem x = Mem.read s.mem x) ∧
       (g.loc ≠ 0 → t.mem = s.mem ∧ t.hostMem (1 - h) = s.hostMem (1 - h) ∧
         (s.portCut r p h = false → Mem.readNat (t.hostMem h) a 32 = rec_ ∧
           ∀ x, x < a ∨ a + 32 ≤ x → Mem.read (t.hostMem h) x = Mem.read (s.hostMem h) x) ∧
         (s.portCut r p h = true → t.hostMem h = s.hostMem h ∧
           t.odGet 0x5314 (r / 128 + 1) = (s.odGet 0x5314 (r / 128 + 1) + 1) % 2 ^ 64)) ∧
       (t.ring r).cplTail = (g.cplTail + 1) % 2 ^ 32 ∧ (t.ring r).st = g.st ∧ (∀ q, q ≠ r → t.ring q = s.ring q) ∧
       t.cmd r p = none ∧ t.op r p = none ∧ (∀ d ∈ s.cmds, ¬ (d.r = r ∧ d.p = p) → d ∈ t.cmds) ∧
       (s.op r p = none → (g.irqEn && bitOf c.entry.toNat 10) = false → (g.loc = 0 → s.badIn (memKey a) 32 = none) →
         t.msix = s.msix ∧ t.pba = s.pba)) ∧
  (∀ (r p : Nat) (c : Cmd) (s : State), r < 512 → s.cmd r p = some c → c.phase = .ended → s.onTheWay r p = false → s.op r p = none →
     let g := s.ring r
     g.irqEn = true → bitOf c.entry.toNat 10 = true → g.irqPort ≤ 3 →
     let a := g.cplBase + 32 * (g.cplTail % 2 ^ g.cplLog2)
     (g.loc = 0 ∧ s.clearingIn (memKey a) 32 = false ∧ s.accessErr a 32 none = none ∧ s.badIn (memKey a) 32 = none
       ∨ (g.loc = 1 ∨ g.loc = 2) ∧ s.portCut r p (g.loc - 1) = false) →
     let ports : List Nat := if g.irqPort = 3 then [0, 1] else if g.irqPort = 2 ∨ g.irqPort = 0 ∧ g.loc = 2 then [1] else [0]
     let xs : List Irq := (ports.filter fun h => s.fnState .host h == 2).map fun h => ⟨h, r / 64 + 1, g.msix⟩
     let held (x : Irq) : Bool :=
       (AMap.getD s.msixTable ((16 * x.port + x.pf) * 2048 + x.vector) 0).getLsbD 96 || (AMap.getD s.hostFns (16 * x.port + x.pf) {}).d3hot
     ∃ t, exec (.commandComplete r p) s = .next t ∧ t.msix = s.msix ++ xs.filter (fun x => !held x) ∧
       (∀ x ∈ xs, held x = true → x ∈ t.pba) ∧ (∀ y ∈ s.pba, y ∈ t.pba))

-- ## Descriptors (03)

/-- R44, R57, R58: a TD_CREATE whose checks pass takes an entry that was free on the die it names, and its result is the handle of die,
generation and index; with no entry free it ends with 0x0801, and with a failing check it ends with that check and takes no entry. It waits
while its image lies in memory that is being cleared. R59: a TD_DESTROY of a handle that its partition holds sends the entry to the dying
state and waits; it completes, and the entry is free, once no outstanding command that has started uses the handle, in its body or chain;
one that only a scatter context names is not counted (DESIGN CHOICE, log 179). -/
def Obligations.DescriptorsAreCreatedAndDestroyed : Prop :=
  (∀ (r p : Nat) (c : Cmd) (s : State), s.Holds r p .started 0x01 c →
     let die := field c.entry.toNat 321 320
     let a := memKey (field c.entry.toNat 319 256)
     let img := Mem.readNat s.mem a 128
     (s.tdWaits c = true → exec (.tdCreate r p) s = .next s) ∧
     (s.tdWaits c = false → s.tdCreateErr c = none →
       (∃ i, i < 65536 ∧ (s.tdEntry (die * 65536 + i)).st = .free) →
       ∃ i, i < 65536 ∧ (s.tdEntry (die * 65536 + i)).st = .free ∧
         let old := s.tdEntry (die * 65536 + i)
         let first := die = 0 ∧ i = 0
         let gen := if old.used = true then (if first then old.gen % 3 + 1 else (old.gen + 1) % 4) else if first then 1 else 0
         let new : TdEntry :=
           { st := .live, gen := gen, used := true, part := r / 64, image := BitVec.ofNat 1024 (setField img 28 26 (r / 64))
             ext := if bitOf img 18 = true then BitVec.ofNat 512 (Mem.readNat s.mem (a + 128) 64) else 0, bad := false }
         exec (.tdCreate r p) s = .next
           ((({ s with td := AMap.set s.td (die * 65536 + i) new, freeCtr := s.freeCtr + 1 } : State).updCmd r p fun d =>
             { d with phase := .ended, result := 2 ^ 18 * die + 2 ^ 16 * gen + i }))) ∧
     (s.tdWaits c = false → s.tdCreateErr c = none → (∀ i, i < 65536 → (s.tdEntry (die * 65536 + i)).st ≠ .free) →
       exec (.tdCreate r p) s = .next (s.updCmd r p fun d => { d with err := some (d.err.getD { code := 0x0801 }), phase := .ended })) ∧
     (s.tdWaits c = false → ∀ e, s.tdCreateErr c = some e →
       exec (.tdCreate r p) s = .next (s.updCmd r p fun d => { d with err := some (d.err.getD e), phase := .ended }))) ∧
  (∀ (r p : Nat) (c : Cmd) (s : State),
     let h := field c.entry.toNat 275 256
     let i := field h 19 18 * 65536 + h % 65536
     (s.Holds r p .started 0x02 c → field c.entry.toNat 1023 276 = 0 →
       ((h ≠ 0 ∧ (s.tdEntry i).st = .live ∧ (s.tdEntry i).gen = field h 17 16 ∧ (s.tdEntry i).part = r / 64) →
         exec (.tdDestroy r p) s = .next
           (({ s with td := AMap.set s.td i { s.tdEntry i with st := .dying } } : State).updCmd r p fun d => { d with phase := .running })) ∧
       (¬ (h ≠ 0 ∧ (s.tdEntry i).st = .live ∧ (s.tdEntry i).gen = field h 17 16 ∧ (s.tdEntry i).part = r / 64) →
         exec (.tdDestroy r p) s = .next (s.updCmd r p fun d =>
           { d with err := some (d.err.getD { code := 0x0106, dkind := 7, detail := 256 }), phase := .ended }))) ∧
     (s.Holds r p .running 0x02 c →
       (s.handleUsed h = true → exec (.tdDestroyDone r p) s = .next s) ∧
       (s.handleUsed h = false →
         exec (.tdDestroyDone r p) s = .next
           (({ s with td := AMap.set s.td i { s.tdEntry i with st := .free, bad := false } } : State).updCmd r p fun d =>
             { d with phase := .ended, result := 0 }))))

-- ## Work distribution (11)

/-- R247 to R249: a WORK_GRID is refused with 0x0114 at its start in the cases of R249. One that has started gives its ring the grid of its body,
and so every command of the ring that was taken after it and has not started; where a core of its grid has meanwhile lost its number it ends
with 0x0807 (R11). A refused one leaves the ring's grid unchanged. -/
def Obligations.WorkGridReplacesTheRingsGrid : Prop :=
  ∀ (r p : Nat) (c : Cmd) (s : State), p < 2 ^ 32 →
    let e := c.entry.toNat
    let g : Grid :=
      { cores := field e 511 384, gm := field e 383 376, gn := field e 375 368, steal := field e 367 366, order := field e 365 365
        cool := bitOf e 364 }
    let inGrid (k : Nat) : Bool :=
      if g.cores = 0 then s.assigned k && s.regionPart (k / 8) == some (r / 64) else bitOf g.cores k
    let refused : Prop :=
      field e 363 256 ≠ 0 ∨ field e 1023 512 ≠ 0
        ∨ (∃ k, k < 128 ∧ bitOf g.cores k = true ∧ (s.assigned k = false ∨ s.regionPart (k / 8) ≠ some (r / 64)))
        ∨ 128 < g.gm ∨ 128 < g.gn ∨ (g.gm ≠ 0 ∧ g.gn ≠ 0 ∧ ((List.range 128).filter inGrid).length < g.gm * g.gn)
    (s.Holds r p .taken 0x40 c → s.mayStart c = true → (∀ q ∈ c.deps, q ∉ (s.ring r).failed) →
      (refused → ∃ x : Err, x.code = 0x0114 ∧
        exec (.commandStart r p) s = .next (s.updCmd r p fun d => { d with err := some (d.err.getD x), phase := .ended })) ∧
      (¬ refused → exec (.commandStart r p) s = .next (s.updCmd r p fun d => { d with phase := .started, flags := d.flags ||| 0 }))) ∧
    (s.Holds r p .started 0x40 c → refused →
      exec (.workGrid r p) s = .next (s.updCmd r p fun d => { d with err := some (d.err.getD { code := 0x0807 }), phase := .ended })) ∧
    (s.Holds r p .started 0x40 c → ¬ refused → exec (.workGrid r p) s = .next
      (({ s with
          rings := AMap.set s.rings r { s.ring r with grid := g }
          cmds := s.cmds.map fun d =>
            if d.r = r ∧ d.phase = .taken ∧ d.p ≠ p ∧ ((d.p : Int) - p) % 2 ^ 32 < 2 ^ 31 then { d with grid := g } else d } : State).updCmd r p
        fun d => { d with phase := .ended, result := 0 }))

/-- R250, R251: a MATMUL or BAROMETER with PIN = 0 whose inputs no scoreboard stalls, and whose chain names no held or lost Almanac entry,
begins its op: T_M × T_N tiles over GM × GN home blocks of the grid's cores, banded along M and N. A MATMUL with PIN = 1 begins one block on
its core. With no assigned core, or with its own core OFF, it ends with 0x0807, and with the error of a chain block that cannot be read. While
its chain block is being cleared or filled it waits (R271, R280). Beside the op and the command's phase only scoreboards and what the chain's Almanac entries record of a lost value change. -/
def Obligations.MatrixOpsBeginOnTheirGrid : Prop :=
  ∀ (r p : Nat) (c : Cmd) (s : State) (i : Instr),
    ((i = .matmul r p ∧ s.Holds r p .started 0x10 c) ∨ (i = .barometer r p ∧ s.Holds r p .started 0x11 c)) →
    let block := if c.hasChain then s.chainAt (c.f 191 128) else 0
    let ch := if c.hasChain then Chain.of block else Chain.none_ 0
    let s₁ := (s.holdInputs r p (s.mmInputs c ch)).1.touchChain (field c.hC 19 18) ch
    let cores := s.gridCores (r / 64) c.grid.cores
    let tM := s.mTM c
    let tN := s.mTN c
    let gm := if c.grid.gm ≠ 0 then c.grid.gm else min tM cores.length
    let gn := if c.grid.gn ≠ 0 then c.grid.gn else max 1 (min tN (cores.length / gm))
    (c.hasChain = true → s.chainWaits c = true → exec i s = .next s) ∧
    ((c.hasChain = true → s.chainWaits c = false) →
    (∀ e, c.hasChain = true → s.chainLost (c.f 191 128) = some e →
      exec i s = .next (s.updCmd r p fun d => { d with err := some (d.err.getD e), phase := .ended })) ∧
    ((c.hasChain = true → s.chainLost (c.f 191 128) = none) →
    (s.holdInputs r p (s.mmInputs c ch)).2 = true → s₁.almHeld (field c.hC 19 18) ch = false → s₁.almLost (field c.hC 19 18) ch = none →
    (c.pin = false → (∃ k ∈ cores, s.assigned k = true) →
      ∃ o : Op, exec i s = .next (({ s₁ with ops := s₁.ops ++ [o] } : State).updCmd r p fun d => { d with phase := .running }) ∧
        o.r = r ∧ o.p = p ∧ o.cores = cores ∧ o.gm = gm ∧ o.gn = gn ∧ o.tM = tM ∧ o.tN = tN ∧ o.pinned = none ∧ o.landed = 0 ∧
        o.chain = block ∧ o.blocks.length = gm * gn ∧
        ∀ g, g < gm * gn → ∃ b, o.blocks[g]? = some b ∧ b.g = g ∧ b.ctr = none ∧ b.next = 0 ∧ b.reissue = [] ∧
          b.region = cores.getD (g % cores.length) 0 / 8 ∧
          b.size = ((g % gm + 1) * tM / gm - g % gm * tM / gm) * ((g / gm + 1) * tN / gn - g / gm * tN / gn)) ∧
    (c.pin = false → (∀ k ∈ cores, s.assigned k = false) →
      exec i s = .next (s₁.updCmd r p fun d => { d with err := some (d.err.getD { code := 0x0807 }), phase := .ended })) ∧
    (c.pin = true → (s.assigned c.pinCore = false ∨ s.coreOff c.pinCore = true) →
      exec i s = .next (s₁.updCmd r p fun d => { d with err := some (d.err.getD { code := 0x0807 }), phase := .ended })) ∧
    (c.pin = true → s.assigned c.pinCore = true → s.coreOff c.pinCore = false →
      ∃ o : Op, exec i s = .next (({ s₁ with ops := s₁.ops ++ [o] } : State).updCmd r p fun d => { d with phase := .running }) ∧
        o.r = r ∧ o.p = p ∧ o.cores = [c.pinCore] ∧ o.pinned = some c.pinCore ∧ o.tM = tM ∧ o.tN = tN ∧ o.chain = block ∧
        o.blocks = [{ g := 0, region := c.pinCore / 8, size := tM * tN }])))

/-- R252, R253: VCHAIN, GATHER, SCATTER, SCATTER_ADD and COMPRESS_STORE, started on a grid with an assigned core and stalled by nothing, begin an
op whose U units form one sequence in GM × GN contiguous blocks; with no assigned core it ends with 0x0807. (T_M = U and T_N = 1 is the model's
reading, log 18.) A VCHAIN waits while its chain block is being cleared or filled (R271, R280). -/
def Obligations.SequenceOpsBeginOnTheirGrid : Prop :=
  (∀ (r p core : Nat) (c : Cmd) (s : State), core < 128 → s.Holds r p .started 0x12 c → s.chainWaits c = true →
      exec (.vchain r p core) s = .next s) ∧
  ∀ (r p core units : Nat) (c : Cmd) (s s₁ : State) (i : Instr), core < 128 →
    ((i = .vchain r p core ∧ s.Holds r p .started 0x12 c ∧
        let ch := Chain.of (s.chainAt c.vChain)
        let die := field c.vDst 19 18
        s.chainWaits c = false ∧ s.chainLost c.vChain = none ∧ s₁ = (s.holdInputs r p (s.vInputs c ch)).1.touchChain die ch ∧ (s.holdInputs r p (s.vInputs c ch)).2 = true ∧
        s₁.almHeld die ch = false ∧ s₁.almLost die ch = none ∧ units = vUnits ch (s.vSpace c ch))
      ∨ (((i = .gather r p core ∧ s.Holds r p .started 0x20 c) ∨ (i = .scatter r p core ∧ s.Holds r p .started 0x21 c)
            ∨ (i = .scatterAdd r p core ∧ s.Holds r p .started 0x22 c)) ∧ c.mergeOnly = false ∧
          s₁ = (s.holdInputs r p (s.gInputs c)).1 ∧ (s.holdInputs r p (s.gInputs c)).2 = true ∧
          units = ((tdDesc s c.gIdx).viewExt 0 + 1023) / 1024)
      ∨ (i = .scatterAdd r p core ∧ s.Holds r p .started 0x22 c ∧ c.mergeOnly = true ∧ s₁ = s ∧ units = 0)
      ∨ (i = .compressStore r p core ∧ s.Holds r p .started 0x24 c ∧
          s₁ = (s.holdInputs r p [tdDesc s c.csSrc]).1 ∧ (s.holdInputs r p [tdDesc s c.csSrc]).2 = true ∧
          units = product (tdDesc s c.csDst).tileGrid)) →
    (s.op r p = none) →
    ((∀ k ∈ s.gridCores (r / 64) c.grid.cores, s.assigned k = false) →
      exec i s = .next (s₁.updCmd r p fun d => { d with err := some (d.err.getD { code := 0x0807 }), phase := .ended })) ∧
    ((∃ k ∈ s.gridCores (r / 64) c.grid.cores, s.assigned k = true) →
    let cores := s.gridCores (r / 64) c.grid.cores
    let gm := if c.grid.gm ≠ 0 then c.grid.gm else min units cores.length
    let gn := if c.grid.gn ≠ 0 then c.grid.gn else max 1 (min 1 (cores.length / gm))
    ∃ o : Op, exec i s = .next (({ s₁ with ops := s₁.ops ++ [o] } : State).updCmd r p fun d => { d with phase := .running }) ∧
      o.r = r ∧ o.p = p ∧ o.cores = cores ∧ o.gm = gm ∧ o.gn = gn ∧ o.tM = units ∧ o.seq = true ∧ o.pinned = none ∧
      o.blocks.length = gm * gn ∧
      ∀ g, g < gm * gn → ∃ b, o.blocks[g]? = some b ∧ b.g = g ∧ b.ctr = none ∧ b.next = 0 ∧ b.reissue = [] ∧
        b.size = (g + 1) * units / (gm * gn) - g * units / (gm * gn))

/-- R253: a home block of a running op without a counter gets one of its region's counters that no block holds. R147, R149, R150: a held
tile of a running op without PIN starts in a range of its own, aligned to its size, under an identifier of its own, whenever a range and an
identifier are free and no replayed tile waits on its core. -/
def Obligations.CountersAndRangesAreTakenApart : Prop :=
  (∀ (r p g : Nat) (o : Op) (b : Block) (s : State), r < 512 → s.op r p = some o → o.pinned = none →
     (o.blocks.find? fun x => x.g == g) = some b → b.ctr = none → b.lost = false →
     (∃ i, i < 4096 ∧ (b.region, i) ∉ s.counters) →
     ∃ i, i < 4096 ∧ (b.region, i) ∉ s.counters ∧
       exec (.workCounterAlloc r p g) s = .next
         ({ s with
             counters := s.counters ++ [(b.region, i)]
             ops := s.ops.map fun x =>
               if x.r = r ∧ x.p = p then { x with blocks := x.blocks.map fun y => if y.g = g then { y with ctr := some i } else y } else x
             freeCtr := s.freeCtr + 1 } : State)) ∧
  (∀ (core r p : Nat) (c : Cmd) (u : WorkUnit) (s : State), core < 128 → r < 512 → s.cmd r p = some c → c.phase = .running →
     (c.opcode = 0x10 ∨ c.opcode = 0x11) → s.coreRuns core = true → c.pin = false → (s.core core).nextHeld r p = some u → u.contribs = [] →
     (s.core core).replayWaits u = false →
     let n := rangeBits c.mode c.shape
     let busy (w : WorkUnit) : Prop := w ∈ (s.core core).units ∧ w.active = true
     (∃ i, i < 256 / n ∧ ∀ w, busy w → w.lo + w.bits ≤ i * n ∨ i * n + n ≤ w.lo) → (∃ a, a < 32 ∧ ∀ w, busy w → w.atid ≠ a) →
     ∃ (t : State) (v : WorkUnit), exec (.accRangeAlloc core r p) s = .next t ∧ t.unit core u.id = some v ∧ v.st = .open_ ∧ v.mode = c.mode ∧
       v.shape = c.shape ∧ v.nextK = 0 ∧ v.ci = 0 ∧ v.contribs = [(c.r, c.p, c.entry)] ∧ v.lo % n = 0 ∧ v.lo + n ≤ 256 ∧ v.atid < 32 ∧
       (∀ w, busy w → (w.lo + w.bits ≤ v.lo ∨ v.lo + n ≤ w.lo) ∧ w.atid ≠ v.atid) ∧ t.mem = s.mem ∧ t.tickets = s.tickets)

/-- R263, R264: an array op's share on an ON core of its grid is the first of the eight, in the order of R264, that fits the staging that is free;
with none that fits nothing changes. -/
def Obligations.StagingShareIsTheFirstThatFits : Prop :=
  ∀ (core r p : Nat) (c : Cmd) (o : Op) (s : State), core < 128 → r < 512 → s.cmd r p = some c → c.phase = .running → s.op r p = some o →
    o.seq = false → core ∈ o.cores → s.coreOn core = true → (∀ h ∈ (s.core core).shares, ¬ (h.r = r ∧ h.p = p)) →
    let fa := (s.stagedFmts c).1
    let fb := (s.stagedFmts c).2
    let tile (f q : Nat) : Nat := q * q * elemBits f / 8 + (if isScaled f then q * q / 32 else 0)
    let need (q d : Nat) : Nat :=
      d * ((if c.shape = 2 then 2 else 1) * tile fa q + (if c.shape = 1 then 2 else 1) * tile fb q)
    let fits (x : Nat × Nat) : Bool := decide ((need x.1 x.2 + 255) / 256 ≤ (s.core core).stagingFree)
    ∀ x, [(128, 2), (128, 1), (64, 2), (64, 1), (32, 2), (32, 1), (16, 2), (16, 1)].find? fits = x →
      (x = none → exec (.stagingShareAlloc core r p) s = .next s) ∧
      ∀ q d, x = some (q, d) → exec (.stagingShareAlloc core r p) s = .next
        (s.setCore core { s.core core with
          shares := (s.core core).shares ++ [{ r := r, p := p, s := q, d := d, units := (need q d + 255) / 256 }] })

/-- R251, R254, R257, R258: a core that may claim takes an index of its own block, the oldest one a fence returned before a new one: the
ticket names region, counter, index and epoch, it joins the region's list of the core, and the unit waits on the core. A new index has the
block's base as its epoch, 0 at the op's first issue (DESIGN CHOICE, log 157). R247, R151: the core of a pinned op takes its next tile in
order, without a ticket. -/
def Obligations.CoresClaimTilesInOrder : Prop :=
  (∀ (core r p g j ep : Nat) (o : Op) (b b' : Block) (s : State), core < 128 → r < 512 → s.runningOp r p = some o →
     o.pinned = none → s.mayClaim core o = true → (r, p) ∉ (s.core core).stealHold → o.homeOf core = some g →
     (o.blocks.find? fun x => x.g == g) = some b → b.lost = false → b.bad = false →
     ((∃ rest, b.reissue = (j, ep) :: rest ∧ b' = { b with reissue := rest })
       ∨ (b.reissue = [] ∧ j = b.next ∧ ep = b.base ∧ b.next < b.size ∧ b' = { b with next := b.next + 1 })) →
     ∃ (t : State) (k : Ticket), exec (.tileClaim core r p) s = .next t ∧
       k.toNat = j % 2 ^ 48 + 2 ^ 48 * (b.ctr.getD 0 % 2 ^ 12) + 2 ^ 60 * (b.region % 2 ^ 4) + 2 ^ 64 * (ep % 2 ^ 8) ∧
       t.tickets = s.tickets ++ [(core, (s.core core).nextId, k)] ∧
       t.core core = { s.core core with
         units := (s.core core).units ++
           [{ id := (s.core core).nextId, r := r, p := p, g := g, index := o.unitOf g j, ticket := some k }]
         nextId := (s.core core).nextId + 1 } ∧
       (∀ q, q ≠ core → t.core q = s.core q) ∧
       t.ops = (s.ops.map fun x =>
         if x.r = r ∧ x.p = p then { x with blocks := x.blocks.map fun y => if y.g = g then b' else y } else x) ∧
       t.odGet 0x5130 (core + 1) = (s.odGet 0x5130 (core + 1) + 1) % 2 ^ 64 ∧
       (∀ x y, x * 256 + y ≠ 0x5130 * 256 + core + 1 → AMap.find t.od (x * 256 + y) = AMap.find s.od (x * 256 + y)) ∧
       { t with tickets := s.tickets, cores := s.cores, ops := s.ops, od := s.od } = s) ∧
  (∀ (core r p : Nat) (o : Op) (b : Block) (s : State), core < 128 → r < 512 → s.runningOp r p = some o → o.pinned = some core →
     o.blocks = [b] → s.mayClaim core o = true → (r, p) ∉ (s.core core).stealHold → b.next < b.size →
     exec (.tileClaim core r p) s = .next
       { s.setCore core { s.core core with
           units := (s.core core).units ++ [{ id := (s.core core).nextId, r := r, p := p, index := b.next }]
           nextId := (s.core core).nextId + 1 } with
         ops := s.ops.map fun x =>
           if x.r = r ∧ x.p = p then { x with blocks := x.blocks.map fun y => if y.g = b.g then { y with next := y.next + 1 } else y } else x })

/-- R255: with COOL = 1 a core of a hot region that finds nothing in its own block first waits, and the wait's cycles are counted; when it
expires the core takes the next index of the first block it may steal from. One wait covers one search of the blocks (DEDUCED, log 19); the
stolen index's ticket has the block's base as its epoch (DESIGN CHOICE, log 157). -/
def Obligations.HotCoreWaitsThenSteals : Prop :=
  ∀ (core r p : Nat) (o : Op) (s : State), core < 128 → r < 512 → s.runningOp r p = some o → o.pinned = none →
    s.mayClaim core o = true →
    ((r, p) ∉ (s.core core).stealHold → s.stealOrder o core ≠ [] → o.grid.cool = true → s.stealHot core = true → ∀ s₁ : State,
      ((o.homeOf core = none ∧ s₁ = s)
        ∨ (∃ g b, o.homeOf core = some g ∧ (o.blocks.find? fun x => x.g == g) = some b ∧ b.lost = true ∧ s₁ = s)
        ∨ ∃ g b, o.homeOf core = some g ∧ (o.blocks.find? fun x => x.g == g) = some b ∧ b.lost = false ∧ b.bad = false ∧ b.reissue = [] ∧
            b.size ≤ b.next ∧
            s₁ = { s with ops := s.ops.map fun x =>
              if x.r = r ∧ x.p = p then
                { x with blocks := x.blocks.map fun y => if y.g = g then { b with next := b.next + 1 } else y } else x }) →
      exec (.tileClaim core r p) s = .next
        ((s₁.setCore core { s.core core with stealHold := (s.core core).stealHold ++ [(r, p)] }).odSet 0x5132 (core + 1)
          ((s.odGet 0x5132 (core + 1)
            + s.odGet 0x3121 (core / 8 + 1) * s.regionMHz (core / 8) / 10) % 2 ^ 64))) ∧
    ((r, p) ∈ (s.core core).stealHold → ∀ g gs b, s.stealOrder o core = g :: gs → (o.blocks.find? fun x => x.g == g) = some b →
      b.lost = false → b.bad = false → b.reissue = [] → b.next < b.size →
      ∃ (t : State) (k : Ticket), exec (.stealHoldExpiry core r p) s = .next t ∧
        k.toNat = b.next % 2 ^ 48 + 2 ^ 48 * (b.ctr.getD 0 % 2 ^ 12) + 2 ^ 60 * (b.region % 2 ^ 4)
          + 2 ^ 64 * (b.base % 2 ^ 8) ∧
        t.tickets = s.tickets ++ [(core, (s.core core).nextId, k)] ∧
        (t.core core).stealHold = (s.core core).stealHold.filter (fun x => x ≠ (r, p)) ∧
        (t.core core).units = (s.core core).units ++
          [{ id := (s.core core).nextId, r := r, p := p, g := g, index := o.unitOf g b.next, ticket := some k }] ∧
        t.odGet 0x5131 (core + 1) = (s.odGet 0x5131 (core + 1) + 1) % 2 ^ 64 ∧ t.mem = s.mem ∧ t.cmds = s.cmds)

-- ## The matrix array (05, 07, 09)

/-- R96, R101, R139, R142: the K step of an open one-slot tile of an op in sum mode adds, into the accumulator of each array row and
column, the products of the two operand rows, in K order (log 47, DEDUCED: R140 gives no order), each sum rounded to nearest even and saturating,
and a product beyond the largest finite value saturates a finite accumulator in its own sign, whatever it held (R142; DEDUCED, log 198);
a skipped step adds nothing. The step counts, the last one of the last contributor finishes the tile, and no byte of memory changes. An op that
leaves its tile open earns the tile's flags as it finishes (R84). -/
def Obligations.KStepAddsItsProducts : Prop :=
  ∀ (core unit : Nat) (u : WorkUnit) (c : Cmd) (x : StepIn) (d : StepDeal) (s : State), core < 128 → s.unit core unit = some u →
    u.st = .open_ →
    s.coreRuns core = true → u.contributor = some c → c.r = u.r → c.p = u.p → c.actEn = false → c.shape = 0 → c.mode = 0 →
    u.mode = 0 → s.odGet 0x3133 (core + 1) % 2 = 0 → s.stepIn core u c none 0 = .ok x → s.stepDeal core u c [x] = .ok d →
    let f := s.arrayFmts c
    let int := intPair f.1 f.2
    let total : Fmt := if int = true then .int 32 else fp32
    let plus (a : Nat × Bool) (ab : Elem × Elem) : Nat × Bool :=
      let p := Val.mul (ab.1.val f.1) (ab.2.val f.2)
      let cur := decodeVal total a.1
      let r := roundAcc total (if p.beyond total = true ∧ cur.isFin = true then p else Val.add 0 cur p)
      (r.1, a.2 || r.2)
    ∃ (t : State) (v : WorkUnit), exec (.kStep core unit none) s = .next t ∧ t.unit core unit = some v ∧ t.mem = s.mem ∧
      t.tickets = s.tickets ∧ (u.nextK + 1 < s.mTK c ∨ c.ends = true → t.cmds = s.cmds) ∧
      (t.cmds.map fun q => { q with flags := 0 }) = (s.cmds.map fun q => { q with flags := 0 }) ∧
      (t.core core).outq = (s.core core).outq ∧ (∀ k, k ≠ core → t.core k = s.core k) ∧
      (x.route = .skip → v.acc = u.acc ∧ v.chkRow = u.chkRow ∧ v.chkCol = u.chkCol ∧ v.corner = u.corner ∧ v.ran = u.ran) ∧
      v.perm = (if d.fixes = true then some d.perm else u.perm) ∧
      (x.route ≠ .skip → v.ran = u.ran + 1 ∧
        ∀ p q m ra rb, p < 128 → q < 128 → d.perm[p]? = some m → AMap.find x.a m = some ra → AMap.find x.b q = some rb →
          let pairs := ra.filterMap fun ke => (AMap.find rb ke.1).map fun e => (ke.2, e)
          let old := AMap.getD u.acc (128 * p + q) {}
          (pairs = [] → AMap.getD v.acc (128 * p + q) {} = old) ∧
          (pairs ≠ [] → AMap.getD v.acc (128 * p + q) {} =
            { old with tot := (pairs.foldl plus (old.tot, old.sat)).1, sat := (pairs.foldl plus (old.tot, old.sat)).2 })) ∧
      (u.nextK + 1 < s.mTK c → v.st = .open_ ∧ v.nextK = u.nextK + 1 ∧ v.ci = u.ci) ∧
      (s.mTK c ≤ u.nextK + 1 → u.ci + 1 = u.contribs.length → v.st = .finished)

/-- R159, R165: a finished tile whose range in the shadow set is free joins the set, and waits otherwise; while no other tile is open on its
core each such try adds 1 to 0x5118, one stalled cycle (DESIGN CHOICE, log 137). Issue pacing lets a core's activity rise from one window of
32 cycles to the next by STEP / 256 at most, by the fewest idle cycles that do so. R277: a written split of a core's scratchpad takes effect
once the core holds no op, no PUSH and no POP, and not before. -/
def Obligations.SwapPacingAndSplit : Prop :=
  ((∀ (core unit : Nat) (u : WorkUnit) (s : State), core < 128 → s.unit core unit = some u → s.mayEnd u = true →
     let k := s.core core
     let taken := ∃ v ∈ k.units, v.id ∈ k.shadow ∧ u.lo < v.lo + v.bits ∧ v.lo < u.lo + u.bits
     (¬ taken → exec (.tileSwap core unit) s = .next (s.setCore core
       { k with shadow := k.shadow ++ [unit], units := k.units.map fun v => if v.id = unit then { v with st := .shadow, slot := 0 } else v })) ∧
     (taken → (∃ v ∈ k.units, v.st = .open_) → exec (.tileSwap core unit) s = .next s) ∧
     (taken → (∀ v ∈ k.units, v.st ≠ .open_) →
       exec (.tileSwap core unit) s = .next (s.odSet 0x5118 (core + 1) ((s.odGet 0x5118 (core + 1) + 1) % 2 ^ 64)))) ∧
   ∀ (core activity : Nat) (s : State), core < 128 → activity ≤ 594432 →
     let limit := 256 * (s.core core).activity + s.odGet 0x3114 (core + 1) * 594432
     ∃ n a, exec (.pacingWindow core activity) s = .next
         ((s.setCore core { s.core core with activity := a }).odSet 0x5119 (core + 1) ((s.odGet 0x5119 (core + 1) + n) % 2 ^ 64)) ∧
       (256 * activity ≤ limit → a = activity ∧ n = 0) ∧ (limit < 256 * activity → a = limit / 256) ∧ n ≤ 32 ∧
       256 * activity * (32 - n) ≤ 32 * limit ∧ ∀ k, k < n → 32 * limit < 256 * activity * (32 - k)) ∧
  (∀ (core : Nat) (s : State), core < 128 →
     (((s.core core).units = [] ∧ (s.core core).shares = [] ∧ (s.core core).outq = [] ∧ s.holdsMove core = false) →
       exec (.scratchpadSplitApply core) s = .next
         (s.setCore core { s.core core with split := (s.odGet 0x3130 (core + 1), s.odGet 0x3131 (core + 1), s.odGet 0x3132 (core + 1)) })) ∧
     (¬ ((s.core core).units = [] ∧ (s.core core).shares = [] ∧ (s.core core).outq = [] ∧ s.holdsMove core = false) →
       exec (.scratchpadSplitApply core) s = .next s))

/-- R157, R160, R219, R284: the head of the shadow set drains its next slot when no verdict is open and its records fit: they join the outbound
queue in order; a failing check line fails the verdict. After its last slot the tile leaves the shadow set and awaits its verdict. Memory
holds what the conversion of the slot left, a claim of PACKED space at most. The last slot's records are followed by the status word's. -/
def Obligations.DrainedTileAwaitsItsVerdict : Prop :=
  ∀ (core : Nat) (upsets : List Upset) (u : WorkUnit) (c : Cmd) (o : Op) (out : SlotOut) (s : State), core < 128 →
    (s.core core).lastDrained = none → s.coreRuns core = true → ((s.core core).shadow.head?.bind (s.unit core)) = some u →
    u.contribs.getLast?.map contribCmd = some c → s.op u.r u.p = some o →
    let x := s.drainEnv core u c o upsets
    let last : Prop := (if u.shape = 0 then 1 else 2) ≤ u.slot + 1
    let lines := u.lines x.int (s.odGet 0x3113 (core + 1)) upsets u.slot
    s.drainSlot x { u with audited := x.audited && x.seeding.isNone } = .ok out →
    (∀ w : WorkUnit, w.index = u.index → last → ∃ stat, s.statRecs x w = .ok stat ∧ (s.core core).fits (out.recs ++ stat) = true) →
    (¬ last → (s.core core).fits out.recs = true) →
    ∃ t v stat, exec (.tileDrain core upsets) s = .next t ∧ t.mem = out.s.mem ∧ t.tickets = s.tickets ∧ t.cmds = s.cmds ∧
      (t.core core).outq = (s.core core).outq ++
        (out.recs ++ stat).zipIdx.map (fun d =>
          { unit := u.id, r := u.r, p := u.p, ticket := u.ticket, dest := d.1, seq := (s.core core).nextRec + d.2 }) ∧
      t.unit core u.id = some v ∧ v.slot = u.slot + 1 ∧ v.acc = out.u.acc ∧
        (.nonfinite ∈ lines → bitOf v.flags flagNONFINITE = true) ∧ (.excluded ∈ lines → bitOf v.flags flagCHK_EXCL = true) ∧
        (.fail ∈ lines → v.fail = some (out.u.fail.getD { kind := .check })) ∧ (.fail ∉ lines → v.fail = out.u.fail) ∧
        (last → s.statRecs x v = .ok stat ∧ v.st = .drained ∧ (t.core core).lastDrained = some u.id ∧ u.id ∉ (t.core core).shadow) ∧
        (¬ last → stat = [] ∧ v.st = out.u.st ∧ (t.core core).lastDrained = none ∧ (t.core core).shadow = (s.core core).shadow)

/-- R16, R18, R158, R284, R285, R403: a passing verdict of an op outside training releases the unit's records, and the unit ends at once when none is
left in the queue or on its way; the next part of a chunk that has more to commit waits for its turn under the same ticket (log 48, DEDUCED), queued
once however often the part is replayed. A failing one that is the unit's first failure and leaves the core below FENCE_LIM discards its records and starts the unit again with REPLAY 1;
one that reaches FENCE_LIM keeps the unit for the fence, with no replay of its own (R406; DEDUCED, log 128). -/
def Obligations.VerdictReleasesOrReplays : Prop :=
  ∀ (core : Nat) (parity : Bool) (u : WorkUnit) (c : Cmd) (o : Op) (s : State), core < 128 →
    (s.core core).lastDrained.bind (s.unit core) = some u → u.id < (s.core core).nextId → s.cmd u.r u.p = some c → s.op u.r u.p = some o → s.coreRuns core = true →
    ∃ t, exec (.tileVerdict core parity) s = .next t ∧ t.mem = s.mem ∧ (t.core core).lastDrained = none ∧
      ((u.fail = none ∧ parity = false ∧ o.training c = false) →
        let onItsWay := (∃ y ∈ (s.core core).outq, y.unit = u.id) ∨ ∃ x ∈ s.txns, x.core = core ∧ x.unit = some u.id ∧ x.kind = .write
        (t.core core).outq = (s.core core).outq ∧
        (onItsWay → (∃ v, t.unit core u.id = some v ∧ v.st = .released ∧ v.index = u.index ∧ v.ticket = u.ticket) ∧
          (u.isLast = true → t.tickets = s.tickets)) ∧
        (¬ onItsWay → t.unit core u.id = none ∧
          (u.isLast = true → t.tickets = s.tickets.filter fun k => !(k.1 == core && k.2.1 == u.id))) ∧
        (u.isLast = false → u.counted = true → (t.core core).nextId = (s.core core).nextId) ∧
        (u.isLast = false → u.counted = false → (∃ w ∈ (t.core core).units, w.id = (s.core core).nextId ∧ w.st = .held ∧ w.rest = u.rest ∧
            (u.rest ≠ [] → w.part = u.part + 1 ∧ w.sub = u.sub ∧ w.next = u.next) ∧ (u.rest = [] → w.part = 0 ∧ w.sub = u.next ∧ w.next = 0) ∧
            w.index = u.index ∧ w.ticket = u.ticket) ∧
          t.tickets = s.tickets.map fun k => if k.1 = core ∧ k.2.1 = u.id then (core, (s.core core).nextId, k.2.2) else k)) ∧
      (((u.fail ≠ none ∨ parity = true) ∧ u.replay = 0 ∧
          ((s.core core).failTimes.filter fun x => s.timeUs < x + 1000000).length + 1 < s.odGet 0x3170 0) →
        (t.core core).outq = (s.core core).outq.filter (fun y => y.unit != u.id) ∧ t.tickets = s.tickets ∧
        ∃ v, t.unit core u.id = some v ∧ v.st = .held ∧ v.replay = 1 ∧ v.acc = [] ∧ v.fail = none ∧
          v.last = some (u.fail.getD { kind := .parity }) ∧ v.index = u.index ∧ v.ticket = u.ticket ∧
          ∃ d, t.cmd u.r u.p = some d ∧ d = { c with flags := d.flags } ∧ bitOf d.flags 6 = true) ∧
      (((u.fail ≠ none ∨ parity = true) ∧
          s.odGet 0x3170 0 ≤ ((s.core core).failTimes.filter fun x => s.timeUs < x + 1000000).length + 1) →
        (t.core core).outq = (s.core core).outq ∧ (t.core core).lastFail = some (u.fail.getD { kind := .parity }) ∧
        ∃ v, t.unit core u.id = some v ∧ v = { u with fail := v.fail })

-- ## Ops that work in chunks (05, 08, 09)

/-- R16, R17, R178, R207, R284: the chunk that a core holds of a running VCHAIN, GATHER, SCATTER or SCATTER_ADD is computed once the verdict
before it has been formed: the records of its next part, at most 256 KiB of them, wait in the outbound queue behind its mark, the part
awaits its verdict with the piece at which the next one begins, and no byte of memory changes. A full queue holds the chunk and is counted,
one stalled cycle for each try (DESIGN CHOICE, log 137). That a chunk is cut after as many whole pieces as fit 256 KiB is the model's
reading (DEDUCED, log 48). R284: the next part of a chunk too large for one commit follows on its own: at most 256 KiB of what is left joins
the outbound queue. R87 to R94: the tile that a core holds of a running COMPRESS_STORE is compressed into its record, which waits for the
tile's verdict. R174, R62: the records of a part of a GATHER's chunk are those that store, for every element of DST of the part, at position
j along DIM, the element of SRC at the same place with IDX[j], clamped to SRC's extent, in place of j. A part begins where the one before it
has ended, and the last one, which names no next piece, ends with the chunk; the pieces of a chunk are the elements of DST's slices at its
1,024 positions (the pieces: log 48, DEDUCED). -/
def Obligations.ChunkRecordsWaitForTheirVerdict : Prop :=
  (∀ (r p core : Nat) (c : Cmd) (o : Op) (u : WorkUnit) (x : SlotOut) (s : State) (i : Instr), core < 128 → s.op r p = some o →
     (s.core core).nextChunk r p = some u → (s.core core).lastDrained = none → s.coreRuns core = true →
     (s.core core).replayWaits u = false → s.odGet 0x3133 (core + 1) % 2 = 0 → u.rest = [] →
     let w : Who := ⟨r, p, core, r / 64⟩
     ((i = .vchain r p core ∧ s.Holds r p .running 0x12 c ∧ s.vChunk c o u w = .ok x)
       ∨ (i = .gather r p core ∧ s.Holds r p .running 0x20 c ∧ s.gatherChunk c o u w = .ok x)
       ∨ (i = .scatter r p core ∧ s.Holds r p .running 0x21 c ∧ ¬ (o.phase < 2 ∧ s.opQuiet o = true) ∧
           s.scatterChunk c o u w = .ok x)
       ∨ (i = .scatterAdd r p core ∧ s.Holds r p .running 0x22 c ∧ s.scatterAddChunk c o u w = .ok x)) →
     let cut := takePart 262144 (afterParts u.part x.recs)
     ((s.core core).fits cut.1 = false →
       exec i s = .next (s.odSet 0x5142 (core + 1) ((s.odGet 0x5142 (core + 1) + 1) % 2 ^ 64))) ∧
     ((s.core core).fits cut.1 = true →
       ∃ t, exec i s = .next t ∧
         (t.core core).outq = (s.core core).outq ++ cut.1.zipIdx.map (fun d =>
           { unit := u.id, r := u.r, p := u.p, ticket := u.ticket, dest := d.1, seq := (s.core core).nextRec + d.2 }) ∧
         (t.core core).lastDrained = some u.id ∧
         (∀ v ∈ (t.core core).units, v.id = u.id → v.st = .drained ∧ v.rest = cut.2 ∧ v.next = x.next ∧ v.index = u.index ∧ v.ticket = u.ticket) ∧
         t.mem = s.mem ∧ t.cmds = s.cmds ∧ t.ops = s.ops ∧ t.tickets = s.tickets)) ∧
  (∀ (r p core : Nat) (c : Cmd) (o : Op) (u : WorkUnit) (s : State) (i : Instr), core < 128 → s.op r p = some o →
     (s.core core).nextChunk r p = some u → (s.core core).lastDrained = none → s.coreRuns core = true →
     (s.core core).replayWaits u = false → u.rest ≠ [] →
     ((i = .vchain r p core ∧ s.Holds r p .running 0x12 c) ∨ (i = .gather r p core ∧ s.Holds r p .running 0x20 c)
       ∨ (i = .scatter r p core ∧ s.Holds r p .running 0x21 c ∧ ¬ (o.phase < 2 ∧ s.opQuiet o = true))
       ∨ (i = .scatterAdd r p core ∧ s.Holds r p .running 0x22 c) ∨ (i = .compressStore r p core ∧ s.Holds r p .running 0x24 c)) →
     let cut := takePart 262144 u.rest
     (s.core core).fits cut.1 = true →
     exec i s = .next (s.setCore core { s.core core with
       units := (s.core core).units.map fun v => if v.id = u.id then { u with st := .drained, rest := cut.2 } else v
       outq := (s.core core).outq ++ cut.1.zipIdx.map fun d =>
         { unit := u.id, r := u.r, p := u.p, ticket := u.ticket, dest := d.1, seq := (s.core core).nextRec + d.2 }
       nextRec := (s.core core).nextRec + cut.1.length
       lastDrained := some u.id })) ∧
  (∀ (r p core : Nat) (c : Cmd) (o : Op) (u : WorkUnit) (x : SlotOut) (s : State), core < 128 → s.op r p = some o →
     (s.core core).nextChunk r p = some u → (s.core core).lastDrained = none → s.coreRuns core = true →
     (s.core core).replayWaits u = false → s.odGet 0x3133 (core + 1) % 2 = 0 → u.rest = [] → u.part = 0 →
     s.Holds r p .running 0x24 c → s.compressTile c o u ⟨r, p, core, r / 64⟩ = .ok x →
     destsBytes x.recs ≤ 262144 → (s.core core).fits x.recs = true →
     ∃ t, exec (.compressStore r p core) s = .next t ∧
       (t.core core).outq = (x.s.core core).outq ++ x.recs.zipIdx.map (fun d =>
         { unit := x.u.id, r := x.u.r, p := x.u.p, ticket := x.u.ticket, dest := d.1, seq := (x.s.core core).nextRec + d.2 }) ∧
       (t.core core).lastDrained = some x.u.id ∧ (∀ v ∈ (t.core core).units, v.id = x.u.id → v.st = .drained) ∧ t.mem = x.s.mem) ∧
  (∀ (c : Cmd) (o : Op) (u : WorkUnit) (w : Who) (x : SlotOut) (s : State), c.entry.toNat % 256 = 0x20 → s.gatherChunk c o u w = .ok x →
     let src := tdDesc s c.gSrc
     let dst := tdDesc s c.gDst
     let all := s.gPieces c u
     let part := ((all.drop u.sub).take ((if x.next = 0 then all.length else x.next) - u.sub)).flatten
     (∃ (ms : List Move) (sat : Bool), s.storeMoves w src dst c.gDim ms = .ok (x.recs, sat) ∧ ms.map (·.idx) = part ∧
       ∀ m ∈ ms, ∃ ix clamped, s.readIndex w (tdDesc s c.gIdx) (src.viewExt c.gDim) (m.idx.getD c.gDim 0) = .ok (ix, clamped) ∧
         s.readElem w src 0 (m.idx.set c.gDim ix) = .ok m.e) ∧
     (∀ idx, idx ∈ all.flatten ↔ ∃ j, 1024 * u.index ≤ j ∧ j < min (1024 * (u.index + 1)) ((tdDesc s c.gIdx).viewExt 0) ∧
       idx ∈ sliceIdx dst.view c.gDim j))

-- ## COPY, SIGNAL and WAIT (15)

/-- R359, R360: a COPY between package memory, own windows and host memory whose checks pass and whose source and destination do not overlap
gives every byte of the destination the byte of the source, changes no other byte, and waits for its completion. Into a window of another
package it sends its blocks of 4 KiB as writes; from one it sends its first read, of 4,080 bytes at most rounded out to slots of 16 (the model's cut
of remote reads, DESIGN CHOICE, log 188), and waits. -/
def Obligations.CopyMovesEveryByte : Prop :=
  ∀ (r p : Nat) (c : Cmd) (a b : End) (s : State), s.Holds r p .started 0x23 c → s.memWf = true → s.copyErr c = none →
    let len := field c.entry.toNat 343 304
    let region := field c.entry.toNat 267 264
    let w : Who := ⟨r, p, 8 * region, r / 64⟩
    s.fnState .region region = 2 →
    s.resolveEnd (region / 4) w (field c.entry.toNat 257 256) (field c.entry.toNat 447 384) len 0 = .ok a →
    s.resolveEnd (region / 4) w (field c.entry.toNat 259 258) (field c.entry.toNat 511 448) len 1 = .ok b →
    let ranges (e : End) (wr : Bool) : List SbRange := match e with | .key k => [⟨k, len, wr⟩] | _ => []
    (s.sbIssue r p (ranges a false ++ ranges b true)).2 = true →
    (∀ pkg die slot off, a = .remote pkg die slot off →
      (∀ z ∈ s.arrived, ¬ (z.r = r ∧ z.p = p)) → (∀ z ∈ s.txns, ¬ (z.r = r ∧ z.p = p)) →
      ∃ (t : State) (x : Txn), exec (.copy r p) s = .next t ∧ t.txns = s.txns ++ [x] ∧ x.r = r ∧ x.p = p ∧ x.kind = .read ∧
        x.pkg = pkg ∧ x.die = die ∧ x.slot = slot ∧ x.off = off / 16 * 16 ∧ x.off + x.len = (off + min len 4080 + 15) / 16 * 16 ∧
        t.mem = s.mem ∧ t.cmds = s.cmds) ∧
    (∀ pkg die slot off, b = .remote pkg die slot off → s.endReadable a len →
      ∃ t, exec (.copy r p) s = .next t ∧ t.txns.length = s.txns.length + (len + 4095) / 4096 ∧
        (∀ j, 4096 * j < len → ∃ x ∈ t.txns, x.r = r ∧ x.p = p ∧ x.kind = .write ∧ x.pkg = pkg ∧ x.die = die ∧ x.slot = slot ∧
          x.off = off + 4096 * j ∧ x.len = min 4096 (len - 4096 * j)) ∧
        t.mem = s.mem ∧ t.host0 = s.host0 ∧ t.host1 = s.host1 ∧ t.cmd r p = some { c with phase := .running }) ∧
    (s.endReadable a len → s.endWritable c b len → a.Apart b len →
    ∃ t, exec (.copy r p) s = .next t ∧
      (∀ i, i < len → t.endByte b i = s.endByte a i) ∧
      (∀ x, (∀ k, b = .key k → x < k ∨ k + len ≤ x) → Mem.read t.mem x = Mem.read s.mem x) ∧
      (∀ h x, h < 2 → (∀ y, b = .host h y → x < y ∨ y + len ≤ x) → Mem.read (t.hostMem h) x = Mem.read (s.hostMem h) x) ∧
      t.cmd r p = some { c with phase := .running })

/-- R361, R167, R40: a SIGNAL whose word lies in the package adds VALUE to it, saturating, which SATURATED flags, with the old value as its
result, once nothing clears the word and no scoreboard entry blocks the write; a request of its own that the window's slot had held is
served. One whose word lies in a window of another package sends the add and waits for its answer. R361: a WAIT begins to poll; a read of a
word in the package that is at or above VALUE completes it with the value read, and any other read leaves it waiting, its request at the
window's slot served either way (R321); a word that is being cleared or filled is not read (R271, R280); a word in a window of another
package is read by a message; a TIMEOUT that passes ends it with 0x0506. -/
def Obligations.SignalsAddAndWaitsPoll : Prop :=
  (∀ (r p : Nat) (c : Cmd) (s : State), s.Holds r p .started 0x41 c → s.memWf = true → s.signalErr c = none →
     (∀ k, s.wordEnd c 2 = .ok (.key k) → s.clearingIn k 8 = true → exec (.signal r p) s = .next s) ∧
     (∀ k, s.wordEnd c 2 = .ok (.key k) → s.clearingIn k 8 = false → s.badIn k 8 = none → (s.sbWrite r p k 8).2 = true →
       let u := (s.sbWrite r p k 8).1.served ⟨r, p, 0x82, r / 64⟩
       ∃ t, exec (.signal r p) s = .next t ∧
         Mem.readNat t.mem k 8 = min (2 ^ 64 - 1) (Mem.readNat s.mem k 8 + field c.entry.toNat 383 320) ∧
         (∀ x, x < k ∨ k + 8 ≤ x → Mem.read t.mem x = Mem.read s.mem x) ∧
         t.cmd r p = some { c with
           phase := .ended, result := Mem.readNat s.mem k 8
           flags := c.flags ||| if 2 ^ 64 ≤ Mem.readNat s.mem k 8 + field c.entry.toNat 383 320 then 2 ^ 8 else 0 } ∧
         u.mem = s.mem ∧ u.cmds = s.cmds ∧ { t with mem := u.mem, cmds := u.cmds, groups := u.groups } = u) ∧
     ∀ pkg die slot off, s.wordEnd c 2 = .ok (.remote pkg die slot off) → s.routeErr (r / 128) pkg = none →
       ∃ (t : State) (x : Txn), exec (.signal r p) s = .next t ∧ t.txns = s.txns ++ [x] ∧ x.tag = s.nextTag ∧ x.r = r ∧ x.p = p ∧
         x.kind = .signalAdd ∧ x.pkg = pkg ∧ x.die = die ∧ x.slot = slot ∧ x.off = off / 64 * 64 ∧
         t.cmd r p = some { c with phase := .running } ∧ t.mem = s.mem) ∧
  (∀ (r p : Nat) (c : Cmd) (s : State),
     (s.Holds r p .started 0x42 c → s.signalErr c = none →
       exec (.wait r p) s = .next (s.updCmd r p fun d => { d with phase := .running })) ∧
     (s.Holds r p .running 0x42 c →
       (∀ k, s.wordEnd c 0 = .ok (.key k) → (s.clearingIn k 8 = true ∨ s.filling r p k 8 = true) → exec (.waitPoll r p) s = .next s) ∧
       (∀ k, s.wordEnd c 0 = .ok (.key k) → s.clearingIn k 8 = false → s.filling r p k 8 = false → s.badIn k 8 = none →
         let u := s.served ⟨r, p, 0x82, r / 64⟩
         u.mem = s.mem ∧ u.cmds = s.cmds ∧ exec (.waitPoll r p) s = .next
           (if field c.entry.toNat 383 320 ≤ Mem.readNat s.mem k 8
             then u.updCmd r p fun d => { d with phase := .ended, result := Mem.readNat s.mem k 8 }
             else u)) ∧
       (∀ pkg die slot off, s.wordEnd c 0 = .ok (.remote pkg die slot off) → (∀ z ∈ s.txns, ¬ (z.r = r ∧ z.p = p)) →
         ∃ (t : State) (x : Txn), exec (.waitPoll r p) s = .next t ∧ t.txns = s.txns ++ [x] ∧ x.tag = s.nextTag ∧ x.r = r ∧ x.p = p ∧
           x.kind = .waitRead ∧ x.pkg = pkg ∧ x.die = die ∧ x.slot = slot ∧ x.off = off ∧ x.len = 16 ∧ t.mem = s.mem ∧ t.cmds = s.cmds) ∧
       (field c.entry.toNat 447 416 ≠ 0 →
         exec (.waitTimeout r p) s = .next
           (({ s with txns := s.txns.filter fun t => !(t.r == r && t.p == p) } : State).updCmd r p fun d =>
             { d with err := some (d.err.getD { code := 0x0506 }), phase := .ended })) ∧
       (field c.entry.toNat 447 416 = 0 → exec (.waitTimeout r p) s = .next s)))

-- ## Bank engines and HBM atomic stages (08)

/-- R167, R29, R170: a masked write of a line gives each nibble that its mask names the new value, keeps every other nibble and every other
byte of memory, and closes the line's open group. Where no granule of the line fails its check, nothing else changes but that the granules
written whole are poisoned no longer (R410); a failing granule outside the line keeps failing. R167, R170, R40, R280: a fetch-add adds to
its 8 bytes, saturating at 2^64 − 1, which flags the op, and closes the line's group; where the old value fails its check the op ends with
0x0701 (R401, R402). A read joins the open group of its line while that has fewer than 64 members, which is counted for a line of region
memory (a joined read of HBM counts in no region's 0x5207: DEDUCED, log 61), or opens one; a read of a range of a scratchpad that another op
fills waits. -/
def Obligations.BankWordsAreWrittenAndRead : Prop :=
  (∀ (r p addr : Nat) (k : Option Ticket) (data : Line) (nib : BitVec 128) (s : State), s.Fresh r k addr → s.memWf = true →
     let a := memKey addr / 64 * 64
     ∃ t, exec (.bankWrite (.eng r p k) addr data nib) s = .next t ∧
       (∀ i, i < 64 → (Mem.read t.mem (a + i)).toNat =
         (if bitOf nib.toNat (2 * i) = true then data.toNat / 2 ^ (8 * i) % 16 else (Mem.read s.mem (a + i)).toNat % 16)
           + 16 * (if bitOf nib.toNat (2 * i + 1) = true then data.toNat / 2 ^ (8 * i + 4) % 16 else (Mem.read s.mem (a + i)).toNat / 16)) ∧
       (∀ x, x < a ∨ a + 64 ≤ x → Mem.read t.mem x = Mem.read s.mem x) ∧
       t.groups = AMap.erase s.groups a ∧ (∀ g ∈ s.bad, g < a ∨ a + 64 ≤ g → g ∈ t.bad) ∧
       (s.badIn a 64 = none → { t with mem := s.mem, poisoned := s.poisoned, groups := s.groups } = s)) ∧
  (∀ (r p addr : Nat) (k : Option Ticket) (s : State), s.Fresh r k addr → s.memWf = true →
     let a := memKey addr
     let l := a / 64 * 64
     let n := AMap.getD s.groups l 0
     let rr := 4 * (l / 2 ^ 50) + field l 31 30
     (∀ amount : BitVec 64, ∃ t, exec (.bankFetchAdd (.eng r p k) addr amount) s = .next t ∧
       Mem.readNat t.mem a 8 = min (2 ^ 64 - 1) (Mem.readNat s.mem a 8 + amount.toNat) ∧
       (∀ x, x < a ∨ a + 8 ≤ x → Mem.read t.mem x = Mem.read s.mem x) ∧ t.groups = AMap.erase s.groups l ∧
       (∀ g, s.badIn a 8 = some g → t.cmds = (s.updCmd r p fun d =>
         { d with flags := d.flags ||| (if 2 ^ 64 ≤ Mem.readNat s.mem a 8 + amount.toNat then 2 ^ 8 else 0)
                  err := some (d.err.getD (addrErr 0x0701 (g + s.pkg <<< 52))) }).cmds) ∧
       (s.badIn a 8 = none →
         t.cmds = (s.updCmd r p fun d =>
           { d with flags := d.flags ||| if 2 ^ 64 ≤ Mem.readNat s.mem a 8 + amount.toNat then 2 ^ 8 else 0 }).cmds ∧
         { t with mem := s.mem, groups := s.groups, cmds := s.cmds } = s)) ∧
     (s.filling r p l 64 = true → exec (.bankRead (.eng r p k) addr) s = .next s) ∧
     (s.filling r p l 64 = false → s.badIn l 64 = none →
       (0 < n → n < 64 →
         exec (.bankRead (.eng r p k) addr) s = .next
           (if l / 2 ^ 48 % 4 = 1
             then ({ s with groups := AMap.set s.groups l (n + 1) } : State).odSet 0x5207 (rr + 1) ((s.odGet 0x5207 (rr + 1) + 1) % 2 ^ 64)
             else { s with groups := AMap.set s.groups l (n + 1) })) ∧
       ((n = 0 ∨ 64 ≤ n) → exec (.bankRead (.eng r p k) addr) s = .next { s with groups := AMap.set s.groups l 1 })))

/-- R167, R168, R24: a lane add replaces each lane whose mask bit is set by the sum of the lane and the operand's lane, rounded to nearest
even in the lane format or saturated for INT32; the other lanes and all other memory stay. A saturated lane flags the op. A line of which a
granule fails its check is updated all the same, and logged (R401, R402). -/
def Obligations.BankAddSumsMaskedLanes : Prop :=
  ∀ (r p addr fmt : Nat) (k : Option Ticket) (lanes : BitVec 32) (data : Line) (s : State), s.Fresh r k addr → s.memWf = true →
    (fmt = 0x04 ∨ fmt = 0x15 ∨ fmt = 0x14) →
    let a := memKey addr / 64 * 64
    let w := if fmt = 0x14 then 16 else 32
    let lane (v i : Nat) : Nat := v / 2 ^ (w * i) % 2 ^ w
    let sum (i : Nat) : Nat × Bool :=
      encode (fmtD fmt) 0 0
        (Val.add 0 (decodeVal (fmtD fmt) (lane (Mem.readNat s.mem a 64) i)) (decodeVal (fmtD fmt) (lane data.toNat i)))
    ∃ t, exec (.bankAdd (.eng r p k) addr fmt lanes data) s = .next t ∧
      (∀ i, i < 512 / w → lane (Mem.readNat t.mem a 64) i =
        if bitOf lanes.toNat i = true then (sum i).1 else lane (Mem.readNat s.mem a 64) i) ∧
      (∀ x, x < a ∨ a + 64 ≤ x → Mem.read t.mem x = Mem.read s.mem x) ∧
      ((∃ i, i < 512 / w ∧ bitOf lanes.toNat i = true ∧ (sum i).2 = true) →
        t.cmds = (s.updCmd r p fun d => { d with flags := d.flags ||| 2 ^ 8 }).cmds) ∧
      ((∀ i, i < 512 / w → bitOf lanes.toNat i = true → (sum i).2 = false) → t.cmds = s.cmds) ∧
      (s.badIn a 64 = none → { t with mem := s.mem, groups := s.groups, cmds := s.cmds } = s)

/-- R167, R168, R43, R41: an extremum replaces each masked lane by the larger or smaller of the lane and the operand's lane; a masked lane that holds
a NaN keeps it, quieted. With winner index, value and index move as a pair, and of two equal values the pair with the lower index wins. -/
def Obligations.BankExtremumKeepsTheWinner : Prop :=
  ∀ (r p addr fmt : Nat) (k : Option Ticket) (isMax : Bool) (lanes : BitVec 16) (pairs : BitVec 8) (data : Line) (s : State),
    s.Fresh r k addr → s.memWf = true → (fmt = 0x04 ∨ fmt = 0x15) →
    let a := memKey addr / 64 * 64
    let val (v : Nat) : Val := decodeVal (fmtD fmt) (v % 2 ^ 32)
    let beats (x y : Nat) : Bool := if isMax = true then (val y).rankLt (val x) else (val x).rankLt (val y)
    let lane (v w i : Nat) : Nat := v / 2 ^ (w * i) % 2 ^ w
    let old := Mem.readNat s.mem a 64
    (∃ t, exec (.bankMaxMin (.eng r p k) addr isMax fmt lanes data) s = .next t ∧
      (∀ i, i < 16 →
        let x := lane old 32 i
        let y := lane data.toNat 32 i
        let z := lane (Mem.readNat t.mem a 64) 32 i
        (bitOf lanes.toNat i = false → z = x) ∧
        (bitOf lanes.toNat i = true → (val x).isNan = true → z = (encode (fmtD fmt) 0 0 (val x).quiet).1) ∧
        (bitOf lanes.toNat i = true → (val x).isNan = false → (val y).isNan = false →
          z = (encode (fmtD fmt) 0 0 (if beats y x = true then val y else val x)).1)) ∧
      (∀ x, x < a ∨ a + 64 ≤ x → Mem.read t.mem x = Mem.read s.mem x) ∧
      t.cmds = s.cmds ∧ (s.badIn a 64 = none → { t with mem := s.mem, groups := s.groups } = s)) ∧
    ∃ t, exec (.bankMaxMinIndex (.eng r p k) addr isMax fmt pairs data) s = .next t ∧
      (∀ i, i < 8 →
        let x := lane old 64 i
        let y := lane data.toNat 64 i
        let z := lane (Mem.readNat t.mem a 64) 64 i
        (bitOf pairs.toNat i = false → z = x) ∧
        (bitOf pairs.toNat i = true → (val x).isNan = true →
          z = (encode (fmtD fmt) 0 0 (val x).quiet).1 + 2 ^ 32 * (x / 2 ^ 32)) ∧
        (bitOf pairs.toNat i = true → (val x).isNan = false → (val y).isNan = false →
          (beats y x = true → z = y) ∧ (beats x y = true → z = x) ∧
          (beats x y = false → beats y x = false → z = x % 2 ^ 32 + 2 ^ 32 * min (x / 2 ^ 32) (y / 2 ^ 32)))) ∧
      (∀ x, x < a ∨ a + 64 ≤ x → Mem.read t.mem x = Mem.read s.mem x) ∧
      t.cmds = s.cmds ∧ (s.badIn a 64 = none → { t with mem := s.mem, groups := s.groups } = s)

/-- R171: a record whose ticket matches the stale-ticket list is dropped: it changes no memory, and its drop is counted for the region of
its ticket and sets STALE_DROP. R12, R267, R389: a record whose address names another package ends its op with 0x0304, one at an offset that
its memory does not have with 0x0303, and one whose memory is OFF, or STARTING (DEDUCED, log 60), with 0x0A01, and it touches nothing; R271:
one that reaches an HBM unit being cleared waits. -/
def Obligations.StaleRecordsAreDropped : Prop :=
  (∀ (r p addr fmt ctxa key split : Nat) (k : Ticket) (nib : BitVec 128) (lanes : BitVec 32) (l16 : BitVec 16) (l8 : BitVec 8) (isMax : Bool)
       (amount : BitVec 64) (data : Line) (s : State),
     r < 512 → field addr 49 48 ≠ 3 → (fmt = 0x04 ∨ fmt = 0x15) → s.accessErr addr 1 (some k) = none →
     s.clearingIn (memKey addr / 64 * 64) 64 = false → k ∈ s.stale →
     let rr := field k.toNat 63 60
     let t := (s.odSet 0x5206 (rr + 1) ((s.odGet 0x5206 (rr + 1) + 1) % 2 ^ 64)).setBit 0x4200 (rr + 1) 2
     ∀ i ∈ [Instr.bankWrite (.eng r p (some k)) addr data nib, .bankAdd (.eng r p (some k)) addr fmt lanes data,
         .bankMaxMin (.eng r p (some k)) addr isMax fmt l16 data, .bankMaxMinIndex (.eng r p (some k)) addr isMax fmt l8 data,
         .bankFetchAdd (.eng r p (some k)) addr amount, .sacRecord (.eng r p (some k)) ctxa key split data],
       exec i s = .next t) ∧
  (∀ (r p addr fmt : Nat) (t : Option Ticket) (nib : BitVec 128) (lanes : BitVec 32) (l16 : BitVec 16) (l8 : BitVec 8) (isMax : Bool)
       (amount : BitVec 64) (data : Line) (s : State),
     r < 512 → field addr 49 48 ≠ 3 → (fmt = 0x04 ∨ fmt = 0x15) →
     ∀ i ∈ [Instr.bankRead (.eng r p t) addr, .bankWrite (.eng r p t) addr data nib, .bankAdd (.eng r p t) addr fmt lanes data,
         .bankMaxMin (.eng r p t) addr isMax fmt l16 data, .bankMaxMinIndex (.eng r p t) addr isMax fmt l8 data,
         .bankFetchAdd (.eng r p t) addr amount],
       (field addr 63 52 ≠ s.odGet 0x2001 0 % 4096 → exec i s = .next
         (s.updCmd r p fun d => { d with err := some (d.err.getD { code := 0x0304, dkind := 6, detail := addr }) })) ∧
       (field addr 63 52 = s.odGet 0x2001 0 % 4096 → s.validAt addr 1 = false → exec i s = .next
         (s.updCmd r p fun d => { d with err := some (d.err.getD { code := 0x0303, dkind := 6, detail := addr }) })) ∧
       (field addr 63 52 = s.odGet 0x2001 0 % 4096 → s.validAt addr 1 = true → s.serves addr = false → exec i s = .next
         (s.updCmd r p fun d => { d with err := some (d.err.getD (ticketErr 0x0A01 t)) })) ∧
       (field addr 63 52 = s.odGet 0x2001 0 % 4096 → s.validAt addr 1 = true → s.serves addr = true →
         s.clearingIn (memKey addr / 64 * 64) 64 = true → exec i s = .next s))

/-- R179, R182, R183: a keyed record of an open context that is not merging is added to the resident entry of its key and split, lane by
lane, or installed in the lowest free way of its set when no entry holds the key and the set is not full. Its lanes beyond the tensor are
ignored. R186, R187: a context that a FINAL op has asked to merge begins its merge once no accepted record for it is left, and its next step
ends it: the lanes of its resident entries are added into DEST in set and way order (by key in ordered mode), its entries and the context
are gone, and every FINAL op is told. -/
def Obligations.KeyedRecordsAccumulateAndMerge : Prop :=
  (∀ (r p ctxa key split rr : Nat) (k : Option Ticket) (data : Line) (c : SacCtx) (s : State), r < 512 → (∀ x, k = some x → x ∉ s.stale) →
     s.accessErr ctxa 64 k = none → s.ctxWaits (memKey ctxa) = false → (∀ o, s.op r p = some o → memKey ctxa ∉ o.dropped) →
     blockRegion (memKey ctxa) = some rr → ((s.sac rr).ctxs.find? fun x => x.block == memKey ctxa) = some c → c.merging = false → s.ctxForeign c = none →
     let d := tdDesc s c.dest
     let fmt := d.fmt
     let w := if fmt = 0x14 then 16 else 32
     let lane (v : Line) (i : Nat) : Nat := v.toNat / 2 ^ (w * i) % 2 ^ w
     ∀ kept : Line, (∀ i, i < 512 / w → lane kept i =
       if 512 / w * (key % d.segs) + i < d.ext.getD 0 0 ∧ key / d.segs < d.ext.getD 1 0 then lane data i else 0) →
     let set := sacSet c.num key split
     let mine (e : SacEntry) : Bool := e.set == set && e.ctx == c.num && e.key == key && e.split == split
     (∀ e, (s.sac rr).entries.find? mine = some e →
       ∃ t, exec (.sacRecord (.eng r p k) ctxa key split data) s = .next t ∧
         (t.sac rr).entries = ((s.sac rr).entries.map fun g =>
           if g = e then { e with value := BitVec.ofNat 512 (lanesAdd fmt e.value.toNat kept.toNat), stamp := (s.sac rr).stamp } else g) ∧
         t.odGet 0x5200 (rr + 1) = (s.odGet 0x5200 (rr + 1) + 1) % 2 ^ 64 ∧ t.mem = s.mem ∧ t.queues = s.queues) ∧
     ((s.sac rr).entries.find? mine = none → ((s.sac rr).entries.filter fun e => e.set == set).length < 8 →
       ∃ t e, exec (.sacRecord (.eng r p k) ctxa key split data) s = .next t ∧
         (t.sac rr).entries = (s.sac rr).entries ++ [e] ∧ e.set = set ∧ e.ctx = c.num ∧ e.key = key ∧ e.split = split ∧ e.value = kept ∧
         e.bad = false ∧ e.way < 8 ∧ (∀ g ∈ (s.sac rr).entries, g.set = set → g.way ≠ e.way) ∧
         (∀ v, v < e.way → ∃ g ∈ (s.sac rr).entries, g.set = set ∧ g.way = v) ∧
         t.odGet 0x5201 (rr + 1) = (s.odGet 0x5201 (rr + 1) + 1) % 2 ^ 64 ∧ t.mem = s.mem ∧ t.queues = s.queues)) ∧
  (∀ (rr ctx : Nat) (c : SacCtx) (s : State), rr < 16 → ctx < 64 → ((s.sac rr).ctxs.find? fun x => x.num == ctx) = some c → c.finals ≠ [] →
     s.ctxWaits c.block = false →
     (c.merging = false → (∃ a ∈ s.accepted, a.msg.type = 0x09 ∧ a.addr = c.block) → exec (.sacMerge rr ctx) s = .next s) ∧
     (c.merging = false → (∀ a ∈ s.accepted, ¬ (a.msg.type = 0x09 ∧ a.addr = c.block)) → exec (.sacMerge rr ctx) s = .next
       (s.setSac rr { s.sac rr with ctxs := (s.sac rr).ctxs.map fun x => if x.num = ctx then { x with merging := true } else x })) ∧
     (c.merging = true → s.ctxForeign c = none → c.splits = 0 → c.partFilled = [] → c.lost = [] → (s.queue (rr / 4 * 1024 + c.spillq)).en = false →
       (∀ e ∈ (s.sac rr).entries, e.ctx = ctx → e.bad = false) →
       let es := ((s.sac rr).entries.filter fun e => e.ctx == ctx).foldl (fun l e => insertEntry e l) []
       ∃ t, exec (.sacMerge rr ctx) s = .next t ∧
         (t.sac rr).ctxs = (s.sac rr).ctxs.filter (fun x => x.num != ctx) ∧
         (t.sac rr).entries = (s.sac rr).entries.filter (fun e => e.ctx != ctx) ∧
         (∀ o ∈ t.ops, (o.r, o.p) ∈ c.finals → o.merged = true) ∧ t.queues = s.queues ∧
         t.mem = (s.addRecords c.part (tdDesc s c.dest) (es.map fun e => (e.key, e.value.toNat))).1.mem) ∧
     (c.merging = true →
       ∃ t, exec (.sacMerge rr ctx) s = .next t ∧ (t.sac rr).ctxs = (s.sac rr).ctxs.filter (fun x => x.num != ctx) ∧
         (t.sac rr).entries = (s.sac rr).entries.filter (fun e => e.ctx != ctx) ∧
         (∀ o ∈ t.ops, (o.r, o.p) ∈ c.finals → o.merged = true) ∧
         (s.ctxForeign c = none → c.splits ≠ 0 → t.queues = s.queues ∧ t.mem = (s.mergeOrdered rr c).s.mem)))

/-- R285, R286, R258: the head record of a released unit that its destination accepts leaves the queue and is applied there; with the unit's
last record its ticket leaves the region's list, and once none of its writes still waits for an answer the unit leaves the core and its op
counts it as landed, a chunk with its last part. No RELEASE stays held whose records have all been accepted (R300). R286, R328: a store into
a window of another package leaves when its port can take it: a write is sent that waits for its answer, and the unit stays on the core
until then. While the port is busy the head stays, and each try adds 1 to 0x5143, one held cycle (DESIGN CHOICE, log 137). R402: a head
record that fails the queue's check as it leaves, with none of its unit's records gone before, has the unit run again. -/
def Obligations.HeadRecordLandsInMemory : Prop :=
  (∀ (core : Nat) (x : OutRec) (rest : List OutRec) (u : WorkUnit) (addr : Nat) (s : State), core < 128 →
     (s.core core).outq = x :: rest → s.unit core x.unit = some u → u.st = .released →
     (∀ k, x.ticket = some k → k ∉ s.stale ∧ ∀ y ∈ s.reissueWait, y.2.2.2 ≠ k) → s.accessErr addr 64 x.ticket = none →
     s.clearingIn (memKey addr) 64 = false → (s.sbWrite x.r x.p (memKey addr) 64).2 = true → memKey addr % 64 = 0 →
     let a := memKey addr
     (∀ t₁ : State, (∃ d n, x.dest = .store addr d n ∧ t₁ = s.lineWrite a d.toNat n.toNat)
         ∨ (∃ mx f l d, x.dest = .extremum addr mx f l d ∧ t₁ = s.lineExt a mx f l.toNat d.toNat)
         ∨ (∃ f l d, x.dest = .add addr f l d ∧ t₁ = (s.lineAdd a f l.toNat d.toNat).flagSaturated (.eng x.r x.p x.ticket)
               (addSaturates f l.toNat (s.line a) d.toNat)) →
       ∃ t, exec (.outboundSend core false) s = .next t ∧ t.mem = t₁.mem ∧ t.cmds = t₁.cmds ∧ (t.core core).outq = rest ∧
         (∀ y ∈ (t.core core).releases, t.recordsBefore core y.seq = true) ∧
         ((∃ y ∈ rest, y.unit = x.unit) → t.tickets = s.tickets ∧ t.ops = s.ops) ∧
         ((∀ y ∈ rest, y.unit ≠ x.unit) → t.tickets = s.tickets.filter (fun k => !(k.1 == core && k.2.1 == x.unit)) ∧
           ((∃ z ∈ s.txns, z.core = core ∧ z.unit = some x.unit ∧ z.kind = .write) → t.ops = s.ops) ∧
           ((∀ z ∈ s.txns, ¬ (z.core = core ∧ z.unit = some x.unit ∧ z.kind = .write)) →
             (∀ v ∈ (t.core core).units, v.id ≠ x.unit) ∧
             t.ops = s.ops.map fun o => if o.r = u.r ∧ o.p = u.p ∧ u.isLast = true then { o with landed := o.landed + 1 } else o)))) ∧
  (∀ (core pkg die slot off : Nat) (x : OutRec) (rest : List OutRec) (u : WorkUnit) (d : Line) (n : BitVec 128) (q : Nat) (s : State),
     core < 128 → (s.core core).outq = x :: rest → s.unit core x.unit = some u → u.st = .released →
     (∀ k, x.ticket = some k → k ∉ s.stale ∧ ∀ y ∈ s.reissueWait, y.2.2.2 ≠ k) →
     x.dest = .window [(pkg, die, slot)] off d n → pkg ≠ s.odGet 0x2001 0 % 4096 → s.egressPort (core / 32) pkg = some q →
     s.fnState .link q = 2 →
     (s.portBusy q = true → exec (.outboundSend core false) s
       = .next (s.odSet 0x5143 (core + 1) ((s.odGet 0x5143 (core + 1) + 1) % 2 ^ 64))) ∧
     (s.portBusy q = false →
       ∃ (t : State) (z : Txn), exec (.outboundSend core false) s = .next t ∧ t.txns = s.txns ++ [z] ∧ z.r = x.r ∧ z.p = x.p ∧ z.kind = .write ∧
         z.pkg = pkg ∧ z.die = die ∧ z.slot = slot ∧ z.unit = some x.unit ∧ z.ticket = x.ticket ∧ (t.core core).outq = rest ∧
         (∃ v ∈ (t.core core).units, v.id = x.unit) ∧ t.ops = s.ops ∧ t.mem = s.mem)) ∧
  (∀ (core : Nat) (x : OutRec) (rest : List OutRec) (u : WorkUnit) (s : State), core < 128 →
     (s.core core).outq = x :: rest → s.unit core x.unit = some u → u.st = .released → u.sent = 0 → u.carried = false → s.coreRuns core = true →
     (∀ q e, x.dest ≠ .push q e) →
     ∃ t, exec (.outboundSend core true) s = .next t ∧ (t.core core).outq = (s.core core).outq.filter (fun y => y.unit != x.unit) ∧
       (∃ v ∈ (t.core core).units, v.id = x.unit ∧ v.st = .held ∧ v.replay = u.replay + 1 ∧ v.index = u.index ∧ v.ticket = u.ticket) ∧
       t.mem = s.mem ∧ t.tickets = s.tickets)

-- ## Stream queues and locks (12)

/-- R291: a QUEUE_PUSH whose checks pass, whose tail core is ON, whose source holds no failing granule and is not being filled, and for
which the tail core's outbound queue has room puts its COUNT entries into that queue, in order, and runs until they have left. R292, R294: a
QUEUE_POP that finds no other waiting takes n = min(COUNT, REL + 64 − RD) entries when n are there, and those that are there when a notice
is pending: they are copied to ADDR in order, RD advances, and their number is the result. With n = 0 it ends with 0x0503. Its checks admit
only a destination that memory serves. A POP behind others waits with its COUNT (log 169, DEDUCED). R294: when the timer of a queue reaches
STALE with entries unread, NOTICE is set if no POP waits; the first POP that waits is completed with the entries there are, REL + 64 − RD at
most, and the notice is counted for the die. -/
def Obligations.QueuesCarryTheirEntriesInOrder : Prop :=
  (∀ (r p : Nat) (c : Cmd) (s : State), s.Holds r p .started 0x30 c → s.queueErr c true = none →
     let qi := field c.entry.toNat 267 256
     let n := field c.entry.toNat 303 296
     let a := memKey (field c.entry.toNat 383 320)
     let core := 32 * (qi / 1024) + (s.queue qi).tailCore
     (s.coreOn core = false → exec (.queuePush r p) s = .next
       (s.updCmd r p fun d => { d with err := some (d.err.getD { code := 0x0807 }), phase := .ended })) ∧
     (s.coreOn core = true → s.badIn a (256 * n) = none →
       ((s.sbIssue r p [⟨a, 256 * n, false⟩]).2 = false → exec (.queuePush r p) s = .next (s.sbIssue r p [⟨a, 256 * n, false⟩]).1) ∧
       ((s.sbIssue r p [⟨a, 256 * n, false⟩]).2 = true → (s.core core).fits (s.pushEntries c) = true →
         ∃ t, exec (.queuePush r p) s = .next t ∧
           (t.core core).outq = (s.core core).outq ++ (List.range n).map (fun i =>
             { unit := (s.core core).nextId, r := r, p := p, ticket := none
               dest := .push qi (BitVec.ofNat 2048 (Mem.readNat s.mem (a + 256 * i) 256)), seq := (s.core core).nextRec + i }) ∧
           (∃ u ∈ (t.core core).units, u.id = (s.core core).nextId ∧ u.r = r ∧ u.p = p ∧ u.st = .released) ∧
           (∀ k, k ≠ core → { t.core k with sb := (s.core k).sb } = s.core k) ∧ t.cmd r p = some { c with phase := .running } ∧
           { t with cores := s.cores, cmds := s.cmds } = s))) ∧
  (∀ (r p : Nat) (c : Cmd) (s : State), s.Holds r p .started 0x31 c → s.queueErr c true = none → s.memWf = true →
     let qi := field c.entry.toNat 267 256
     let q := s.queue qi
     let n := if q.pops = [] then min (field c.entry.toNat 303 296) (q.rel + 64 - q.rd) else field c.entry.toNat 303 296
     let a := memKey (field c.entry.toNat 383 320)
     let served (i : Nat) : Prop := s.accessErr (field c.entry.toNat 383 320) (256 * i) none = none
     let k := if q.notice = true then min n (q.wr - q.rd) else n
     s.coreOn (32 * (qi / 1024) + q.headCore) = true →
     (n = 0 → exec (.queuePop r p) s = .next
       (s.updCmd r p fun d => { d with err := some (d.err.getD { code := 0x0503 }), phase := .ended })) ∧
     (n ≠ 0 → (s.sbIssue r p [⟨a, 256 * n, true⟩]).2 = false → exec (.queuePop r p) s = .next (s.sbIssue r p [⟨a, 256 * n, true⟩]).1) ∧
     (n ≠ 0 → (s.sbIssue r p [⟨a, 256 * n, true⟩]).2 = true →
       (q.notice = true ∨ (q.pops = [] ∧ n ≤ q.wr - q.rd)) → served k → (∀ i, i < k → (s.queueEntry q (q.rd + i)).2 = false) →
       ∃ t, exec (.queuePop r p) s = .next t ∧
         (∀ i, i < k → Mem.readNat t.mem (a + 256 * i) 256 = (s.queueEntry q (q.rd + i)).1.toNat) ∧
         (∀ x, x < a ∨ a + 256 * k ≤ x → Mem.read t.mem x = Mem.read s.mem x) ∧
         t.queue qi = { q with rd := q.rd + k, notice := false } ∧
         t.cmd r p = some { c with phase := .ended, result := k }) ∧
     (n ≠ 0 → (s.sbIssue r p [⟨a, 256 * n, true⟩]).2 = true → q.notice = false →
       ¬ (q.pops = [] ∧ n ≤ q.wr - q.rd) →
       ∃ t, exec (.queuePop r p) s = .next t ∧ t.mem = s.mem ∧
         t.queue qi = { q with pops := q.pops ++ [{ r := r, p := p, want := n, addr := field c.entry.toNat 383 320 }] } ∧
         t.cmd r p = some { c with phase := .running })) ∧
  (∀ (die q : Nat) (s : State), die < 4 → q < 1024 →
     let i := 1024 * die + q
     let g := s.queue i
     g.en = true → g.stale ≠ 0 → g.rd < g.wr →
     (g.pops = [] → exec (.staleTailNotice die q) s = .next (s.setQueue i { g with notice := true })) ∧
     (∀ w rest, g.pops = w :: rest →
       let n := min (min w.want (g.rel + 64 - g.rd)) (g.wr - g.rd)
       s.accessErr w.addr (256 * n) none = none →
       ∃ t, exec (.staleTailNotice die q) s = .next t ∧ (rest = [] → t.queue i = { g with pops := rest, rd := g.rd + n }) ∧
         g.rd + n ≤ (t.queue i).rd ∧ ((∀ v ∈ rest, (v.r, v.p) ≠ (w.r, w.p)) →
           ∀ d ∈ t.cmds, d.r = w.r → d.p = w.p → d.phase = .ended ∧ d.result = n) ∧
         t.odGet 0x5305 (die + 1) = (s.odGet 0x5305 (die + 1) + 1) % 2 ^ 64))

/-- R293: MARK remembers RD, REWIND goes back to MARK, and RELEASE frees the entries before MARK; no entry from MARK on is lost. A POP whose
entries a REWIND makes available gets them: n = min(COUNT, REL + 64 − RD) of them, once no other waits before it (R292; DEDUCED, log 169). A RELEASE
that refills from a ring still being cleared waits (R271), and one whose ring memory does not serve ends without an effect (R12, R389). -/
def Obligations.MarkRewindAndReleaseMoveTheirPointer : Prop :=
  ∀ (r p : Nat) (c : Cmd) (s : State), s.queueErr c false = none →
    let qi := field c.entry.toNat 267 256
    let q := s.queue qi
    let done (t : State) : State := t.updCmd r p fun d => { d with phase := .ended, result := 0 }
    (s.Holds r p .started 0x32 c → exec (.queueMark r p) s = .next (done (s.setQueue qi { q with mark := q.rd }))) ∧
    (s.Holds r p .started 0x33 c → q.pops = [] →
      exec (.queueRewind r p) s = .next (done (s.setQueue qi { q with rd := q.mark }))) ∧
    (s.Holds r p .started 0x33 c → ∀ w rest, q.pops = w :: rest → (w.r, w.p) ≠ (r, p) → (∀ v ∈ rest, (v.r, v.p) ≠ (w.r, w.p)) →
      let n := min w.want (q.rel + 64 - q.mark)
      n ≠ 0 → n ≤ q.wr - q.mark → s.accessErr w.addr (256 * n) none = none →
      s.sbReady w.r w.p ⟨memKey w.addr, 256 * w.want, true⟩ = true →
      ∃ t, exec (.queueRewind r p) s = .next t ∧ (∀ d ∈ t.cmds, d.r = w.r → d.p = w.p → d.phase = .ended ∧ d.result = n) ∧
        (∀ d ∈ t.cmds, d.r = r → d.p = p → d.phase = .ended)) ∧
    (s.Holds r p .started 0x34 c → q.refills q.mark ≠ [] → s.ringClearing q = true → exec (.queueRelease r p) s = .next s) ∧
    (s.Holds r p .started 0x34 c → q.refills q.mark = [] ∨ s.ringClearing q = false → (∃ i ∈ q.refills q.mark, s.ringErr q i ≠ none) →
      ∃ e, exec (.queueRelease r p) s = .next (s.updCmd r p fun d => { d with err := some (d.err.getD e), phase := .ended })) ∧
    (s.Holds r p .started 0x34 c → q.pops = [] → q.refills q.mark = [] ∨ s.ringClearing q = false → (∀ i ∈ q.refills q.mark, s.ringErr q i = none) →
      (∀ i ∈ q.refills q.mark, s.badIn (q.ringKey i) 256 = none) → ∃ t q', exec (.queueRelease r p) s = .next (done t) ∧ t = s.setQueue qi q' ∧
      q'.rel = q.mark ∧ { q' with rel := q.rel, held := q.held, badEntries := q.badEntries } = q ∧
      (q.rel ≤ q.mark → ∀ i, q.mark ≤ i → i < q.wr → t.queueEntry q' i = s.queueEntry q i))

/-- R288, R289: a write of 1 to EN of a disabled queue stores the fields of its control block and opens the queue empty, or leaves EN 0 with
the first failing condition in CFG_ERR (nonzero stored reserved bits give 5: log 142, DESIGN CHOICE); with EN = 1 it changes nothing but
NOTICE. R288, R289: a write of 0 to EN by a requester of the queue's partition or a DMP disables the queue: its entries are gone and every
POP that waits ends with 0x0504, and what such a POP did not write of a scratchpad is undefined (R280). A control block write to an enabled
queue changes nothing but NOTICE; of another partition, nothing. On a disabled queue either write stores the RW fields. -/
def Obligations.QueuesAreConfiguredByTheirControlBlock : Prop :=
  (∀ (who : Requester) (die q : Nat) (cb : BitVec 512) (s : State), who.ok = true → die < 4 → q < 1024 →
     let i := 1024 * die + q
     let v := cb.toNat
     let g : Queue :=
       { s.queue i with
         ringBase := field v 255 192, stale := field v 191 172, ringLog2 := field v 171 167, headCore := field v 166 162
         tailCore := field v 161 157, headWin := field v 156 151, tailWin := field v 150 145
         part := (match who with | .host _ k => k | _ => field v 144 142), reserved := v % 2 ^ 136 }
     let h := 32 * die + g.headCore
     let t := 32 * die + g.tailCore
     let used (core win : Nat) : Prop := ∃ kq ∈ s.queues, kq.1 ≠ i ∧ kq.1 / 1024 = die ∧ kq.2.en = true ∧
       ((kq.2.headCore = core ∧ kq.2.headWin = win) ∨ (kq.2.tailCore = core ∧ kq.2.tailWin = win))
     let outside := 4 * (s.core h).split.2.2 ≤ g.headWin ∨ 4 * (s.core t).split.2.2 ≤ g.tailWin
     let inUse := used g.headCore g.headWin ∨ used g.tailCore g.tailWin
     let ringBad := g.ringLog2 ≠ 0 ∧ (g.ringBase % 256 ≠ 0 ∨ addrPkg g.ringBase ≠ s.pkg ∨ addrSpace g.ringBase ≠ 0
       ∨ s.rangeOwned g.part g.ringBase (256 * 2 ^ g.ringLog2) = false)
     let away (k : Nat) : Prop := s.assigned k = false ∨ s.regionPart (k / 8) ≠ some g.part
     let range := 1000000 < g.stale ∨ (g.ringLog2 ≠ 0 ∧ (g.ringLog2 < 6 ∨ 24 < g.ringLog2)) ∨ g.reserved ≠ 0
     ((s.queue i).en = true → exec (.queueEnable who die q cb) s = .next (s.setQueue i
       (if (who = .dmp ∨ s.requesterPart who = some (s.queue i).part) ∧ bitOf v 141 = true then { s.queue i with notice := false }
         else s.queue i))) ∧
     ((s.queue i).en = false → ¬ outside → ¬ inUse → ¬ ringBad → ¬ away h → ¬ away t → ¬ range →
       exec (.queueEnable who die q cb) s = .next (s.setQueue i
         { g with wr := 0, rd := 0, mark := 0, rel := 0, held := [], badEntries := [], en := true, cfgErr := 0 })) ∧
     ((s.queue i).en = false → ∃ n,
       (n = if outside then 1 else if inUse then 2 else if ringBad then 3 else if away h ∨ away t then 4 else if range then 5 else 0) ∧
       exec (.queueEnable who die q cb) s = .next (s.setQueue i
         (if n = 0 then { g with wr := 0, rd := 0, mark := 0, rel := 0, held := [], badEntries := [], en := true, cfgErr := 0 }
           else { g with cfgErr := n })))) ∧
  (∀ (who : Requester) (die q : Nat) (cb : BitVec 512) (s : State), who.ok = true → die < 4 → q < 1024 →
     let i := 1024 * die + q
     let may : Prop := who = .dmp ∨ s.requesterPart who = some (s.queue i).part
     let v := cb.toNat
     ((s.queue i).en = true → may → (s.queue i).pops = [] → (∀ kc ∈ s.cores, ∀ x ∈ kc.2.outq, ∀ e, x.dest ≠ .push i e) →
       exec (.queueDisable who die q cb) s = .next
         (s.setQueue i { s.queue i with en := false, held := [], badEntries := [], notice := false })) ∧
     ((s.queue i).en = true → may →
       ∃ t, exec (.queueDisable who die q cb) s = .next t ∧
         t.queue i = { s.queue i with en := false, held := [], badEntries := [], pops := [], notice := false } ∧
         (∀ j, j ≠ i → t.queue j = s.queue j) ∧
         (s.memWf = true → ∀ x, (∀ w ∈ (s.queue i).pops, x < memKey w.addr ∨ memKey w.addr + 256 * w.want ≤ x) →
           Mem.read t.mem x = Mem.read s.mem x) ∧
         (∀ w ∈ (s.queue i).pops, ∀ d ∈ t.cmds, d.r = w.r → d.p = w.p → d.phase = .ended ∧ d.err ≠ none) ∧
         (∀ w ∈ (s.queue i).pops, (∀ d ∈ s.cmds, d.r = w.r → d.p = w.p → d.err = none) →
           ∀ d ∈ t.cmds, d.r = w.r → d.p = w.p → d.err.map Err.code = some 0x0504)) ∧
     ((s.queue i).en = true → may → exec (.queueControlBlockWrite who die q cb) s = .next
       (s.setQueue i (if bitOf v 141 = true then { s.queue i with notice := false } else s.queue i))) ∧
     ((s.queue i).en = true → ¬ may → exec (.queueDisable who die q cb) s = .next s ∧
       exec (.queueControlBlockWrite who die q cb) s = .next (s.setQueue i (s.queue i))) ∧
     ((s.queue i).en = false →
       let g : Queue :=
         { s.queue i with
           ringBase := field v 255 192, stale := field v 191 172, ringLog2 := field v 171 167, headCore := field v 166 162
           tailCore := field v 161 157, headWin := field v 156 151, tailWin := field v 150 145
           part := (match who with | .host _ k => k | _ => field v 144 142), reserved := v % 2 ^ 136 }
       let g' := if may ∧ bitOf v 141 = true then { g with notice := false } else g
       exec (.queueDisable who die q cb) s = .next (s.setQueue i g') ∧
       exec (.queueControlBlockWrite who die q cb) s = .next (s.setQueue i g')))

/-- R297 to R299, R301: an ACQUIRE of a cell of the requester's partition is granted when the cell is FREE or ABANDONED: the requester owns
it with its present epoch, and an abandoned cell is counted; a HELD cell and a cell of another partition change nothing; a cell that fails
its check counts as ABANDONED. A TEST changes nothing but what it returns. (Which owner and epoch the status word shows is the model's
reading, log 45.) R300: a RELEASE frees the cell when its writer is the owner and its epoch is current; any other RELEASE, and any write at
offset 0, changes no cell, is counted and sets LOCK_MISUSE. A core's RELEASE is held, behind those it holds already, while a record that
entered its outbound queue before it has not been accepted, one that its region's DMA carries for it included (DEDUCED, log 211). -/
def Obligations.LocksAreOwnedUntilReleased : Prop :=
  (∀ (who : Requester) (rr cell : Nat) (s : State), who.ok = true → rr < 16 → cell < 4096 →
     let i := 4096 * rr + cell
     let l := s.lock i
     let mine := who = .dmp ∨ (s.requesterPart who ≠ none ∧ s.requesterPart who = s.regionPart rr)
     let code := match who with | .core n => n | .host port _ => 0x80 + port | .dmp => 0x82
     let new : Lock := { st := .held, owner := code, epoch := s.epoch code }
     let free := l.st = .free
     let abandoned := l.st = .held ∧ s.epoch l.owner ≠ l.epoch
     (mine → l.bad = true → ∃ t, exec (.lockAcquire who rr cell) s = .next t ∧ t.lock i = new ∧ t.lockReply.1 % 4 = 3 ∧ t.lockReply.2 = 0) ∧
     (l.bad = false →
     (mine → free → ∃ w, exec (.lockAcquire who rr cell) s = .next { s.setLock i new with lockReply := w } ∧ w.1 % 2 = 1 ∧ w.1 / 2 % 2 = 0 ∧ w.2 = 0) ∧
     (mine → abandoned → ∃ w, exec (.lockAcquire who rr cell) s = .next
       { (s.setLock i new).odSet 0x5209 (rr + 1) ((s.odGet 0x5209 (rr + 1) + 1) % 2 ^ 64) with lockReply := w } ∧ w.1 % 4 = 3 ∧ w.2 = 0) ∧
     (mine → ¬ free → ¬ abandoned → ∃ w, exec (.lockAcquire who rr cell) s = .next { s with lockReply := w } ∧ w.1 % 4 = 0 ∧ w.2 = 0) ∧
     (¬ mine → exec (.lockAcquire who rr cell) s = .next { s with lockReply := (0, match who with | .host _ _ => 0 | _ => 0x0303) }) ∧
     ∃ w, exec (.lockTest who rr cell) s = .next { s with lockReply := w } ∧
       (mine → w.1 % 4 = 0 ∧ w.1 / 4 % 4 = (if free then 0 else if abandoned then 2 else 1) ∧ w.2 = 0))) ∧
  (∀ (who : Requester) (rr cell : Nat) (s : State), who.ok = true → rr < 16 → cell < 4096 →
     let i := 4096 * rr + cell
     let l := s.lock i
     let code := match who with | .core n => n | .host port _ => 0x80 + port | .dmp => 0x82
     let misused := (s.setBit 0x4200 (rr + 1) 3).odSet 0x520A (rr + 1) ((s.odGet 0x520A (rr + 1) + 1) % 2 ^ 64)
     (who = .dmp ∨ (s.requesterPart who ≠ none ∧ s.requesterPart who = s.regionPart rr)) → l.bad = false →
     (∃ w, exec (.lockMisuseWrite who rr cell) s = .next { misused with lockReply := w }) ∧
     (∀ n, who = .core n → (s.recordsBefore n (s.core n).nextRec = true ∨ (s.core n).releases ≠ []) →
       exec (.lockRelease who rr cell) s = .next (s.setCore n { s.core n with
         releases := (s.core n).releases ++ [{ region := rr, cell := cell, seq := (s.core n).nextRec }] })) ∧
     ((∀ n, who = .core n → s.recordsBefore n (s.core n).nextRec = false ∧ (s.core n).releases = []) →
       ((l.st = .held ∧ s.epoch l.owner = l.epoch ∧ l.owner = code) →
         ∃ w, exec (.lockRelease who rr cell) s = .next { s.setLock i { l with st := .free } with lockReply := w }) ∧
       (¬ (l.st = .held ∧ s.epoch l.owner = l.epoch ∧ l.owner = code) →
         ∃ w, exec (.lockRelease who rr cell) s = .next { misused with lockReply := w })))

-- ## Windows and remote requests (13)

/-- R320, R324, R368: a WINDOW_OPEN whose fields pass opens the slot its body names when that slot is FREE, or the lowest FREE slot of the
die when the body asks for one: the slot holds the body's base, length, permissions and ACL, its owner, and OGEN = GEN, all of which the
result carries. A named slot that is not FREE ends it with 0x0408, a die without a FREE slot with 0x0806. R326, R327: a WINDOW_CLOSE by the
owner moves an OPEN slot to CLOSING and waits, one on a CLOSING slot waits with the others, and one on a PENDING slot ends the rewrite with
0x0401 and answers the requests held at it; when nothing is in flight the slot becomes FREE with the next generation and every waiting close
completes. A FREE slot is closed at once; another owner's is refused with 0x0403. -/
def Obligations.WindowsAreOpenedAndClosed : Prop :=
  (∀ (r p : Nat) (c : Cmd) (s : State), s.Holds r p .started 0x50 c → s.windowErr c = none →
     let e := c.entry.toNat
     let die := field e 274 273
     let opened (k : Nat) : State :=
       let g := s.slot (131072 * die + k)
       (s.setSlot (131072 * die + k)
         { g with acl := field e 575 512, perm := field e 278 276, len := field e 511 464, base := field e 447 384
                  st := .opened, owner := r / 64, ogen := g.gen, inflight := 0, bad := false }).updCmd r p fun d =>
           { d with phase := .ended, result := k + 2 ^ 17 * g.gen + 2 ^ 33 * g.gen }
     let fails (x : Err) : State := s.updCmd r p fun d => { d with err := some (d.err.getD x), phase := .ended }
     (bitOf e 279 = false →
       ((s.slot (131072 * die + field e 272 256)).st = .free → exec (.windowOpen r p) s = .next (opened (field e 272 256))) ∧
       ((s.slot (131072 * die + field e 272 256)).st ≠ .free →
         exec (.windowOpen r p) s = .next (fails { code := 0x0408, dkind := 7, detail := 256 }))) ∧
     (bitOf e 279 = true →
       (∀ k, k < 131072 → (s.slot (131072 * die + k)).st = .free → (∀ j, j < k → (s.slot (131072 * die + j)).st ≠ .free) →
         exec (.windowOpen r p) s = .next (opened k)) ∧
       ((∀ k, k < 131072 → (s.slot (131072 * die + k)).st ≠ .free) → exec (.windowOpen r p) s = .next (fails { code := 0x0806, dkind := 7, detail := 279 })))) ∧
  (∀ (r p : Nat) (c : Cmd) (s : State),
     let die := field c.entry.toNat 274 273
     let k := field c.entry.toNat 272 256
     let i := 131072 * die + k
     let g := s.slot i
     (s.Holds r p .started 0x51 c → field c.entry.toNat 1023 275 = 0 →
       (g.st = .free → exec (.windowClose r p) s = .next (s.updCmd r p fun d =>
         { d with phase := .ended, result := k + 2 ^ 17 * g.gen + 2 ^ 33 * g.ogen })) ∧
       (g.st ≠ .free → g.owner ≠ r / 64 → exec (.windowClose r p) s = .next (s.updCmd r p fun d =>
         { d with err := some (d.err.getD { code := 0x0403, dkind := 7, detail := 256 }), phase := .ended })) ∧
       (g.st = .opened → g.owner = r / 64 → ∃ t : State, exec (.windowClose r p) s = .next t ∧
         t.slot i = { g with st := .closing, closers := g.closers ++ [(r, p)] } ∧ (∀ j, j ≠ i → t.slot j = s.slot j) ∧
         t.cmd r p = some { c with phase := .running } ∧ { t with slots := s.slots, cmds := s.cmds } = s) ∧
       (g.st = .closing → g.owner = r / 64 → exec (.windowClose r p) s = .next
         ((s.setSlot i { g with closers := g.closers ++ [(r, p)] }).updCmd r p fun d => { d with phase := .running })) ∧
       (g.st = .pending → g.owner = r / 64 → ∃ t : State, exec (.windowClose r p) s = .next t ∧
         t.slot i = { g with st := .closing, writer := none, closers := g.closers ++ [(r, p)], inflight := (t.slot i).inflight } ∧
         ((∀ kc ∈ s.cores, ∀ x ∈ kc.2.atSlots, x.slot ≠ i) → (t.slot i).inflight = g.inflight) ∧
         (∀ w, g.writer = some w → w ≠ (r, p) → ∀ d ∈ t.cmds, d.r = w.1 → d.p = w.2 → d.phase = .ended ∧ d.err ≠ none ∧
           ((∀ b ∈ s.cmds, b.r = w.1 → b.p = w.2 → b.err = none) → d.err.map Err.code = some 0x0401)) ∧
         (∀ k, ∀ x ∈ (t.core k).atSlots, x.slot = i → x.verdict ≠ none) ∧
         t.heldReqs = s.heldReqs.filter (fun h => !(h.1 == die && h.2.1 == k)) ∧ t.mem = s.mem ∧ t.accepted = s.accepted)) ∧
     (∀ die slot, die < 4 → slot < 131072 →
       let i := 131072 * die + slot
       let g := s.slot i
       g.st = .closing →
       (g.inflight = 0 → ∃ t : State, exec (.windowCloseDone die slot) s = .next t ∧
         t.slot i = { g with st := .free, gen := (g.gen + 1) % 2 ^ 16, closers := [] } ∧ (∀ j, j ≠ i → t.slot j = s.slot j) ∧
         (∀ d ∈ t.cmds, (d.r, d.p) ∈ g.closers →
           d.phase = .ended ∧ d.result = slot + 2 ^ 17 * ((g.gen + 1) % 2 ^ 16) + 2 ^ 33 * g.ogen) ∧
         { t with slots := s.slots, cmds := s.cmds } = s) ∧
       (g.inflight ≠ 0 → exec (.windowCloseDone die slot) s = .next s)))

/-- R325, R327: a SLOT_WRITE by the owner takes effect at once on a slot with nothing in flight, under the next generation; otherwise the new mapping
waits in the shadow and the slot is PENDING, until nothing is in flight any more, or until the drain timeout gives the old mapping back; then
the requests held at the slot proceed. -/
def Obligations.SlotRewriteWaitsInTheShadow : Prop :=
  ∀ (r p : Nat) (c : Cmd) (s : State),
    let e := c.entry.toNat
    (s.Holds r p .started 0x52 c → s.windowErr c = none →
      let k := field e 272 256
      let i := 131072 * field e 274 273 + k
      let g := s.slot i
      let fails (code : Nat) : State :=
        s.updCmd r p fun d => { d with err := some (d.err.getD { code := code, dkind := 7, detail := 256 }), phase := .ended }
      ((g.st = .free ∨ g.st = .closing) → exec (.slotWrite r p) s = .next (fails 0x0401)) ∧
      ((g.st = .opened ∨ g.st = .pending) → g.owner ≠ r / 64 → exec (.slotWrite r p) s = .next (fails 0x0403)) ∧
      (g.owner = r / 64 → g.st = .pending → exec (.slotWrite r p) s = .next (fails 0x040A)) ∧
      (g.owner = r / 64 → g.st = .opened → g.inflight = 0 → exec (.slotWrite r p) s = .next
        ((s.setSlot i { g with base := field e 447 384, len := field e 511 464, perm := field e 278 276, acl := field e 575 512
                               gen := (g.gen + 1) % 2 ^ 16 }).updCmd r p fun d =>
          { d with phase := .ended, result := k + 2 ^ 17 * ((g.gen + 1) % 2 ^ 16) + 2 ^ 33 * g.ogen })) ∧
      (g.owner = r / 64 → g.st = .opened → g.inflight ≠ 0 → exec (.slotWrite r p) s = .next
        ((s.setSlot i { g with shBase := field e 447 384, shLen := field e 511 464, shPerm := field e 278 276, shAcl := field e 575 512
                               st := .pending, writer := some (r, p) }).updCmd r p fun d => { d with phase := .running }))) ∧
    ∀ die slot w, die < 4 → slot < 131072 →
      let i := 131072 * die + slot
      let g := s.slot i
      g.st = .pending → g.writer = some w →
      let rest := s.heldReqs.filter fun h => !(h.1 == die && h.2.1 == slot)
      (g.inflight = 0 → ∃ t : State, exec (.slotRewriteApply die slot) s = .next t ∧
        t.slot i = { g with base := g.shBase, len := g.shLen, perm := g.shPerm, acl := g.shAcl, gen := (g.gen + 1) % 2 ^ 16
                            st := .opened, writer := none, inflight := (t.slot i).inflight } ∧
        (∀ d ∈ t.cmds, d.r = w.1 → d.p = w.2 → d.phase = .ended) ∧ t.heldReqs = rest ∧ t.mem = s.mem ∧
        (rest = s.heldReqs → { t with slots := s.slots, cmds := s.cmds, cores := s.cores } = s ∧
          ((∀ kc ∈ s.cores, ∀ x ∈ kc.2.atSlots, x.slot ≠ i) → (t.slot i).inflight = 0 ∧ t.cores = s.cores))) ∧
      (g.inflight ≠ 0 → ∃ t : State, exec (.slotRewriteTimeout die slot) s = .next t ∧
        t.slot i = { g with st := .opened, writer := none, inflight := (t.slot i).inflight } ∧ t.heldReqs = rest ∧ t.mem = s.mem ∧
        (∀ d ∈ t.cmds, d.r = w.1 → d.p = w.2 → d.phase = .ended ∧ d.err ≠ none) ∧
        t.odGet 0x4300 (die + 1) = s.odGet 0x4300 (die + 1) ||| 2 ^ 3)

/-- R321, R325, R328: a request that reaches the slot table of its die is checked in the order closed, pending, generation, access, extent.
An accepted one is in flight; a pending slot holds it, 256 a die, and one more stays where it is with all that follows it; any other is
refused, counted for the die, and changes neither memory nor a slot. So is one that passes but lies in no memory of the package (R12;
DEDUCED, log 213). One behind another of its port, channel and class waits (R316). R321, R169: a WR that a slot table has accepted gives
every nibble it carries its place, is no longer in flight, and leaves the accepted list; an accepted AT is applied to the 64 bytes at its
own BASE and OFFSET with the operation, lanes and data of its message, and an accepted RD is served. One whose memory no longer serves it
ends without an effect (DEDUCED, log 213). The nibble mask of a WR travels beside its message (DESIGN CHOICE, log 16); the codes of ARG are
free values. -/
def Obligations.WindowRequestsAreJudgedAndAppliedOnce : Prop :=
  (∀ (m : Msg) (s : State), m.dpkg = s.pkg →
     let k := 131072 * m.ddie + m.slot
     let g := s.slot k
     g.bad = false →
     let closed := g.st = .free ∨ g.st = .closing
     let stale := m.isBound = true ∧ m.gen ≠ g.ogen
     let denied (bit : Nat) := aclHas g.acl m.spkg m.spart = false ∨ bitOf g.perm bit = false
     let outside := g.len < m.off + 16 * m.len
     let placed := s.placeErr (g.base + m.off) (16 * m.len) = none
     let accepts (i : Instr) : Prop := ∃ t a, exec i s = .next t ∧ t.accepted = s.accepted ++ [a] ∧
       t.slot k = { g with inflight := g.inflight + 1 } ∧ a.die = m.ddie ∧ a.slot = m.slot ∧ a.addr = memKey (g.base + m.off) ∧
       a.ogen = g.ogen ∧ a.msg = m ∧ t.mem = s.mem ∧ ∀ j, j ≠ k → t.slot j = s.slot j
     let refuses (i : Instr) : Prop := ∃ t, exec i s = .next t ∧ t.slot k = g ∧ t.accepted = s.accepted ∧
       t.odGet 0x5310 (m.ddie + 1) = (s.odGet 0x5310 (m.ddie + 1) + 1) % 2 ^ 64 ∧ t.mem = s.mem ∧ ∀ j, j ≠ k → t.slot j = s.slot j
     let holds (i : Instr) : Prop := ∃ t, exec i s = .next t ∧ t.heldReqs = s.heldReqs ++ [(m.ddie, m.slot, m)] ∧ t.slot k = g ∧
       t.accepted = s.accepted ∧ t.odGet 0x5311 (m.ddie + 1) = (s.odGet 0x5311 (m.ddie + 1) + 1) % 2 ^ 64 ∧ t.mem = s.mem
     let ready := s.isFront m = true ∧ s.portStalled m = false
     (ready → g.st = .opened → ¬ stale → ¬ outside → placed →
       (m.type = 0x01 → ¬ denied 0 → accepts (.linkRd m)) ∧ (m.type = 0x02 → ¬ denied 1 → accepts (.linkWr m)) ∧
       (m.type = 0x08 → ¬ denied 2 → accepts (.linkAt m)) ∧ (m.type = 0x09 → ¬ denied 2 → accepts (.linkKp m))) ∧
     (∀ (i : Instr) (bit : Nat), (i = .linkRd m ∧ m.type = 0x01 ∧ bit = 0) ∨ (i = .linkWr m ∧ m.type = 0x02 ∧ bit = 1)
         ∨ (i = .linkAt m ∧ m.type = 0x08 ∧ bit = 2) ∨ (i = .linkKp m ∧ m.type = 0x09 ∧ bit = 2) →
       (ready → (closed ∨ (g.st = .opened ∧ (stale ∨ denied bit ∨ outside ∨ ¬ placed))) → refuses i) ∧
       (ready → g.st = .pending → s.heldCount m.ddie < 256 → holds i) ∧
       ((¬ ready ∨ (g.st = .pending ∧ 256 ≤ s.heldCount m.ddie)) → exec i s = .next s))) ∧
  (∀ (id addr : Nat) (a : Accepted) (s : State), (s.accepted.find? fun b => b.id == id) = some a → s.memWf = true → field addr 49 48 ≠ 3 →
     let i := a.die * 131072 + a.slot
     let done (t : State) : Prop :=
       t.accepted = s.accepted.filter (fun b => b.id != id) ∧ t.slot i = { s.slot i with inflight := (s.slot i).inflight - 1 } ∧
       ∀ j, j ≠ i → t.slot j = s.slot j
     (∀ data nib, s.accessErr addr 1 none ≠ none → a.addr / 64 = memKey addr / 64 →
       ∃ t, exec (.bankWrite (.win id) addr data nib) s = .next t ∧ done t ∧ t.mem = s.mem) ∧
     (s.accessErr addr 1 none = none → s.clearingIn (memKey addr / 64 * 64) 64 = false →
     (∀ data nib, a.msg.type = 0x02 → a.addr = memKey addr → s.clearingIn a.addr a.msg.data.length = false →
       (s.sbWrite 513 id a.addr a.msg.data.length).2 = true →
       let mask (k : Nat) : Bool := match a.msg.mask with | some m => bitOf m k | none => true
       ∃ t, exec (.bankWrite (.win id) addr data nib) s = .next t ∧ done t ∧
       (∀ j b, a.msg.data[j]? = some b → (Mem.read t.mem (a.addr + j)).toNat =
         (if mask (2 * j) = true then b.toNat % 16 else (Mem.read s.mem (a.addr + j)).toNat % 16)
           + 16 * (if mask (2 * j + 1) = true then b.toNat / 16 else (Mem.read s.mem (a.addr + j)).toNat / 16)) ∧
       ∀ x, x < a.addr ∨ a.addr + a.msg.data.length ≤ x → Mem.read t.mem x = Mem.read s.mem x) ∧
     (∀ (x : BankArgs) (amount : BitVec 64) (fmt : Nat) (isMax : Bool) (lanes : BitVec 32) (l16 : BitVec 16) (l8 : BitVec 8) (data : Line),
       a.msg.type = 0x08 → a.addr / 64 = memKey addr / 64 → a.bankArgs = some x → (fmt = 0x04 ∨ fmt = 0x15) →
       s.clearingIn a.addr 64 = false → (s.sbWrite 513 id a.addr 64).2 = true →
       x.lanes = field a.msg.arg 39 8 ∧
       (x.op = 7 → s.badIn x.key 8 = none → ∃ t, exec (.bankFetchAdd (.win id) addr amount) s = .next t ∧ done t ∧
         Mem.readNat t.mem x.key 8 = min (2 ^ 64 - 1) (Mem.readNat s.mem x.key 8 + x.data) ∧
         ∀ y, y < x.key ∨ x.key + 8 ≤ y → Mem.read t.mem y = Mem.read s.mem y) ∧
       (x.op = 2 → ∃ t, exec (.bankAdd (.win id) addr fmt lanes data) s = .next t ∧ done t ∧
         t.mem = (s.lineAdd a.addr x.fmt x.lanes (natOf (a.msg.data.take 64))).mem) ∧
       (x.op = (if isMax = true then 3 else 4) → ∃ t, exec (.bankMaxMin (.win id) addr isMax fmt l16 data) s = .next t ∧ done t ∧
         t.mem = (s.lineExt a.addr isMax x.fmt x.lanes (natOf (a.msg.data.take 64))).mem) ∧
       (x.op = (if isMax = true then 5 else 6) → ∃ t, exec (.bankMaxMinIndex (.win id) addr isMax fmt l8 data) s = .next t ∧ done t ∧
         t.mem = (s.lineExtIndex a.addr isMax x.fmt x.lanes (natOf (a.msg.data.take 64))).mem)) ∧
     (a.msg.type = 0x01 → a.addr = memKey addr → s.clearingIn a.addr (16 * a.msg.len) = false →
       s.filling 513 id a.addr (16 * a.msg.len) = false → s.badIn a.addr (16 * a.msg.len) = none →
       ∃ t, exec (.bankRead (.win id) addr) s = .next t ∧ done t ∧ t.mem = s.mem)))

/-- R323, R326: a response is matched by its TAG. With no request of that tag it is counted as late. Otherwise the request is answered:
RDATA brings its data to the op that waits for it and its value to a WAIT, ADATA completes a SIGNAL with the old value, and a WACK for the
last record of a released unit ends that unit (R328). An OGEN other than the bound one ends the op with 0x0405. One behind another of its
port, channel and class waits. The die that counts a late response is log 67 (DEDUCED). R322, R326: a REFUSE ends the op whose request it
answers with the code it carries, naming the ticket of the record or read, and a request without an answer in time ends its op with 0x0407;
both leave memory as it is. The refused reread of a replay is left to its unit (R404). -/
def Obligations.ResponsesEndTheirRequest : Prop :=
  (∀ (m : Msg) (s : State), m.dpkg = s.pkg →
     (s.isFront m = false → ∀ i, i = Instr.rdata m ∨ i = .wack m ∨ i = .adata m ∨ i = .refuse m → exec i s = .next s) ∧
     (s.isFront m = true →
     (∀ i ty, ((i = Instr.rdata m ∧ ty = 0x10) ∨ (i = .wack m ∧ ty = 0x11) ∨ (i = .adata m ∧ ty = 0x12) ∨ (i = .refuse m ∧ ty = 0x13)) → m.type = ty →
       (∀ x ∈ s.txns, x.tag ≠ m.tag) →
       let die := if m.req < 128 then m.req / 32 else s.lead
       ∃ t, exec i s = .next t ∧ t.odGet 0x5312 (die + 1) = (s.odGet 0x5312 (die + 1) + 1) % 2 ^ 64 ∧ t.txns = s.txns ∧ t.cmds = s.cmds ∧
         t.arrived = s.arrived ∧ t.cores = s.cores ∧ t.mem = s.mem) ∧
     ∀ x, (s.txns.find? fun y => y.tag == m.tag) = some x →
       let w : Who := ⟨x.r, x.p, x.core, x.r / 64⟩
       let fresh := ∀ g, s.bound w x.pkg x.die x.slot = some g → g = m.gen
       (m.type = 0x10 → x.kind = .read → fresh → ∃ t, exec (.rdata m) s = .next t ∧ t.txns = s.txns.erase x ∧
         t.arrived = s.arrived ++ [{ r := x.r, p := x.p, core := x.core, pkg := x.pkg, die := x.die, slot := x.slot, off := x.off, data := m.data }] ∧
         t.cmds = s.cmds ∧ t.bound w x.pkg x.die x.slot = some m.gen ∧ t.mem = s.mem) ∧
       (m.type = 0x10 → x.kind = .waitRead → fresh → ∀ c, s.cmd x.r x.p = some c → c.phase = .running → ∃ t, exec (.rdata m) s = .next t ∧
         t.txns = s.txns.erase x ∧ t.mem = s.mem ∧
         t.cmds = (if field c.entry.toNat 383 320 ≤ natOf (m.data.take 8)
           then (s.updCmd x.r x.p fun d => { d with phase := .ended, result := natOf (m.data.take 8) }).cmds else s.cmds)) ∧
       (m.type = 0x11 → fresh → ∃ t, exec (.wack m) s = .next t ∧ t.txns = s.txns.erase x ∧ t.cmds = s.cmds ∧
         t.bound w x.pkg x.die x.slot = some m.gen ∧ t.mem = s.mem ∧ (x.unit = none → t.arrived = s.arrived ∧ t.ops = s.ops) ∧
         ∀ id u, x.unit = some id → s.unit x.core id = some u → u.st = .released → (∀ y ∈ (s.core x.core).outq, y.unit ≠ id) →
           (∀ z ∈ s.txns.erase x, ¬ (z.core = x.core ∧ z.unit = some id ∧ z.kind = .write)) →
           (∀ v ∈ (t.core x.core).units, v.id ≠ id) ∧
           t.ops = s.ops.map fun o => if o.r = u.r ∧ o.p = u.p ∧ u.isLast = true then { o with landed := o.landed + 1 } else o) ∧
       (m.type = 0x12 → x.kind = .signalAdd → fresh → ∃ t, exec (.adata m) s = .next t ∧ t.txns = s.txns.erase x ∧
         (∀ c, s.cmd x.r x.p = some c →
           let old := natOf (m.data.take 8)
           t.cmds = (s.updCmd x.r x.p fun d =>
             { d with phase := .ended, result := old, flags := d.flags ||| (if 2 ^ 64 ≤ old + field c.entry.toNat 383 320 then 2 ^ 8 else 0) }).cmds) ∧
         t.mem = s.mem) ∧
       (m.type = 0x11 → x.kind = .write → ¬ fresh → ∃ t, exec (.wack m) s = .next t ∧ t.txns = s.txns.erase x ∧ t.mem = s.mem ∧
         ∃ e : Err, e.code = 0x0405 ∧ t.cmds = (s.updCmd x.r x.p fun d => { d with err := some (d.err.getD e) }).cmds))) ∧
  (∀ (i : Instr) (code tag : Nat) (x : Txn) (s : State), (s.txns.find? fun y => y.tag == tag) = some x →
     ((∃ m : Msg, i = .refuse m ∧ m.type = 0x13 ∧ m.dpkg = s.pkg ∧ s.isFront m = true ∧ m.tag = tag ∧ code = m.status) ∨ (i = .remoteTimeout tag ∧ code = 0x0407)) →
     ∃ t e, exec i s = .next t ∧ e.code = code ∧ t.txns = s.txns.erase x ∧ t.mem = s.mem ∧ (x.kind ≠ .write → t.slots = s.slots) ∧
       (∀ j, { t.slot j with inflight := (s.slot j).inflight } = s.slot j) ∧
       (x.kind = .write → t.cmds = (s.updCmd x.r x.p fun d => { d with err := some (d.err.getD e) }).cmds) ∧
       (x.kind = .signalAdd ∨ x.kind = .waitRead →
         t.cmds = (s.updCmd x.r x.p fun d => { d with err := some (d.err.getD e), phase := .ended }).cmds) ∧
       (∀ k, x.ticket = some k → x.kind = .read ∨ x.kind = .write → e.dkind = 1 ∧ e.detail = k.toNat) ∧
       (x.kind = .read →
         t.cmds = (if s.rereads x = true then s.cmds else (s.updCmd x.r x.p fun d => { d with err := some (d.err.getD e) }).cmds) ∧
         ∃ y, t.arrived = s.arrived ++ [y] ∧ y.r = x.r ∧ y.p = x.p ∧ y.core = x.core ∧ y.err = code))

/-- R315, R317 to R319: a message of another package is routed once, by the table of the die it arrived at: it leaves by the port of its route,
through that port's arbiter when it comes from another die (R333), or is discarded and counted where the route is missing or the port is not
ON. A MGMT message of this package is handed to the DMPs. One behind another of its port, channel and class waits (R316). A message committed at
once at an idle egress arbiter is log 32, and one message in fresh flits of 240 bytes log 14 (both DESIGN CHOICE). -/
def Obligations.TransitMessagesAreRoutedOnce : Prop :=
  ∀ (pp : Nat) (m : Msg) (s : State), pp < 32 →
    let die := pp / 8
    (m.dpkg = s.pkg → exec (.transitMessage pp m) s = .next s) ∧
    (m.type = 0x20 → m.dpkg = s.pkg → s.isFront m = true → ∃ t, exec (.mgmt m) s = .next t ∧ t.mgmtIn = s.mgmtIn ++ [m] ∧ t.mem = s.mem ∧ t.accepted = s.accepted) ∧
    (m.dpkg ≠ s.pkg → (s.isFront m = false ∨ s.portStalled m = true) → exec (.transitMessage pp m) s = .next s) ∧
    (m.dpkg ≠ s.pkg → s.isFront m = true → s.portStalled m = false →
      ((∀ q, s.egressPort die m.dpkg = some q → s.linkOn q = false) →
        ∃ t, exec (.transitMessage pp m) s = .next t ∧ t.odGet 0x5312 (die + 1) = (s.odGet 0x5312 (die + 1) + 1) % 2 ^ 64 ∧
          t.egress = s.egress ∧ t.egressArb = s.egressArb ∧ t.mem = s.mem ∧ t.accepted = s.accepted) ∧
      ∀ q, s.egressPort die m.dpkg = some q → s.linkOn q = true →
        (q / 8 = die → (s.port q).retraining = true → ∃ t, exec (.transitMessage pp m) s = .next t ∧
          t.egress = s.egress ++ [⟨q, some pp, m⟩] ∧ t.mem = s.mem ∧ t.accepted = s.accepted) ∧
        (q / 8 = die → (s.port q).retraining = false → (∀ e ∈ s.egress, e.pp ≠ q) → (s.arbiter (.egress q)).committed = [] →
          let n := (32 + m.data.length + 239) / 240
          (32 + m.data.length + 63) / 64 ≤ (s.port q).credits.getD (2 * (vcOf m.type).getD 0 + s.leaveClass q (some pp) (m.f 7 7)) 0 →
          (s.port q).retry.length + n ≤ 512 →
          ∃ t, exec (.transitMessage pp m) s = .next t ∧ t.egress = s.egress ∧ (t.port q).retry.length = (s.port q).retry.length + n ∧
            t.odGet 0x5400 (q + 1) = (s.odGet 0x5400 (q + 1) + n) % 2 ^ 64 ∧ t.mem = s.mem ∧ t.accepted = s.accepted) ∧
        (q / 8 ≠ die → vcOf m.type ≠ some 1 → (s.port q).retraining = true → s.diesFenced.contains die = false →
          let v := s.arbiter (.egress q)
          v.cur = none → v.waiting = [] → ∃ t, exec (.transitMessage pp m) s = .next t ∧ t.egress = s.egress ∧
            (t.arbiter (.egress q)).committed = v.committed ++ [⟨q, some pp, m⟩] ∧
            (t.arbiter (.egress q)).owner = some (32 + (if die < q / 8 then die else die - 1)) ∧ t.mem = s.mem ∧ t.accepted = s.accepted))

/-- R310, R311, R312, R315, R329: a flit at a live port that is not retraining. One with uncorrectable FEC, or with a wrong FCRC, is discarded
and answered by a NAK in a flit of its own while the retry buffer has room; a good one out of sequence is only counted. The next one in sequence
advances the port's sequence, returns its credits, drops from the retry buffer what it acknowledges, and delivers its message, shown here for an
RD that fills its first two slots. The NAK leaves at once, in a flit of its own filled with zeros (logs 83 and 14, both DESIGN CHOICE). A die-to-die flit is delivered when its CRC holds and it is the next of its direction, and else changes nothing. -/
def Obligations.FlitsAreTakenInSequence : Prop :=
  (∀ (pp : Nat) (flit : BitVec 2048) (s : State), pp < 32 → (s.fnState .link pp = 2 ∨ s.fnState .link pp = 3) →
    (s.port pp).retraining = false →
    let f := flit.toNat
    let p := s.port pp
    let good := field f 127 96 = flitCrc flit
    (∀ fec, (fec = false ∨ ¬ good) → ∃ t, exec (.flitReceive pp fec 0 flit) s = .next t ∧ t.rx = s.rx ∧
      t.odGet 0x5404 (pp + 1) = (if fec = false then (s.odGet 0x5404 (pp + 1) + 1) % 2 ^ 64 else s.odGet 0x5404 (pp + 1)) ∧
      (p.retry.length < 512 →
        t.port pp = { p with
          txSeq := (p.txSeq + 1) % 4096, nak := false, owed := p.owed.map fun o => o - min 63 o
          retry := p.retry ++ [(p.txSeq, mkFlit p.txSeq p.lastAck true 15 p.owed (List.replicate 240 0))] } ∧
        t.odGet 0x5400 (pp + 1) = (s.odGet 0x5400 (pp + 1) + 1) % 2 ^ 64) ∧
      (512 ≤ p.retry.length → t.port pp = { p with nak := true })) ∧
    (good → field f 95 84 ≠ p.rxSeq →
      exec (.flitReceive pp true 0 flit) s = .next (s.odSet 0x5401 (pp + 1) ((s.odGet 0x5401 (pp + 1) + 1) % 2 ^ 64))) ∧
    (good → field f 95 84 = p.rxSeq → bitOf f 71 = false → s.fifoOf pp = [] →
      s.committedOf pp = [] → p.need = 0 → field f 67 64 = 0 →
      field f 133 128 = 0x01 → f / 2 ^ 384 = 0 →
      ∃ (t : State) (m : Msg), exec (.flitReceive pp true 0 flit) s = .next t ∧ t.rx = s.rx ++ [(pp, m)] ∧
        m.hdr.toNat = field f 383 128 ∧ m.data = [] ∧ t.mem = s.mem ∧ (∀ q, q ≠ pp → t.port q = s.port q) ∧
        t.odGet 0x5401 (pp + 1) = (s.odGet 0x5401 (pp + 1) + 1) % 2 ^ 64 ∧
        (t.port pp).rxSeq = (p.rxSeq + 1) % 4096 ∧
        (t.port pp).retry = p.retry.filter (fun e => 2048 ≤ (field f 83 72 + 4096 - e.1) % 4096) ∧
        ∀ i, i < 8 → (t.port pp).credits.getD i 0 = p.credits.getD i 0 + field f (21 + 6 * i) (16 + 6 * i))) ∧
  ∀ (pair seq : Nat) (up crcOk : Bool) (payload : List Byte) (s : State), pair < 6 →
    let k := 2 * pair + (if up = true then 1 else 0)
    let d := AMap.getD s.d2d k {}
    ((crcOk = true ∧ seq = d.expect) → exec (.d2dFlitReceive pair up crcOk seq payload) s = .next
      { s with d2d := AMap.set s.d2d k { d with expect := d.expect + 1, received := d.received ++ [payload] } }) ∧
    (¬ (crcOk = true ∧ seq = d.expect) → exec (.d2dFlitReceive pair up crcOk seq payload) s = .next s)

/-- R307, R311, R389, R412: a lane of a port that is ON or STOPPING that loses lock, or has more than 2.125 × 10⁵ corrected symbols in 1 s (2.24 × 10⁵ in extended mode), is
removed: the port retrains without it while a width of at least MIN_W is left, and goes to FAULTED, its retry buffer discarded, when none is. A
retrain that fails does so too; one that ends well, whichever end began it, resends what was not acknowledged, and the port goes on at the widest
width that the lanes removed at either end leave. The far end's lanes as an operand are log 162, what 0x5402 counts log 82 (both DEDUCED). -/
def Obligations.RemovedLanesNarrowTheirPort : Prop :=
  ∀ (pp : Nat) (s : State), pp < 32 → s.fnState .link pp = 2 ∨ s.fnState .link pp = 3 →
    let p := s.port pp
    let minW := field (s.odGet 0x3141 (pp + 1)) 5 4
    let fits (rm : List Nat) (w : Nat) : Prop := ∃ k, k < 2 ^ w ∧ ∀ l, l < 8 → l / (8 / 2 ^ w) = k → l ∉ rm
    let faulted (t : State) (rm : List Nat) : Prop :=
      t.fnState .link pp = 4 ∧ (t.port pp).retry = [] ∧ (t.port pp).removed = rm ∧ (∀ e ∈ t.egress, e.pp ≠ pp) ∧ t.committedOf pp = []
    (minW < 3 → ∀ (lane : Nat) (i : Instr), lane < 8 → lane ∉ p.removed →
      (i = .laneLossOfLock pp lane ∨
        ∃ n, i = .laneFecWindow pp lane n ∧ (if bitOf (s.odGet 0x4140 (pp + 1)) 4 = true then 224000 else 212500) < n) →
      ∃ t, exec i s = .next t ∧ t.mem = s.mem ∧ (∀ q, q ≠ pp → t.port q = s.port q) ∧
        ((∃ w, w ≤ minW ∧ fits (p.removed ++ [lane]) w) →
          t.fnState .link pp = s.fnState .link pp ∧ t.egress = s.egress ∧
          t.port pp = { p with removed := p.removed ++ [lane], retraining := true
                               removals := AMap.set p.removals lane (AMap.getD p.removals lane 0 + 1) }) ∧
        (¬ (∃ w, w ≤ minW ∧ fits (p.removed ++ [lane]) w) → faulted t (p.removed ++ [lane]))) ∧
    (∀ lane n, lane < 8 → n ≤ (if bitOf (s.odGet 0x4140 (pp + 1)) 4 = true then 224000 else 212500) →
      exec (.laneFecWindow pp lane n) s = .next s) ∧
    (∀ lane, ∃ t, exec (.linkRetrain pp lane false) s = .next t ∧ faulted t p.removed) ∧
    (minW < 3 → ∀ lane far, (¬ ∃ w, w ≤ minW ∧ fits (p.removed ++ lanesOf far.toNat) w) →
      ∃ t, exec (.linkRetrain pp ⟨lane, far⟩ true) s = .next t ∧ faulted t p.removed) ∧
    (s.fifoOf pp = [] → s.committedOf pp = [] → ∀ far, (∃ w, w ≤ minW ∧ fits (p.removed ++ lanesOf far.toNat) w) →
      ∃ t, exec (.linkRetrain pp ⟨none, far⟩ true) s = .next t ∧ t.mem = s.mem ∧
      (t.port pp).retraining = false ∧ (t.port pp).resent = [] ∧ t.fnState .link pp = s.fnState .link pp ∧ (t.port pp).retry = p.retry ∧ (t.port pp).removed = p.removed ∧
      t.odGet 0x5402 (pp + 1) = (if p.retry = [] then s.odGet 0x5402 (pp + 1) else (s.odGet 0x5402 (pp + 1) + p.retry.length) % 2 ^ 64) ∧
      ((∃ x ∈ p.resent, 16 ≤ x.2) → bitOf (t.odGet 0x4141 (pp + 1)) 0 = true) ∧
      ∀ w, w < 3 → fits (p.removed ++ lanesOf far.toNat) w → (∀ v, v < w → ¬ fits (p.removed ++ lanesOf far.toNat) v) →
        field (t.odGet 0x4140 (pp + 1)) 6 5 = w ∧ (∀ l, l < 8 → bitOf (t.odGet 0x4140 (pp + 1)) (7 + l) = true →
          l ∉ p.removed ∧ bitOf far.toNat l = false) ∧ (field (s.odGet 0x4140 (pp + 1)) 6 5 < w →
        t.odGet 0x5405 (pp + 1) = (s.odGet 0x5405 (pp + 1) + 1) % 2 ^ 64 ∧
        bitOf (t.odGet 0x4141 (pp + 1)) 1 = true ∧ (t.port pp).narrowed = true))

-- ## The Almanac (10)

/-- R239: an ALMANAC_SAVE whose checks pass writes the entries of its range to memory, 96 bytes each, in order, and changes no entry; a
granule that they cover whole no longer fails its check. Where none that fails is covered in part, nothing else changes. R238, R240: an
ALMANAC_LOAD checks its whole image first. With a bad entry it ends with 0x0112, naming the entry, and loads none; otherwise every entry of
the range is the image's, owned by the command's partition, and no other entry changes. R235: when the pre-pass of an op on an invalid
Almanac entry has ended, the entry is valid with the pre-pass maximum as its only one, E_USE and E_NEXT agree, the op is flagged COLD and
counted for the die, and its blocks begin again with epochs that no earlier ticket had (log 157, DESIGN CHOICE: R257 gives epoch 0 at first
issue). -/
def Obligations.AlmanacEntriesAreSavedLoadedAndSeeded : Prop :=
  (∀ (r p : Nat) (c : Cmd) (s : State), s.Holds r p .started 0x60 c → s.almErr c true = none → s.memWf = true →
     let a := memKey (field c.entry.toNat 319 256)
     let die := field c.entry.toNat 383 382
     let first := field c.entry.toNat 366 353
     let n := field c.entry.toNat 381 367
     s.clearingIn a (96 * n) = false → (∀ i, i < n → (s.almEntry (almIndex die (first + i))).bad = false) →
     ∃ t, exec (.almanacSave r p) s = .next t ∧
       (∀ i, i < n → Mem.readNat t.mem (a + 96 * i) 96 = (s.almEntry (almIndex die (first + i))).bits % 2 ^ 768) ∧
       (∀ x, x < a ∨ a + 96 * n ≤ x → Mem.read t.mem x = Mem.read s.mem x) ∧
       t.cmd r p = some { c with phase := .ended, result := 0 } ∧
       ((∀ g ∈ s.bad, g + granule g ≤ a ∨ a + 96 * n ≤ g ∨ (a ≤ g ∧ g + granule g ≤ a + 96 * n)) →
         (∀ g, g ∈ t.bad ↔ g ∈ s.bad ∧ ¬ (a ≤ g ∧ g + granule g ≤ a + 96 * n)) ∧
         { t with mem := s.mem, cmds := s.cmds, bad := s.bad, poisoned := s.poisoned, groups := s.groups } = s)) ∧
  (∀ (r p : Nat) (c : Cmd) (s : State), s.Holds r p .started 0x61 c → s.almErr c false = none →
     let a := memKey (field c.entry.toNat 319 256)
     let die := field c.entry.toNat 383 382
     let first := field c.entry.toNat 366 353
     let n := field c.entry.toNat 381 367
     s.clearingIn a (96 * n) = false → s.snapshotHeld die first n = false → s.badIn a (96 * n) = none →
     s.placeErr (field c.entry.toNat 319 256) (96 * n) = none →
     (∀ i, i < n → almImageBad (Mem.readNat s.mem (a + 96 * i) 96) = true →
       (∀ j, j < i → almImageBad (Mem.readNat s.mem (a + 96 * j) 96) = false) →
       exec (.almanacLoad r p) s = .next (s.updCmd r p fun d =>
         { d with err := some (d.err.getD { code := 0x0112, dkind := 5, detail := first + i }), phase := .ended })) ∧
     ((∀ i, i < n → almImageBad (Mem.readNat s.mem (a + 96 * i) 96) = false) →
       ∃ t : State, exec (.almanacLoad r p) s = .next t ∧
         (∀ i, i < n → t.almEntry (almIndex die (first + i)) = Alm.ofBits (Mem.readNat s.mem (a + 96 * i) 96) (some (r / 64))) ∧
         (∀ k, (∀ i, i < n → k ≠ almIndex die (first + i)) → t.almEntry k = s.almEntry k) ∧
         t.cmd r p = some { c with phase := .ended, result := 0 } ∧ { t with alm := s.alm, cmds := s.cmds } = s)) ∧
  (∀ (r p e : Nat) (c : Cmd) (o : Op) (s : State), r < 512 → s.cmd r p = some c → s.runningOp r p = some o → o.seedEntry = some e →
     s.opQuiet o = true → (s.almEntry (almIndex (field c.hC 19 18) e)).bad = false →
     let die := field c.hC 19 18
     let i := almIndex die e
     ∃ t, exec (.almanacSeed r p) s = .next t ∧
       (t.almEntry i).valid = true ∧ (t.almEntry i).count = 1 ∧ (t.almEntry i).head = 1 ∧ (t.almEntry i).use = (t.almEntry i).next ∧
       (t.almEntry i).hist = (s.almEntry i).hist.set 0 (AMap.getD o.maxima e 0) ∧ (t.almEntry i).owner = (s.almEntry i).owner ∧
       (∀ k, k ≠ i → t.almEntry k = s.almEntry k) ∧
       t.odGet 0x5301 (die + 1) = (s.odGet 0x5301 (die + 1) + 1) % 2 ^ 64 ∧
       t.cmd r p = some { c with flags := c.flags ||| 2 ^ 11 } ∧
       (∃ o', t.op r p = some o' ∧ o'.maxima = [] ∧ o'.landed = 0 ∧ (∀ x ∈ o'.snaps, x.entry = e → x.seeding = false) ∧
         ∀ b ∈ o'.blocks, b.lost = false → b.next = 0 ∧ b.reissue = [] ∧ b.base = b.top) ∧
       t.mem = s.mem ∧ t.cores = s.cores)

-- ## Arbitration (14)

/-- R334, R336 to R338: a request at an arbiter, `cycles` after its last event, when what it has committed has left as far as it can: a
masked one asks for nothing; the requester that the grant is parked on is granted at once when nothing waits; its requester's first that
outranks the transfer in progress takes its grant away, where grants are not taken at 256-byte boundaries (R339), and the loser asks again
for all of its bytes; every other request waits. The waiting ones get their turn estimates, and no grant stays parked on a masked requester.
R333: at an egress arbiter without a transfer in progress, a cycle grants the waiting request of the highest position in the chain. R334: at
a region port without a transfer in progress, a cycle grants that of two waiting requesters whose latest-service time is earlier, modulo
2^24, whichever asked first. R341: clearing a die's arbiter counters empties the records of its region and egress arbiters and touches no
other arbiter, nor what any of them is doing. -/
def Obligations.ArbitersGrantByRank : Prop :=
  (∀ (a : Arb) (cycles req bytes : Nat) (kind : Traffic) (s : State), a.ok = true → a.okReq req = true →
     bytes ≤ (match a with | .region _ => 4096 | .egress _ => 4128) →
     let s' := (s.setArbiter a ((s.arbiter a).run a (s.gentle a) cycles)).flushArb a
     let v := s'.arbiter a
     let x : ArbReq :=
       { req := req, kind := kind, total := bytes, left := bytes, latest := s'.latest a v.cycle req kind, since := v.cycle, granted := 0 }
     let takesAway (c : ArbReq) : Prop := s.gentle a = false ∧ outranks a v.owner x c = true ∧ ∀ y ∈ v.waiting, y.req ≠ req
     (v.cycle = ((s.arbiter a).run a (s.gentle a) cycles).cycle ∧ v.cur = ((s.arbiter a).run a (s.gentle a) cycles).cur ∧
       v.waiting = ((s.arbiter a).run a (s.gentle a) cycles).waiting) ∧
     ((s'.arbMasked a req = true ∨ bytes = 0) → exec (.arbiterRequest a cycles req kind bytes) s = .next ((s'.tellTurns a).unpark a)) ∧
     (s'.arbMasked a req = false → bytes ≠ 0 → ∃ u, exec (.arbiterRequest a cycles req kind bytes) s =
         .next (((s'.setArbiter a u).tellTurns a).unpark a) ∧
       u.cycle = v.cycle ∧ u.committed = v.committed ∧
       (v.cur = none → v.waiting = [] → v.owner = some req →
         u.cur = some { x with granted := v.cycle } ∧ u.owner = some req ∧ u.waiting = [] ∧
         (AMap.getD u.recs req {}).grants = min (2 ^ 48 - 1) ((AMap.getD v.recs req {}).grants + 1)) ∧
       (∀ c, v.cur = some c → takesAway c →
         u.cur = none ∧ u.waiting = { c with left := c.total, latest := s'.latest a v.cycle c.req c.kind } :: v.waiting ++ [x] ∧ u.recs = v.recs) ∧
       ((v.cur = none ∧ ¬ (v.waiting = [] ∧ v.owner = some req) ∨ ∃ c, v.cur = some c ∧ ¬ takesAway c) →
         u.cur = v.cur ∧ u.waiting = v.waiting ++ [x] ∧ u.owner = v.owner ∧ u.recs = v.recs))) ∧
  (∀ (pp : Nat) (g : Bool) (v : Arbiter), v.cur = none → v.waiting ≠ [] →
     ∃ x ∈ v.waiting, (v.tick (.egress pp) g).cur = some { x with granted := v.cycle + 1 } ∧ (∀ y ∈ v.waiting, y.req ≤ x.req) ∧
       (v.tick (.egress pp) g).owner = some x.req ∧ (v.tick (.egress pp) g).waiting = v.waiting.erase x ∧
       (v.tick (.egress pp) g).cycle = v.cycle + 1) ∧
  (∀ (rr : Nat) (g : Bool) (v : Arbiter) (x y : ArbReq), v.cur = none → v.waiting = [x, y] ∨ v.waiting = [y, x] → x.req ≠ y.req →
     x.latest < 2 ^ 24 → y.latest < 2 ^ 24 → 0 < ((y.latest : Int) - x.latest) % 2 ^ 24 → ((y.latest : Int) - x.latest) % 2 ^ 24 < 2 ^ 23 →
     (v.tick (.region rr) g).cur = some { x with granted := v.cycle + 1 } ∧ (v.tick (.region rr) g).waiting = [y] ∧
       (v.tick (.region rr) g).owner = some x.req) ∧
  (∀ (die : Nat) (s : State), die < 4 → s.serving = true → ∃ t : State, exec (.arbiterCountersClear die) s = .next t ∧
     (∀ rr, t.arbiter (.region rr) =
       if rr / 4 = die then { s.arbiter (.region rr) with recs := [] } else s.arbiter (.region rr)) ∧
     (∀ pp, t.arbiter (.egress pp) =
       if pp / 8 = die then { s.arbiter (.egress pp) with recs := [] } else s.arbiter (.egress pp)) ∧
     { t with regionArb := s.regionArb, egressArb := s.egressArb } = s)

-- ## The object dictionary and its channels (16)

/-- R374 to R378, R381, R382: a READ without an open transfer is answered with the first segment of the value, 0x0901 where no entry is, 0x0904 where
the TYPE or LEN is wrong (LEN 0 in a READ: DEDUCED, log 99), and 0x0904 first where its OFFSET is not 0 (the order of the checks: DEDUCED, log 101); the next segments follow in the open transfer. An ABORT ends the transfer and is answered, an unknown command is
answered with 0x0904, and an idle transfer ends without an answer. A heartbeat carries SERVICE, the lead die, UPD_STATE, the package and the
seconds; in recovery it is sent too (log 117, DEDUCED). -/
def Obligations.RequestsAreAnsweredOnTheirChannel : Prop :=
  ∀ (ch : Chan) (frame : List Byte) (s : State),
    let q := parseOap frame
    let size := if ch = .can then 48 else 4080
    (s.hears ch frame = true → (s.channel ch).xfer = none → q.cmd = 1 → q.off = 0 → q.len = 0 →
      (s.odEntry q.index q.sub = none → ∃ t, exec (.oapRead ch frame) s = .next t ∧ s.Answers t ch q 0x0901 0 [] ∧
        (t.channel ch).xfer = none ∧ t.od = s.od ∧ t.mem = s.mem) ∧
      ∀ row, s.odEntry q.index q.sub = some row →
        let ty := if row.n ≠ 0 ∧ q.sub = 0 then 2 else row.ty
        (q.ty ≠ ty → ∃ t, exec (.oapRead ch frame) s = .next t ∧ s.Answers t ch q 0x0904 0 [] ∧ t.od = s.od ∧ t.mem = s.mem) ∧
        (q.ty = ty → q.index ≠ 0xF010 → ∃ t, exec (.oapRead ch frame) s = .next t ∧
          s.Answers t ch q 0 (s.odBytes q.index q.sub).length ((s.odBytes q.index q.sub).take size) ∧ t.od = s.od ∧ t.mem = s.mem ∧
          ((s.odBytes q.index q.sub).length ≤ size → (t.channel ch).xfer = none) ∧
          (size < (s.odBytes q.index q.sub).length → (t.channel ch).xfer = some
            { write := false, index := q.index, sub := q.sub, ty := q.ty, len := q.len, nextOff := size, nextSeq := (q.seq + 1) % 256
              data := s.odBytes q.index q.sub }))) ∧
    (s.hears ch frame = true → q.cmd = 1 → ∀ x, (s.channel ch).xfer = some x → x.write = false → x.index = q.index → x.sub = q.sub → x.ty = q.ty →
      x.len = q.len → x.nextOff = q.off → x.nextSeq = q.seq →
      ∃ t, exec (.oapRead ch frame) s = .next t ∧ s.Answers t ch q 0 x.data.length ((x.data.drop q.off).take size) ∧ t.od = s.od) ∧
    (s.hears ch frame = true → (s.channel ch).xfer = none → q.cmd = 1 → q.off ≠ 0 ∨ (q.len ≠ 0 ∧ s.odEntry q.index q.sub ≠ none) →
      ∃ t, exec (.oapRead ch frame) s = .next t ∧ s.Answers t ch q 0x0904 q.len [] ∧ (t.channel ch).xfer = none ∧ t.od = s.od) ∧
    (s.hears ch frame = true → q.cmd = 3 →
      ∃ t, exec (.oapAbort ch frame) s = .next t ∧ s.Answers t ch q 0 q.len [] ∧ (t.channel ch).xfer = none ∧ t.od = s.od) ∧
    (s.hears ch frame = true → (q.cmd = 0 ∨ 3 < q.cmd) →
      ∃ t, exec (.oapUnknownCommand ch frame) s = .next t ∧ s.Answers t ch q 0x0904 q.len [] ∧ (t.channel ch).xfer = (s.channel ch).xfer ∧
        t.od = s.od) ∧
    (∃ t, exec (.oapTransferTimeout ch) s = .next t ∧ (t.channel ch).xfer = none ∧ t.canTx = s.canTx ∧ t.msix = s.msix ∧ t.od = s.od) ∧
    ((s.serving = true ∨ s.boot = .recovery) → s.node ≠ 0 → s.odGet 0x1101 0 ≠ 0 → ∃ d, exec .heartbeat s = .next
      { s with canTx := s.canTx ++ [⟨false, 0x700 + s.node, d⟩] } ∧ d.length = 8 ∧
      natOf d = (field (s.odGet 0x4000 0) 2 0 + 2 ^ 6 * s.lead + 2 ^ 8 * updCode s.fw.upd + 2 ^ 16 * s.pkg
        + 2 ^ 32 * (s.timeUs / 1000000 % 2 ^ 32)))

/-- R376, R382, R383, R385, R386, R423, R436: a write to an RW entry whose value is in its range takes effect and is retained where it
differs from the reset value; one out of range, or of a wrong length, changes nothing. A bit of a W1C entry that is written 1 clears. A
one-frame OAP_WRITE does the same and is answered. The region map takes a value whose nibbles are in range while no ring of a losing or
gaining partition is enabled, and the regions that change hands stop, one that is starting as soon as it has started, and start again, once
their die's DMP runs. A write of bit 0 of 0x6004.00 empties the volatile fault log. R380: host port h writes the mailbox of its own number,
at offset 16,384 h of BAR0 (an index of 65,536 and more stands for a BAR0 offset, the model's choice, log 115): bytes of REQ, MB_DB, whose
bit 0 submits the 4,096 bytes that REQ reads as, and DONE, which a 1 clears. The other mailbox and other offsets take no write. -/
def Obligations.WritesTakeEffectWhole : Prop :=
  (∀ s : State, s.serving = true →
     (∀ index lo hi, (index, lo, hi) ∈ [(0x1101, 0, 10000), (0x1102, 0, 3), (0x3121, 1, 65535), (0x3142, 1, 1000000), (0x3143, 10, 1000000),
         (0x3170, 1, 255), (0x3180, 900, 1900), (0x3181, 800, 2250)] → ∀ row sub value,
       odRow index = some row → odHolds row sub = true →
       let v := natOf value
       let stored : State :=
         { s with od := AMap.set s.od (index * 256 + sub) v
                  retained := if v = row.reset then AMap.erase s.retained (index * 256 + sub) else AMap.set s.retained (index * 256 + sub) v }
       (value.length = row.size → lo ≤ v → v ≤ hi → exec (.registerWrite index sub value) s = .next stored) ∧
       (value.length ≠ row.size ∨ v < lo ∨ hi < v → exec (.registerWrite index sub value) s = .next s) ∧
       (∀ ch frame, s.hears ch frame = true → (s.channel ch).xfer = none →
         let q := parseOap frame
         q.cmd = 2 → q.off = 0 → q.index = index → q.sub = sub → q.ty = row.ty → q.len = row.size → value = q.data.take row.size →
         row.size ≤ q.data.length →
         ∃ t, exec (.oapWrite ch frame) s = .next t ∧ (t.channel ch).xfer = none ∧
           (lo ≤ v → v ≤ hi → s.Answers t ch q 0 q.len [] ∧ t.od = stored.od ∧ t.retained = stored.retained) ∧
           (v < lo ∨ hi < v → s.Answers t ch q 0x0903 q.len [] ∧ t.od = s.od ∧ t.retained = s.retained))) ∧
     (∀ index mask, (index, mask) ∈ [(0x4105, 0x1FF), (0x4200, 0xF), (0x4300, 0x1F), (0x4400, 0x3E)] → ∀ row sub (value : List Byte),
       odRow index = some row → odHolds row sub = true → value.length = 4 → natOf value &&& mask = natOf value →
       ∃ t, exec (.registerWrite index sub value) s = .next t ∧
         (∀ b, bitOf (t.odGet index sub) b = (bitOf (s.odGet index sub) b && !bitOf (natOf value) b)) ∧ { t with od := s.od } = s ∧
         ∀ j k, j * 256 + k ≠ index * 256 + sub → AMap.find t.od (j * 256 + k) = AMap.find s.od (j * 256 + k)) ∧
     (∀ value : List Byte, value.length = 8 →
       let v := natOf value
       let old := s.odGet 0x2010 0
       let nib (x i : Nat) : Nat := x / 16 ^ i % 16
       let legal := ∀ i, i < 16 → nib v i < 8 ∨ nib v i = 15
       let busy := ∃ i, i < 16 ∧ nib v i ≠ nib old i ∧ ∃ kg ∈ s.rings, kg.2.st ≠ .disabled ∧ (kg.1 / 64 = nib v i ∨ kg.1 / 64 = nib old i) ∧ kg.1 < 512
       ((¬ legal ∨ busy) → exec (.partitionConfigWrite 0x2010 0 value) s = .next s) ∧
       (legal → ¬ busy → ∃ t, exec (.partitionConfigWrite 0x2010 0 value) s = .next t ∧ t.odGet 0x2010 0 = v ∧
         ∀ rr, rr < 16 → (nib v rr = nib old rr → t.fnState .region rr = s.fnState .region rr) ∧
           (nib v rr ≠ nib old rr → s.fw.dmpDown.contains (rr / 4) = true →
             t.fnStatus .region rr = s.fnStatus .region rr ∧ (.region, rr) ∈ t.bounce) ∧
           (nib v rr ≠ nib old rr → s.fw.dmpDown.contains (rr / 4) = false →
             (s.fnState .region rr = 2 → s.fnEnabled .region rr = true → t.fnStatus .region rr = 11) ∧
             (s.fnState .region rr = 3 → t.fnStatus .region rr = s.fnStatus .region rr) ∧
             (s.fnState .region rr = 1 → t.fnStatus .region rr = s.fnStatus .region rr ∧ (.region, rr) ∈ t.bounce) ∧
             (s.fnState .region rr = 0 → s.fnEnabled .region rr = true → nib v rr < 8 → t.fnStatus .region rr = 1)))) ∧
     (∀ w : W32, exec (.faultRingClear w) s = .next
       (if w.toNat % 2 = 1 then { s with log := { s.log with ring := [], copy := [] } } else s))) ∧
  (∀ (h o : Nat) (bytes : List Byte) (s : State), h < 2 → (s.serving = true ∧ s.portUp h = true ∨ s.boot = .recovery) →
     let ch : Chan := if h = 1 then .mb1 else .mb0
     let c := s.channel ch
     let at_ (off : Nat) : Instr := .registerWrite (0x10000 + off) h bytes
     (o + bytes.length ≤ 0x1000 → ∃ req, exec (at_ (0x4000 * h + o)) s = .next (s.setChannel ch { c with req := req }) ∧ req.length = 4096 ∧
       ∀ i, i < 4096 → req.getD i 0 = if o ≤ i ∧ i < o + bytes.length then bytes.getD (i - o) 0 else c.req.getD i 0) ∧
     (∀ frame : List Byte, bytes ≠ [] → bitOf (natOf bytes) 0 = true → frame.length = 4096 → (∀ i, i < 4096 → frame.getD i 0 = c.req.getD i 0) →
       let q := parseOap frame
       exec (at_ (0x4000 * h + 0x2000)) s = exec (if q.cmd = 1 then .oapRead ch frame else if q.cmd = 2 then .oapWrite ch frame
         else if q.cmd = 3 then .oapAbort ch frame else .oapUnknownCommand ch frame) s) ∧
     (bytes ≠ [] → bitOf (natOf bytes) 0 = false → exec (at_ (0x4000 * h + 0x2000)) s = .next s) ∧
     (bitOf (natOf bytes) 1 = true → bytes ≠ [] → exec (at_ (0x4000 * h + 0x2008)) s = .next (s.setChannel ch { c with done := false })) ∧
     (bitOf (natOf bytes) 1 = false → exec (at_ (0x4000 * h + 0x2008)) s = .next s) ∧
     ∀ off, (off < 0x4000 * h ∨ 0x4000 * h + 0x1000 ≤ off) → off ≠ 0x4000 * h + 0x2000 → off ≠ 0x4000 * h + 0x2008 → bytes ≠ [] →
       exec (at_ off) s = .next s)

-- ## Functions, settings and firmware (16)

/-- R271, R386 to R390, R399: a write to an enable stores the enable and acts on the function's state: OFF begins to start, ON begins to stop, STARTING
and STOPPING remember the other wish, FAULTED goes OFF on a 0 (a retired core stays); while the die's DMP restarts, the transition is latched instead.
A start that is done takes its function ON, or FAULTED when it failed, and a region that has changed hands stops and starts again; a stop that
is done takes it OFF. A unit of memory that has been cleared is
accessed again. -/
def Obligations.FunctionsFollowTheirEnables : Prop :=
  ∀ (k : FnKind) (n : Nat) (s : State), k.ok n = true →
    (∀ on, s.serving = true →
      (fnDie k n ∉ s.fw.dmpDown → ∃ t, exec (.functionEnableWrite k n on) s = .next t ∧ t.fnEnabled k n = on ∧
        (s.fnStatus k n = 2 → t.fnStatus k n = (if on = true then 2 else 3)) ∧
        (s.fnStatus k n = 0 → (on = false → t.fnStatus k n = 0) ∧
          (on = true → (k = .stack ∨ k = .link ∨ k = .host ∨ (k = .region ∧ s.regionPart n ≠ none)) → t.fnStatus k n = 1)) ∧
        (s.fnStatus k n = 1 → t.fnStatus k n = (if on = true then 1 else 17)) ∧
        (s.fnStatus k n = 3 → t.fnStatus k n = (if on = true then 11 else 3)) ∧
        (s.fnStatus k n = 4 → (k = .core → s.isRetired n = false) → t.fnStatus k n = (if on = true then 4 else 0)) ∧
        (k = .core → s.fnStatus k n = 4 → s.isRetired n = true → t.fnStatus k n = 4)) ∧
      (fnDie k n ∈ s.fw.dmpDown → ∃ t, exec (.functionEnableWrite k n on) s = .next t ∧ t.fnEnabled k n = on ∧
        t.fw = { s.fw with latched := s.fw.latched ++ [(k, n, on)] } ∧ { t with od := s.od, retained := s.retained, fw := s.fw } = s)) ∧
    (s.fnStatus k n = 1 →
      (∃ t, exec (.functionStartDone k n false) s = .next t ∧ t.fnStatus k n = 4) ∧
      (k = .region → (k, n) ∈ s.bounce → s.fnEnabled k n = true → fnDie k n ∉ s.fw.dmpDown →
        ∃ t, exec (.functionStartDone k n true) s = .next t ∧ t.fnStatus k n = 11) ∧
      (((k, n) ∉ s.bounce ∨ fnDie k n ∈ s.fw.dmpDown) → (k = .region ∨ k = .stack ∨ (k = .host ∧ s.perst n = false)) →
        ∃ t, exec (.functionStartDone k n true) s = .next t ∧ t.fnStatus k n = 2 ∧
          (k = .stack → ∀ u, u < s.unitsPerDie → (s.unitPart (n / 2) u).isSome = true → n / 2 * 256 + u ∈ t.clearing)) ∧
      (k = .host → s.perst n = true → exec (.functionStartDone k n true) s = .next s)) ∧
    (s.fnStatus k n = 3 →
      (s.stopReady k n = false → exec (.functionStopDone k n) s = .next s) ∧
      (s.stopReady k n = true → k ≠ .core → ∃ t, exec (.functionStopDone k n) s = .next t ∧ t.fnStatus k n = 0 ∧
        (k = .region → ∀ a, n / 4 * 2 ^ 50 + 2 ^ 48 + n % 4 * 2 ^ 30 ≤ a → a < n / 4 * 2 ^ 50 + 2 ^ 48 + n % 4 * 2 ^ 30 + 0x6000000 →
          Mem.read t.mem a = 0)) ∧
      (s.stopReady k n = true → k = .core → s.spareOf (n / 9) ≠ some n → ∃ t, exec (.functionStopDone k n) s = .next t ∧ t.fnStatus k n = 0)) ∧
    ∀ die unit, die < 4 → unit < 252 →
      ((die * 256 + unit ∈ s.clearing ∧ s.fnState .stack (2 * die) = 2 ∧ s.fnState .stack (2 * die + 1) = 2) →
        exec (.hbmUnitClearDone die unit) s = .next
          (({ s with clearing := s.clearing.filter fun x => x != die * 256 + unit } : State).odSet 0x5306 (die + 1)
            ((s.odGet 0x5306 (die + 1) + 1) % 2 ^ 64))) ∧
      (¬ (die * 256 + unit ∈ s.clearing ∧ s.fnState .stack (2 * die) = 2 ∧ s.fnState .stack (2 * die + 1) = 2) →
        exec (.hbmUnitClearDone die unit) s = .next s)

/-- R392 to R395: a commit with 0x00A5, while none runs, puts the records of the committable entries into the lowest unprogrammed generation under the
next SEQ, in a copy at the lead and one at the standby lead. Until the programming ends no copy passes its CRC (log 120, DEDUCED); then both do,
and after a readback that does not match, which sets a sticky bit, at most one of them (log 168, DESIGN CHOICE). Another value commits nothing, nor
does a commit without a free generation or with records that do not fit. -/
def Obligations.CommitsProgramOneGeneration : Prop :=
  ∀ (s : State),
    (∀ v, s.serving = true → (v ≠ 0xA5 ∨ s.commit ≠ none) → exec (.otpCommit v) s = .next s) ∧
    (∀ g, s.serving = true → s.commit = none → g ∈ [1, 2, 3, 4, 5] → AMap.find s.otp g = none →
      (∀ h, 0 < h → h < g → AMap.find s.otp h ≠ none) → (s.cpRecords.map fun r => 8 + (r.vlen + 7) / 8 * 8).sum ≤ 2032 →
      ∃ t : State, exec (.otpCommit 0xA5) s = .next t ∧ t.commit = some g ∧ (∀ h, h ≠ g → AMap.find t.otp h = AMap.find s.otp h) ∧
        (∃ x, AMap.find t.otp g = some x ∧ x.recs = s.cpRecords ∧ x.valid = false ∧
          (∀ h y, AMap.find s.otp h = some y → y.valid = true → AMap.wf s.otp = true → y.seq < x.seq)) ∧
        { t with otp := s.otp, commit := s.commit } = s) ∧
    ((∀ g, g ∈ [1, 2, 3, 4, 5] → AMap.find s.otp g ≠ none) ∨ 2032 < (s.cpRecords.map fun r => 8 + (r.vlen + 7) / 8 * 8).sum →
      exec (.otpCommit 0xA5) s = .next s) ∧
    (∀ g x, s.commit = some g → AMap.find s.otp g = some x →
      let holds (y : OtpGen) : Prop := { y.lead with crc := x.lead.crc } = x.lead ∧ { y.standby with crc := x.standby.crc } = x.standby
      (∃ y, exec (.otpCommitDone true) s = .next { s with commit := none, otp := AMap.set s.otp g y } ∧ holds y ∧
        (x.lead.seq ≠ 0 → y.lead.valid = true) ∧ (x.standby.seq ≠ 0 → y.standby.valid = true)) ∧
      ∃ y, exec (.otpCommitDone false) s = .next
        { s with
          commit := none, otp := AMap.set s.otp g y, freeCtr := s.freeCtr + 1
          od := AMap.set s.od (0xF001 * 256) (s.odGet 0xF001 0 ||| 2 ^ 9) } ∧ holds y ∧ (y.lead = x.lead ∨ y.standby = x.standby)) ∧
    (s.commit = none → ∀ b, exec (.otpCommitDone b) s = .next s)

/-- R398, R448: the bytes of an image go in sequence into the slot that does not run, which is RECEIVED with its last byte; VERIFY takes it to VERIFYING,
and it is VERIFIED exactly when its header is one of this product, its public key's SHA-384 stands in its key slot, which is not revoked, its
signature and the hash of its whole body hold, and its security version is from the least to 64 (log 189, DEDUCED); the constants of the standards and
the byte order of keys, hashes and signatures are log 171 (PRESUMED). While it is being
received UPD_STATE is IDLE (log 105, DEDUCED). What the slot then reads is an operand (log 194, DESIGN CHOICE). -/
def Obligations.ImagesAreReceivedAndVerified : Prop :=
  ∀ s : State, (s.serving = true ∨ s.boot = .recovery) →
    let put (t : State) (img : List Byte) : Prop :=
      t.imageOf (1 - s.odGet 0x1001 4 % 2) = img ∧ t.imageOf (s.odGet 0x1001 4 % 2) = s.imageOf (s.odGet 0x1001 4 % 2)
    let same (t : State) : Prop := { t with fw := s.fw } = s
    ((s.fw.upd = .idle ∨ s.fw.upd = .received ∨ s.fw.upd = .rejected) →
      (∀ total bytes, 0 < total → total ≤ 2 ^ 24 →
        ∃ t, exec (.firmwareImageWrite 0 total bytes) s = .next t ∧ put t bytes ∧ same t ∧
          (bytes.length < total → t.fw.upd = .idle ∧ t.fw.incomingTotal = total) ∧
          (total ≤ bytes.length → t.fw.upd = .received ∧ t.fw.incomingTotal = 0)) ∧
      (∀ bytes, let img := s.imageOf (1 - s.odGet 0x1001 4 % 2)
        0 < img.length → 0 < s.fw.incomingTotal →
        ∃ t, exec (.firmwareImageWrite img.length s.fw.incomingTotal bytes) s = .next t ∧ put t (img ++ bytes) ∧ same t ∧
          (img.length + bytes.length < s.fw.incomingTotal → t.fw.upd = .idle) ∧
          (s.fw.incomingTotal ≤ img.length + bytes.length → t.fw.upd = .received))) ∧
    (¬ (s.fw.upd = .idle ∨ s.fw.upd = .received ∨ s.fw.upd = .rejected) → ∀ offset total bytes,
      exec (.firmwareImageWrite offset total bytes) s = .next s) ∧
    (s.fw.upd = .received → exec .fwVerify s = .next { s with fw := { s.fw with upd := .verifying } }) ∧
    (s.fw.upd ≠ .received → exec .fwVerify s = .next s) ∧
    (s.fw.upd = .verifying → ∀ flash : Option (List Byte),
      let img := flash.getD (s.imageOf (1 - s.odGet 0x1001 4 % 2))
      let h := natOf (img.take 512)
      let ok : Prop := field h 31 0 = 0x51464A4E ∧ field h 39 32 = field (s.odGet 0x1000 0) 23 16 ∧ field h 2167 128 = 0 ∧
        field h 47 40 ∉ s.fw.keyRevoked ∧ s.fw.imageKey (field h 47 40) = some (BitVec.ofNat 384 (sha384 ((img.drop 319).take 97))) ∧
        sigVerifies ((img.drop 416).take 96) ((img.drop 319).take 97) (img.take 416) = true ∧
        beNat ((img.drop 271).take 48) = sha384 ((img.drop 512).take (field h 127 96)) ∧
        field h 127 96 ≤ 2 ^ 24 - 512 ∧ 512 + field h 127 96 ≤ img.length ∧ s.fw.secMin ≤ field h 63 48 ∧ field h 63 48 ≤ 64
      (ok → exec (.fwVerifyDone flash) s = .next ({ s with fw := { s.fw with upd := .verified } }.setImage (1 - s.odGet 0x1001 4 % 2) img)) ∧
      (¬ ok → exec (.fwVerifyDone flash) s = .next ({ s with fw := { s.fw with upd := .rejected } }.setImage (1 - s.odGet 0x1001 4 % 2) img))) ∧
    (s.fw.upd ≠ .verifying → ∀ flash, exec (.fwVerifyDone flash) s = .next s)

/-- R399, R400, R415, R416: ACTIVATE of a VERIFIED image restarts the DMPs from it one by one, in the order 1, 3, 2, 0 of the dies that are not fenced, and ends in
TRIAL, with the running slot its target (log 119); a die whose DMP is down already is waited for, and a lead waits for a standby that is down. The restart of the lead's DMP advances the epoch under which it owns locks, the home lead taking
its role back as it returns (logs 118, 122; all DEDUCED), and the die that returns serves what was latched for it. CONFIRM keeps the image: its
slot is the one to boot, and the least security version is raised to its own. REVERT and the end of the TRIAL restart the DMPs from the other image. A DMP that does
not return has its die fenced, and an update under way reverts. -/
def Obligations.UpdatesRestartTheDmpsInOrder : Prop :=
  ∀ s : State, s.serving = true →
    let next (done : List Nat) (x : Option Nat) : Prop := ([1, 3, 2, 0].find? fun d => d ∉ done ∧ d ∉ s.diesFenced) = x
    let waits (down : List Nat) (lead x : Nat) : Prop :=
      x ∈ down ∨ (lead = x ∧ (if lead = 0 then 2 else 0) ∉ s.diesFenced ∧ (if lead = 0 then 2 else 0) ∈ down)
    let restarts (t : State) (down : List Nat) (lead x : Nat) : Prop :=
      (waits down lead x → t.fw.dmpDown = down ∧ t.epoch 0x82 = s.epoch 0x82) ∧
      (¬ waits down lead x → t.fw.dmpDown = down ++ [x] ∧ t.epoch 0x82 = (if lead = x then (s.epoch 0x82 + 1) % 256 else s.epoch 0x82))
    let begun (t : State) (u : Upd) (slot : Nat) : Prop := t.fw.upd = u ∧ t.fw.target = slot ∧ t.fw.restarted = [] ∧
      ∃ d, next [] (some d) ∧ restarts t s.fw.dmpDown s.lead d
    (∃ d, d < 4 ∧ d ∉ s.diesFenced) →
    (s.fw.upd = .verified → ∃ t, exec .fwActivate s = .next t ∧ begun t .activating (1 - s.odGet 0x1001 4 % 2)) ∧
    (s.fw.upd ≠ .verified → exec .fwActivate s = .next s) ∧
    (∀ d, d ∈ s.fw.dmpDown → d < 4 →
      ∃ t, exec (.dmpRestartDone d) s = .next t ∧ t.fw.latched = s.fw.latched.filter (fun x => fnDie x.1 x.2.1 != d) ∧
        ((s.fw.upd ≠ .activating ∧ s.fw.upd ≠ .reverting) → t.fw.dmpDown = s.fw.dmpDown.filter (fun x => x != d) ∧ t.fw.upd = s.fw.upd) ∧
        ((s.fw.upd = .activating ∨ s.fw.upd = .reverting) → ¬ next s.fw.restarted (some d) →
          ∀ x, next s.fw.restarted (some x) → t.fw.restarted = s.fw.restarted ∧ t.fw.upd = s.fw.upd ∧
            restarts t (s.fw.dmpDown.filter fun y => y != d) s.lead x) ∧
        ((s.fw.upd = .activating ∨ s.fw.upd = .reverting) → next s.fw.restarted (some d) →
          (∀ x, next (s.fw.restarted ++ [d]) (some x) → t.fw.restarted = s.fw.restarted ++ [d] ∧ t.fw.upd = s.fw.upd ∧
            restarts t (s.fw.dmpDown.filter fun y => y != d) (if d = s.fw.home ∧ d ∉ s.diesFenced then d else s.lead) x) ∧
          (next (s.fw.restarted ++ [d]) none → t.fw.dmpDown = s.fw.dmpDown.filter (fun y => y != d) ∧
            t.odGet 0x1001 4 = s.fw.target ∧ t.fw.upd = if s.fw.upd = .activating then .trial else .idle))) ∧
    (s.fw.upd = .trial →
      (∃ t, exec .fwConfirm s = .next t ∧ t.fw.upd = .idle ∧ t.odGet 0x1001 3 = s.odGet 0x1001 4 % 2 ∧
        t.fw.secMin = max s.fw.secMin (min 64 (field (natOf ((s.imageOf (s.odGet 0x1001 4 % 2)).take 512)) 63 48)) ∧
        (∀ b, s.fw.secField.getLsbD b = true → t.fw.secField.getLsbD b = true) ∧
        (∀ k, k ∈ t.fw.keyRevoked ↔
          k ∈ s.fw.keyRevoked ∨ (k < 4 ∧ k < field (natOf ((s.imageOf (s.odGet 0x1001 4 % 2)).take 512)) 47 40)) ∧
        t.fw.dmpDown = s.fw.dmpDown) ∧
      (∃ t, exec .fwRevert s = .next t ∧ begun t .reverting (1 - s.odGet 0x1001 4 % 2)) ∧
      ∃ t, exec .trialTimeout s = .next t ∧ begun t .reverting (1 - s.odGet 0x1001 4 % 2)) ∧
    (s.fw.upd ≠ .trial → exec .fwConfirm s = .next s ∧ exec .fwRevert s = .next s ∧ exec .trialTimeout s = .next s) ∧
    ∀ d, d ∈ s.fw.dmpDown → d < 4 → ∃ t, exec (.dmpReturnTimeout d) s = .next t ∧ d ∈ t.diesFenced ∧
      (s.fw.upd = .activating ∨ s.fw.upd = .trial → t.fw.upd = .reverting ∨ t.fw.upd = .idle) ∧
      (s.fw.upd ≠ .activating → s.fw.upd ≠ .trial → s.fw.upd ≠ .reverting → d ∉ t.fw.dmpDown)

/-- R450 to R452: a read of the challenge makes a new nonce. A token that is well formed and admitted as the second's one attempt uses up the nonce: it unlocks
debug, with every partition removed and every SRAM zero, exactly when all rings are DISABLED, its serial and nonce are the package's, and its key and
signature check; otherwise it is counted as refused, as is an attempt within the second (log 109, DEDUCED). Which token passes rests on the constants
and byte orders of log 171 (PRESUMED). A TAP, which the tester lets run by raising TRST_N (R438), takes an instruction that stays open while locked,
any instruction while unlocked, and BYPASS for the others (BYPASS as 0xFF, and which codes are which instruction, are log 112, PRESUMED). -/
def Obligations.DebugUnlockNeedsItsToken : Prop :=
  ∀ s : State,
    (s.serving = true → ∃ n, exec .debugChallenge s = .next
      { s with dbg := { s.dbg with nonce := some n }, freeCtr := s.freeCtr + 1 }) ∧
    (∀ (body : BitVec 1160) (sig : BitVec 768), let token : BitVec 1928 := sig ++ body
      s.serving = true → field token.toNat 383 320 = 0 →
      (∀ t, s.dbg.lastTry = some t → t + 1000000 ≤ s.timeUs) →
      let passes : Prop := (∀ kg ∈ s.rings, kg.2.st = .disabled) ∧ field token.toNat 319 256 = field (s.odGet 0x1000 0) 127 64 ∧
        (∃ n, s.dbg.nonce = some n ∧ field token.toNat 255 0 = n.toNat) ∧ 
        (∃ k, k < 2 ∧ k ∉ s.fw.debugRevoked ∧ s.fw.debugKey k = some (BitVec.ofNat 384 (sha384 (((leBytes token.toNat 241).drop 48).take 97)))) ∧
        sigVerifies ((leBytes token.toNat 241).drop 145) (((leBytes token.toNat 241).drop 48).take 97) ((leBytes token.toNat 241).take 145) = true
      ∃ t, exec (.debugToken body sig) s = .next t ∧ t.dbg.nonce = none ∧ t.dbg.lastTry = some s.timeUs ∧
        (passes → t.dbg.unlocked = true ∧ (∀ a, a / 2 ^ 48 % 4 ≠ 0 → Mem.read t.mem a = 0) ∧ t.td = [] ∧ t.slots = [] ∧ t.alm = [] ∧
          (∀ p, p < 8 → t.partAlive p = false)) ∧
        (¬ passes → t.dbg.unlocked = s.dbg.unlocked ∧ t.mem = s.mem ∧
          field (t.odGet 0xF012 0) 15 8 = min 255 (field (s.odGet 0xF012 0) 15 8 + 1))) ∧
    (∀ (body : BitVec 1160) (sig : BitVec 768) (t₀ : Nat), let token : BitVec 1928 := sig ++ body
      s.serving = true → s.dbg.lastTry = some t₀ → s.timeUs < t₀ + 1000000 →
      ∃ t, exec (.debugToken body sig) s = .next t ∧ { t with od := s.od } = s ∧
        field (t.odGet 0xF012 0) 15 8 =
          if field token.toNat 383 320 = 0 then min 255 (field (s.odGet 0xF012 0) 15 8 + 1) else field (s.odGet 0xF012 0) 15 8) ∧
    ∀ (die : Nat) (ir : BitVec 8), die < 4 → ∃ v, exec (.jtagInstruction die ir) s = .next
        { s with dbg := { s.dbg with tap := AMap.set (if s.pins.jtag.trstN = true then s.dbg.tap else []) die v }
                 pins := { s.pins with jtag := { s.pins.jtag with trstN := true, tms := false, tck := false } } } ∧
      ((s.dbg.unlocked = true ∨ Config.jtagClass ir = 0) → v = ir.toNat) ∧
      (s.dbg.unlocked = false → Config.jtagClass ir ≠ 0 → Config.jtagClass ir ≠ 1 → v = 0xFF) ∧
      (s.dbg.unlocked = false → Config.jtagClass ir = 1 →
        v = if s.pins.sysReset = true ∨ .sysReset ∈ s.pins.storm then ir.toNat else 0xFF)

-- ## Faults and spares (17)

/-- R10, R258, R278, R406 to R408: the fence of a core that carries a number, by each cause of R406. The core is FAULTED and its epoch
advances; the fence is counted. Its units that are not released are gone with their records. A ticket none of whose records landed is stale,
or waits to become so, and what of it is released stays in the queue for no op; one with landed records ends its op in error, and so does a
pinned tile. The region's spare starts to take the number when it is OFF, enabled and not retired in an ON region, and the number is
unassigned otherwise. The spare that has copied the queue windows carries the number, with a zeroed scratchpad. A retest that passes after
the first fence makes the core the spare; any other retires it. Released units kept for no op are log 33, the core's fences as the model
counts them log 89 (both DEDUCED). R343, R402, R415, R416: a heartbeat of a die is noted. Die 2 takes the lead role, the lead DMP's epoch
advances, the transfers under way end and die 0's DMP restarts; while the role moves, for 20 ms at most, no request is heard. A transfer on
a die's network that fails parity is resent, and the sixteenth failure of one transfer fences the die: its regions, stacks and link ports go
to FAULTED. The takeover whenever die 2 does not lead is log 92 (DEDUCED), the time without answers, 20 ms at most, free (log 30, DESIGN
CHOICE); the mailboxes of the new lead are log 191. -/
def Obligations.FencedCoresAndDiesAreReplaced : Prop :=
  (∀ (phys : Nat) (s : State), phys < 144 →
     (∀ c : Nat, 1 ≤ s.fnState .core phys → s.fnState .core phys ≤ 3 → s.logicalOf phys = some c →
       let k := s.core c
       let pushes (u : WorkUnit) : Prop := ∃ y ∈ k.outq, y.unit = u.id ∧ ∃ q e, y.dest = .push q e
       let inError (t : State) (u : WorkUnit) : Prop := ∀ d, t.cmd u.r u.p = some d → d.err ≠ none
       let x := s.odGet 0x8001 (c / 8 + 1)
       let spare := 9 * (c / 8) + x
       let free : Prop := x < 9 ∧ s.fnStatus .core spare = 0 ∧ s.fnEnabled .core spare = true ∧ s.fnState .region (c / 8) = 2 ∧
         s.isRetired spare = false
       let fenced (t : State) : Prop := t.fnStatus .core phys = 4 ∧ t.epoch c = (s.epoch c + 1) % 256 ∧
         t.odGet 0x5151 (phys + 1) = (s.odGet 0x5151 (phys + 1) + 1) % 2 ^ 64 ∧ AMap.find t.retest phys = some s.timeUs ∧
         t.fences = s.fences ++ [phys] ∧
         ((k.units.map (·.id)).Nodup → ∀ u ∈ k.units, ¬ pushes u →
           (u.st ≠ .released → t.unit c u.id = none ∧ (∀ y ∈ (t.core c).outq, y.unit ≠ u.id) ∧ ∀ y ∈ t.tickets, ¬ (y.1 = c ∧ y.2.1 = u.id)) ∧
           (u.ticket = none → inError t u) ∧
           ∀ tk, u.ticket = some tk → (∃ y ∈ s.tickets, y.1 = c ∧ y.2.1 = u.id) →
             (k.someLanded tk = true → inError t u) ∧
             (k.someLanded tk = false → ticketEpoch tk < 255 → (tk ∈ t.stale ∨ ∃ r p g, (r, p, g, tk) ∈ t.reissueWait) ∧
               (u.st = .released → (∃ v, t.unit c u.id = some v ∧ v.r = 512 ∧ v.ticket = none) ∧
                 (t.core c).outq.filter (fun y => y.unit == u.id) = k.outq.filter (fun y => y.unit == u.id)))) ∧
         (free → t.fnStatus .core spare = 1 ∧ t.copyingWindows = s.copyingWindows ++ [(spare, c)]) ∧
         (x < 9 → s.fnState .core spare ≠ 0 → t.assigned c = false) ∧ (9 ≤ x → t.assigned c = false)
       (∃ t, exec (.progressBeatTimeout phys) s = .next t ∧ fenced t) ∧
       ∀ cause : FenceCause,
         (cause = .verdict → k.lastFail ≠ none) →
         (cause = .failures → s.odGet 0x3170 0 ≤ (k.failTimes.filter fun x => s.timeUs < x + 1000000).length) →
         (cause = .selfTest → s.fnState .core phys = 1) → (cause = .dieFence → phys / 36 ∈ s.diesFenced) →
         ∃ t, exec (.coreFence phys cause) s = .next t ∧ fenced t) ∧
     (∀ c rest, s.copyingWindows = (phys, c) :: rest → c / 8 = phys / 9 → c < 128 → s.fnState .core phys = 2 →
       ∃ t, exec (.queueWindowCopyDone (phys / 9)) s = .next t ∧ t.physOf c = some (phys % 9) ∧ t.epoch c = (s.epoch c + 1) % 256 ∧
         t.copyingWindows = rest.filter (fun x => x.1 != phys) ∧
         ∀ a, c / 32 * 2 ^ 50 + 2 * 2 ^ 48 + c % 32 * 2 ^ 23 ≤ a → a < c / 32 * 2 ^ 50 + 2 * 2 ^ 48 + (c % 32 + 1) * 2 ^ 23 →
           Mem.read t.mem a = 0) ∧
     ((∀ x ∈ s.copyingWindows, x.1 / 9 ≠ phys / 9) → exec (.queueWindowCopyDone (phys / 9)) s = .next s) ∧
     (AMap.find s.retest phys = none → ∀ pass, exec (.fenceRetest phys pass) s = .next s) ∧
     ∀ tm pass, AMap.find s.retest phys = some tm → ∃ t, exec (.fenceRetest phys pass) s = .next t ∧ t.retest = AMap.erase s.retest phys ∧
       ((pass = true ∧ s.fences.count phys ≤ 1) →
         t.fnStatus .core phys = 0 ∧ t.odGet 0x8001 (phys / 9 + 1) = phys % 9 ∧ t.log = s.log) ∧
       (¬ (pass = true ∧ s.fences.count phys ≤ 1) →
         t.fnStatus .core phys = 4 ∧ t.isRetired phys = true ∧ (3, phys) ∈ t.log.retired)) ∧
  (∀ s : State,
     (∀ d, d < 4 → exec (.dmpHeartbeat d) s = .next { s with dmpBeats := AMap.set s.dmpBeats d s.timeUs }) ∧
     (s.lead ≠ 2 → 2 ∉ s.diesFenced → 2 ∉ s.fw.dmpDown → ∃ t, exec .leadTakeover s = .next t ∧ t.lead = 2 ∧
       t.epoch 0x82 = (s.epoch 0x82 + 1) % 256 ∧ 0 ∈ t.fw.dmpDown ∧ t.can.xfer = none ∧ t.mb0 = s.mbOther.1 ∧ t.mb1 = s.mbOther.2 ∧
       t.mbOther = ({ s.mb0 with xfer := none }, { s.mb1 with xfer := none }) ∧ t.mem = s.mem ∧
       s.timeUs ≤ t.fw.leadUntil ∧ t.fw.leadUntil ≤ s.timeUs + 20000) ∧
     (s.timeUs < s.fw.leadUntil → ∀ (ch : Chan) (frame : List Byte), exec (.oapRead ch frame) s = .next s ∧ exec (.oapWrite ch frame) s = .next s ∧
       exec (.oapAbort ch frame) s = .next s ∧ exec (.oapUnknownCommand ch frame) s = .next s) ∧
     (s.lead = 2 → exec .leadTakeover s = .next s) ∧
     ∀ d, d < 4 →
       exec (.onDieNetworkTransfer d true) s = .next { s with netFails := AMap.erase s.netFails d } ∧
       (AMap.getD s.netFails d 0 < 15 → ∃ t, exec (.onDieNetworkTransfer d false) s = .next t ∧
         t.netFails = AMap.set s.netFails d (AMap.getD s.netFails d 0 + 1) ∧ t.diesFenced = s.diesFenced ∧ t.mem = s.mem) ∧
       (15 ≤ AMap.getD s.netFails d 0 → d ∉ s.diesFenced → ∃ t, exec (.onDieNetworkTransfer d false) s = .next t ∧
         t.diesFenced = s.diesFenced ++ [d] ∧
         t.netFails = AMap.erase (AMap.set s.netFails d (AMap.getD s.netFails d 0 + 1)) d ∧
         (∀ i, i < 4 → t.fnStatus .region (4 * d + i) = 4) ∧ (∀ i, i < 2 → t.fnStatus .stack (2 * d + i) = 4) ∧
         (∀ i, i < 8 → t.fnStatus .link (8 * d + i) = 4)))

/-- R242, R409, R410, R413, R414, R426: a mirror repair gives the failed sector the other copy's 64 bytes; one that verifies clears its failure, and one that
does not starts the copy of its channel into the stack's free reserve, as a failed retraining does. When the copy ends the reserve holds the channel,
and its failing sectors are counted as poisoned, each once. A module that is disabled is disabled in both directions. A failed phase sets PHASE_LOST,
and from the third of a region's core rail the region's ceiling is lowered to a value that the load decides, a free value (log 90). The reserve as
physical 63 is log 36, the numbering of the rails log 37 (both DESIGN CHOICE). -/
def Obligations.FailingMemoryAndRailsAreRetired : Prop :=
  ∀ s : State,
    (∀ (bad good : Nat) (verify : Bool), s.memWf = true →
      let b := memKey bad / 64 * 64
      let g := memKey good / 64 * 64
      b / 2 ^ 48 % 4 = 0 → g / 2 ^ 48 % 4 = 0 → b / 2 ^ 50 ≠ g / 2 ^ 50 → b ∈ s.bad → g ∉ s.bad →
      let ch := channelOf b
      ∃ t, exec (.mirrorRepair bad good verify) s = .next t ∧ Mem.readNat t.mem b 64 = Mem.readNat s.mem g 64 ∧
        (∀ x, x < b ∨ b + 64 ≤ x → Mem.read t.mem x = Mem.read s.mem x) ∧
        t.odGet 0x5303 (b / 2 ^ 50 + 1) = (s.odGet 0x5303 (b / 2 ^ 50 + 1) + 1) % 2 ^ 64 ∧
        (verify = true → t.bad = s.bad.filter (fun x => x != b) ∧ b ∉ t.poisoned ∧ ∀ x ∈ s.poisoned, x ≠ b → x ∈ t.poisoned) ∧
        (verify = false → (s.stack ch.1).copying = none → (s.stack ch.1).reserveUsed = none →
          (t.stack ch.1).copying = some ch.2 ∧ (5, 64 * ch.1 + ch.2) ∈ t.log.retired ∧ t.bad = s.bad ∧
          t.odGet 0x5321 (ch.1 + 1) = 1)) ∧
    (∀ ss, ss < 8 →
      ((s.stack ss).copying = none → exec (.retireCopyDone ss) s = .next s) ∧
      ∀ pc, (s.stack ss).copying = some pc → ∃ t, exec (.retireCopyDone ss) s = .next t ∧
        (t.stack ss).reserveUsed = some pc ∧ (t.stack ss).copying = none ∧ (∀ q, q ≠ ss → t.stack q = s.stack q) ∧
        t.mem = s.mem ∧ t.bad = s.bad ∧
        let fresh := s.bad.filter fun k => decide (k / 2 ^ 48 % 4 = 0 ∧ channelOf k = (ss, pc) ∧ k ∉ s.poisoned)
        t.poisoned = s.poisoned ++ fresh ∧
        t.odGet 0x5320 (ss + 1) =
          (if fresh = [] then s.odGet 0x5320 (ss + 1) else (s.odGet 0x5320 (ss + 1) + fresh.length) % 2 ^ 64)) ∧
    (∀ ss pc, ss < 8 → pc < 64 → exec (.hbmRetrain ss pc true) s = .next s ∧
      ((s.stack ss).copying = none → (s.stack ss).reserveUsed = none → pc < 63 →
        ∃ t, exec (.hbmRetrain ss pc false) s = .next t ∧ (t.stack ss).copying = some pc ∧ (5, 64 * ss + pc) ∈ t.log.retired ∧
          t.odGet 0x5321 (ss + 1) = 1 ∧ t.mem = s.mem)) ∧
    (∀ pair m, pair < 6 → m < 8 →
      let d (u : State) (i : Nat) : D2d := AMap.getD u.d2d (2 * pair + i) {}
      (m ∈ (d s 0).disabled → exec (.d2dModuleDisable pair m) s = .next s) ∧
      (m ∉ (d s 0).disabled → ∃ t, exec (.d2dModuleDisable pair m) s = .next t ∧
        (∀ i, i < 2 → d t i = { d s i with disabled := (d s i).disabled ++ [m] }) ∧ t.mem = s.mem)) ∧
    ∀ rail, rail < 28 → ∃ t, exec (.phaseFailure rail) s = .next t ∧ bitOf (t.odGet 0x4400 0) 3 = true ∧
      t.power.phases = AMap.set s.power.phases rail (AMap.getD s.power.phases rail 0 + 1) ∧
      (AMap.getD s.power.phases rail 0 < 2 → t.regions = s.regions) ∧
      (2 ≤ AMap.getD s.power.phases rail 0 → rail < 16 →
        (t.regionPower rail).railCeil ≤ (s.regionPower rail).railCeil ∧
        ((s.regionPower rail).railCeil ≤ (t.regionPower rail).railCeil ∨
          (800 ≤ (t.regionPower rail).railCeil ∧ (t.regionPower rail).railCeil < 2250)) ∧
        ∀ rr, rr ≠ rail → t.regionPower rr = s.regionPower rr)

-- ## Power, clocks and cooling (18)

/-- R424, R427 to R430: the pin's brake brings every region to 0.8 GHz and sets BRAKE_IN until it is released; then the ceilings return by 25 MHz a step. A
microsecond's sample is counted under a brake; a sample above the allowance applies the internal brake. The package loop lowers the ceilings of the
ON regions by 25 MHz, or 100 MHz after 5 ms, while the average is above PLIM, from the ceiling that the loops have in force (log 40, DEDUCED), and
raises them by 25 MHz below 0.97 PLIM; a PLIM that was written takes effect there, and PLIM_HIT is set when a ceiling is lowered. One microsecond
for each POWER_SAMPLE is log 108 (DESIGN CHOICE). A loss of input stops it all. -/
def Obligations.PowerIsHeldAtItsLimit : Prop :=
  ∀ s : State, s.boot ≠ .noPower → s.boot ≠ .tripped →
    let sum := s.power.samples.foldl (· + ·) 0
    let n := max 1 s.power.samples.length
    let plim := s.power.limit * 1000000
    let next := s.odGet 0x3180 0 * 1000000
    (.brake ∉ s.pins.storm →
      (∃ t, exec .powerBrakeAssert s = .next t ∧ t.pins.brake = true ∧ bitOf (t.odGet 0x4400 0) 0 = true ∧
        (∀ rr, rr < 16 → t.regionMHz rr = 800 ∧ (t.regionPower rr).millivolts = 550) ∧ t.mem = s.mem ∧ t.cores = s.cores) ∧
      ∃ t, exec .powerBrakeRelease s = .next t ∧ t.pins.brake = false ∧ t.power.brakeIn = false ∧ bitOf (t.odGet 0x4400 0) 0 = false ∧
        t.regions = s.regions) ∧
    (.brake ∈ s.pins.storm → exec .powerBrakeAssert s = .next s ∧ exec .powerBrakeRelease s = .next s) ∧
    (∃ t, exec .brakeReleaseStep s = .next t ∧ ∀ rr, rr < 16 → t.regionPower rr =
      if s.braked = true ∨ 2250 ≤ (s.regionPower rr).rampCeil then s.regionPower rr
      else { s.regionPower rr with rampCeil := min 2250 ((s.regionPower rr).rampCeil + 25) }) ∧
    (∀ mv ma, ∃ t, exec (.powerSample mv ma) s = .next t ∧ t.timeUs = s.timeUs + 1 ∧ t.power.samples = mv * ma :: s.power.samples.take 999 ∧
      t.power.millivolts = mv ∧ t.power.milliamps = ma ∧ t.power.runAbove = (if plim < mv * ma then s.power.runAbove + 1 else 0) ∧
      ((min 2300000000 (55000 * mv) < mv * ma ∨ 10000 ≤ t.power.runAbove) → t.power.brakePower = true ∧ ∀ rr, rr < 16 → t.regionMHz rr = 800) ∧
      t.odGet 0x7030 0 = (if t.braked = true then (s.odGet 0x7030 0 + 1) % 2 ^ 64 else s.odGet 0x7030 0)) ∧
    (∃ t, exec .powerLoopStep s = .next t ∧ t.power.limit = s.odGet 0x3180 0 ∧ ∀ rr, rr < 16 →
      (s.fnState .region rr ≠ 2 → t.regionPower rr = s.regionPower rr) ∧
      (s.fnState .region rr = 2 →
        (next * n < sum → 800 < s.loopCeil rr → bitOf (t.odGet 0x4400 0) 1 = true ∧
          (t.regionPower rr).powerCeil = max 800 (s.loopCeil rr - (if s.power.avgAbove < 50 then 25 else 100))) ∧
        (next * n < sum → s.loopCeil rr ≤ 800 → t.regionPower rr = s.regionPower rr) ∧
        (sum ≤ next * n → 100 * sum < 97 * (next * n) → (t.regionPower rr).powerCeil = min 2250 ((s.regionPower rr).powerCeil + 25)) ∧
        (sum ≤ next * n → 97 * (next * n) ≤ 100 * sum → t.regionPower rr = s.regionPower rr))) ∧
    ∃ t, exec .inputOutOfRange s = .next t ∧ t.boot = .noPower ∧ t.retained = [] ∧ t.mem = [] ∧ t.otp = s.otp ∧
      t.power.tripped = s.power.tripped ∧
      (s.fw.incomingTotal = 0 → t.fw.imageA = s.fw.imageA ∧ t.fw.imageB = s.fw.imageB) ∧ (∀ k n, k.ok n = true → t.fnState k n = 0)

/-- R431 to R434: readings are taken as they come; a junction at 115 °C or a stack at 105 °C trips the package, a junction at 105 °C applies the internal
brake. The thermal loop lowers a region at 100 °C by 25 MHz, from the ceiling that the loops have in force (log 40, DEDUCED), and raises one at 98 °C
or below. The core rail moves in steps of 5 mV within 550 to 900 mV. A
droop stretch halves the running clock and is counted, and leaves the set clock. A lost reference is noted in its bit, and with both lost the end
of the holdover trips the package. -/
def Obligations.HeatDroopAndReferencesAreHandled : Prop :=
  ∀ s : State, s.boot ≠ .noPower → s.boot ≠ .tripped →
    (∀ rs : List Reading, (rs.all Reading.ok) = true →
      let r := rs.foldl State.takeReading s
      ∃ t, exec (.thermalSample rs) s = .next t ∧
        (((∃ x ∈ r.junctions, 115000 ≤ x) ∨ (∃ x ∈ r.power.stackTemps, 105000 ≤ x.2)) → t.boot = .tripped ∧ t.power.tripped = true) ∧
        ((∀ x ∈ r.junctions, x < 115000) → (∀ x ∈ r.power.stackTemps, x.2 < 105000) →
          t.boot = s.boot ∧ t.mem = s.mem ∧ (∀ rr, (t.regionPower rr).temps = (r.regionPower rr).temps) ∧
          ((∃ x ∈ r.junctions, 105000 ≤ x) → t.power.brakeThermal = true) ∧
          ((∀ x ∈ r.junctions, x ≤ 100000) → t.power.brakeThermal = false))) ∧
    (∃ t, exec .thermalLoopStep s = .next t ∧ ∀ rr, rr < 16 →
      (100000 ≤ s.regionTemp rr → (t.regionPower rr).thermalCeil = max 800 (s.loopCeil rr - 25) ∧ bitOf (t.odGet 0x4400 0) 2 = true) ∧
      (s.regionTemp rr ≤ 98000 → (s.regionPower rr).thermalCeil < 2250 →
        (t.regionPower rr).thermalCeil = min 2250 ((s.regionPower rr).thermalCeil + 25)) ∧
      (98000 < s.regionTemp rr → s.regionTemp rr < 100000 → t.regionPower rr = s.regionPower rr)) ∧
    (∀ rr up, rr < 16 → exec (.adaptiveVoltageStep rr up) s = .next
      (if s.braked = true then s
        else s.setRegionPower rr { s.regionPower rr with
          millivolts := if up = true then min 900 ((s.regionPower rr).millivolts + 5) else max 550 ((s.regionPower rr).millivolts - 5) })) ∧
    (∀ rr cycles, rr < 16 → (∃ t, exec (.droopStretch rr cycles) s = .next t ∧ t.runningMHz rr = s.regionMHz rr / 2 ∧
        t.regionMHz rr = s.regionMHz rr ∧ 64 ≤ (t.regionPower rr).droop ∧
        t.odGet 0x5330 (rr + 1) = (s.odGet 0x5330 (rr + 1) + 1) % 2 ^ 64) ∧
      ∃ t, exec (.droopStretchEnd rr) s = .next t ∧ t.runningMHz rr = s.regionMHz rr ∧ t.regionMHz rr = s.regionMHz rr) ∧
    (∀ ref, ∃ t, exec (.referenceLoss ref) s = .next t ∧ bitOf (t.odGet 0x4400 0) (if ref = .link then 5 else 4) = true ∧ t.mem = s.mem ∧
      (ref = .a → t.power.lostA = true ∧ (s.power.lostB = false → t.power.useB = true)) ∧
      (ref = .b → t.power.lostB = true ∧ (s.power.lostA = false → t.power.useB = false)) ∧ (ref = .link → t.power.lostLink = true)) ∧
    ((s.power.lostA = true ∧ s.power.lostB = true) →
      ∃ t, exec .referenceHoldoverExpiry s = .next t ∧ t.boot = .tripped ∧ t.power.tripped = true) ∧
    (¬ (s.power.lostA = true ∧ s.power.lostB = true) → exec .referenceHoldoverExpiry s = .next s)

-- ## Signals, resets and the start (19)

/-- R396, R397, R424, R438, R443, R444: an assertion of SYS_RESET_N and a WARM_RESET end every command and turn every function off; what lies outside the package,
the retained store, OTP and the boot flash stay, but for an image that was being received (R445). A release samples NODE_ID and starts the boot, under
the brake where its pin is held; a warm reset releases itself, and a new input supply starts a cold power-up, unless SYS_RESET_N still holds
the package or a trip is latched that it has not cleared (R434); a latched trip whose release fell into the loss of input is cleared as the supply
returns (DEDUCED, log 192). The cold power-ups are counted on from the newest flash entry whose tag passes (R419). -/
def Obligations.ResetsEndAllButWhatIsKept : Prop :=
  ∀ s : State,
    let ended (t : State) (b : Boot) : Prop := t.boot = b ∧ t.pending = s.pending ∧ t.mem = [] ∧ t.host0 = s.host0 ∧ t.host1 = s.host1 ∧
      t.rings = [] ∧ t.cmds = [] ∧ t.ops = [] ∧ t.td = [] ∧ t.queues = [] ∧ t.slots = [] ∧ t.alm = [] ∧ t.otp = s.otp ∧ t.retained = s.retained ∧
      (∀ k, k < 2 → t.imageOf k = if s.fw.incomingTotal ≠ 0 ∧ k = 1 - s.odGet 0x1001 4 % 2 then [] else s.imageOf k) ∧ t.log.persistent = s.log.persistent ∧ t.log.retired = s.log.retired ∧
      t.pins.ready = false ∧ t.dbg.unlocked = false ∧ ∀ k n, k.ok n = true → t.fnStatus k n = 0
    let held := s.pins.sysReset = true ∨ .sysReset ∈ s.pins.storm
    (.sysReset ∉ s.pins.storm → s.boot ≠ .noPower → s.boot ≠ .tripped →
      ∃ t, exec .sysResetAssert s = .next t ∧ ended t .standby ∧ t.pins.sysReset = true ∧ t.pins.warm = false) ∧
    (s.serving = true → ∃ t, exec .warmReset s = .next t ∧ ended t .standby ∧ t.pins.warm = true) ∧
    (s.pins.warm = true → s.boot = .standby → ¬ held → ∃ t, exec .warmResetRelease s = .next t ∧ t.boot = .booting ∧ t.pins.warm = false ∧
      t.odGet 0x1100 0 = s.pins.nodeId ∧ t.retained = s.retained) ∧
    (∀ node, node < 128 → .sysReset ∉ s.pins.storm → s.pins.sysReset = true →
      (s.boot = .standby ∨ (s.boot = .tripped ∧ s.power.alwaysOn ≤ 80000)) → ∃ t, exec (.sysResetRelease node) s = .next t ∧
        t.boot = .booting ∧ t.odGet 0x1100 0 = node ∧ t.pins.sysReset = false ∧ t.retained = s.retained ∧ (s.boot = .tripped → t.power.tripped = false) ∧
        (s.pins.brake = true ∨ .brake ∈ s.pins.storm → t.power.brakeIn = true ∧ bitOf (t.odGet 0x4400 0) 0 = true)) ∧
    (∀ node, .sysReset ∉ s.pins.storm → s.pins.sysReset = true → s.boot = .tripped → 80000 < s.power.alwaysOn →
      ∃ t, exec (.sysResetRelease node) s = .next t ∧ t.boot = .tripped) ∧
    let begun (t : State) : Prop :=
      t.boot = (if s.power.tripped = false then (if s.pins.sysReset = true ∨ .sysReset ∈ s.pins.storm then .standby else .booting)
        else if ¬ held ∧ s.pins.late = true ∧ s.power.alwaysOn ≤ 80000 then .booting else .tripped) ∧
      (t.boot = .booting → s.power.tripped = true → t.power.tripped = false) ∧
      t.log.boots = (s.log.lifeNow.boots + 1) % 65536 ∧ t.timeUs = 0
    (s.boot ≠ .noPower → exec .inputPowerApplied s = .next s ∧ exec .inputRestored s = .next s) ∧
    (s.boot = .noPower → (∃ t, exec .inputPowerApplied s = .next t ∧ begun t) ∧ ∃ t, exec .inputRestored s = .next t ∧ begun t)

/-- R389, R397, R443, R447, R449: the image of the confirmed slot runs when it passes; else it is flagged and the other one runs when it passes; else the package
is in recovery with FAULT_N low. An image that runs restores the settings, from the latest OTP generation after a cold power-up or a reset in a commit
(R445) and from the retained stores otherwise, with RS_LOST when one of them fails its check, and every enabled stack starts that is on no fenced
die. READY rises once every enabled core, region and stack has reached ON or FAULTED, but for one that may not leave OFF (log 193, DESIGN CHOICE).
What the two slots read is an operand of the check (log 194, DESIGN CHOICE). -/
def Obligations.BootRunsThePassingImage : Prop :=
  ∀ s : State, s.settingsWf = true →
    (s.boot = .booting →
      ∀ a b : Option (List Byte),
      let first := s.odGet 0x1001 3 % 2
      let pass (k : Nat) : Prop := s.imagePasses (if k = 0 then a.getD s.fw.imageA else b.getD s.fw.imageB) = true
      let fromOtp : Prop := s.pins.cold = true ∨ s.pins.fromOtp = true
      let runs (t : State) (k : Nat) : Prop := t.boot = .restored ∧ t.pins.cold = false ∧ t.pins.fromOtp = false ∧ t.odGet 0x1001 4 = k ∧
        (¬ fromOtp → s.retainedBad = [] → t.retained = s.retained ∧ field (t.odGet 0x4000 0) 11 10 = 2) ∧
        (s.retainedBad ≠ [] → bitOf (t.odGet 0xF001 0) 10 = true) ∧
        (¬ fromOtp → (∃ d, d < 4 ∧ d ∉ s.retainedBad) → field (t.odGet 0x4000 0) 11 10 = 2) ∧
        ((fromOtp ∨ ∀ d, d < 4 → d ∈ s.retainedBad) → ∀ g, latestGen s.otp = some g → field (t.odGet 0x4000 0) 11 10 = 1 ∧ field (t.odGet 0x4000 0) 15 12 = g.1 % 16) ∧
        (∀ n, n < 8 → n / 2 ∉ s.diesFenced → s.fnStatus .stack n = 0 → t.fnEnabled .stack n = true → t.fnStatus .stack n = 1)
      (pass first → ∃ t, exec (.bootImageCheck a b) s = .next t ∧ runs t first) ∧
      (¬ pass first → pass (1 - first) → ∃ t, exec (.bootImageCheck a b) s = .next t ∧ runs t (1 - first) ∧
        bitOf (t.odGet 0x4402 0) first = true) ∧
      (¬ pass first → ¬ pass (1 - first) → ∃ t, exec (.bootImageCheck a b) s = .next t ∧ t.boot = .recovery ∧ t.pins.faultN = false ∧
        bitOf (t.odGet 0x4402 0) 0 = true ∧ bitOf (t.odGet 0x4402 0) 1 = true ∧ bitOf (t.odGet 0x4402 0) 2 = true ∧ t.mem = s.mem)) ∧
    let settled : Prop := ∀ k n, (k = .core ∨ k = .region ∨ k = .stack) → k.ok n = true →
      s.fnEnabled k n = false ∨ s.fnState k n = 2 ∨ s.fnState k n = 4 ∨ (s.fnState k n = 0 ∧ s.fnMayStart k n = false)
    (s.boot = .restored → settled → ∃ t, exec .startupComplete s = .next t ∧ t.boot = .ready ∧ t.pins.ready = true ∧
      field (t.odGet 0x4000 0) 2 0 ≠ 0 ∧ t.mem = s.mem) ∧
    (s.boot = .restored → ¬ settled → exec .startupComplete s = .next s)

/-- R348, R389, R441, R454: PERST_N of a host port sends the rings in its memory that are not DISABLED to ERROR with cause 8, advances the port's epoch and turns an ON port
off; its release starts an enabled port. A function-level reset does the first for the rings of its partition alone. A storm holds its input
asserted, and sets its sticky bit, until it has been quiet; then the input takes its level. -/
def Obligations.PinsResetTheirPorts : Prop :=
  ∀ (h : Nat) (s : State), h < 2 →
    let pin : Pin := if h = 0 then .perst0 else .perst1
    let stopped (t : State) (mine : Nat → Prop) : Prop :=
      (∀ r g, AMap.find s.rings r = some g → (∀ g', (r, g') ∈ s.rings → g' = g) → mine r → g.loc = h + 1 → g.st ≠ .disabled →
        (t.ring r).st = .error ∧ (t.ring r).err = 8) ∧
      (∀ r, (¬ mine r ∨ (s.ring r).loc ≠ h + 1 ∨ (s.ring r).st = .disabled) → (∀ g, (r, g) ∈ s.rings → g = s.ring r) → t.ring r = s.ring r) ∧
      (∀ c ∈ t.cmds, mine c.r → h ∈ c.cut) ∧ t.mem = s.mem
    (pin ∉ s.pins.storm → ∃ t, exec (.perstAssert h) s = .next t ∧ stopped t (fun _ => True) ∧
      t.epoch (0x80 + h) = (s.epoch (0x80 + h) + 1) % 256 ∧ (s.fnStatus .host h = 2 → t.fnStatus .host h = 0) ∧ t.perst h = true) ∧
    (pin ∉ s.pins.storm → ∃ t, exec (.perstRelease h) s = .next t ∧ t.mem = s.mem ∧ t.rings = s.rings ∧ t.perst h = false ∧
      (s.serving = true → s.fnState .host h = 0 → s.fnEnabled .host h = true → t.fnStatus .host h = 1)) ∧
    (pin ∈ s.pins.storm → exec (.perstAssert h) s = .next s ∧ exec (.perstRelease h) s = .next s) ∧
    (∀ part, part < 8 → ∃ t, exec (.functionLevelReset h part) s = .next t ∧ stopped t (fun r => r / 64 = part) ∧
      (∀ x ∈ t.pba, ¬ (x.port = h ∧ x.pf = part + 1)) ∧ t.epochs = s.epochs ∧ t.fnStatus .host h = s.fnStatus .host h) ∧
    (∀ p : Pin, s.boot ≠ .noPower → ∃ t, exec (.inputStorm p) s = .next t ∧ p ∈ t.pins.storm ∧
      bitOf (t.odGet 0x4401 0) (match p with | .sysReset => 0 | .perst0 => 1 | .perst1 => 2 | .brake => 3) = true) ∧
    (∀ (p : Pin) (level : Bool), (p ∉ s.pins.storm → exec (.stormQuietEnd p level) s = .next s) ∧
      (p ∈ s.pins.storm → ∃ t, exec (.stormQuietEnd p level) s = .next t ∧ (∀ x, x ∈ t.pins.storm ↔ x ∈ s.pins.storm ∧ x ≠ p) ∧
        (p = .brake → t.pins.brake = !level) ∧ (p = .perst0 → t.pins.perst0 = !level) ∧ (p = .perst1 → t.pins.perst1 = !level) ∧
        (p = .sysReset → t.pins.sysReset = !level)))

end
end

