-- ==== Sys2Proof/Laws/Map.lean ====
section
/-! SUPPORT. Laws of the sparse maps. None of them needs the keys to be in order but where it says so. -/

namespace Sys2Proof.Machine

variable {α : Type}

@[simp] theorem AMap.find_nil (i : Nat) : AMap.find ([] : AMap α) i = none := rfl

theorem AMap.find_cons (k : Nat) (v : α) (m : AMap α) (i : Nat) :
    AMap.find ((k, v) :: m) i = if k = i then some v else AMap.find m i := by
  by_cases h : k = i <;> simp [AMap.find, h]

theorem AMap.find_set (m : AMap α) (i j : Nat) (v : α) : AMap.find (AMap.set m i v) j = if i = j then some v else AMap.find m j := by
  induction m with
  | nil => simp [AMap.set, AMap.find_cons]
  | cons kw m ih =>
    obtain ⟨k, w⟩ := kw
    rw [AMap.set]
    split
    · simp [AMap.find_cons]
    · by_cases hk : k = i
      · subst hk
        simp only [beq_self_eq_true, if_true, AMap.find_cons]
        split <;> rfl
      · simp only [beq_iff_eq, hk, if_false, AMap.find_cons, ih]
        by_cases hj : k = j
        · subst hj; simp [Ne.symm hk]
        · simp [hj]

@[simp] theorem AMap.find_set_self (m : AMap α) (i : Nat) (v : α) : AMap.find (AMap.set m i v) i = some v := by simp [AMap.find_set]

theorem AMap.find_set_ne (m : AMap α) {i j : Nat} (v : α) (h : i ≠ j) : AMap.find (AMap.set m i v) j = AMap.find m j := by
  simp [AMap.find_set, h]

theorem AMap.getD_set (m : AMap α) (i j : Nat) (v d : α) : AMap.getD (AMap.set m i v) j d = if i = j then v else AMap.getD m j d := by
  unfold AMap.getD; rw [AMap.find_set]; split <;> rfl

@[simp] theorem AMap.getD_set_self (m : AMap α) (i : Nat) (v d : α) : AMap.getD (AMap.set m i v) i d = v := by simp [AMap.getD_set]

theorem AMap.getD_set_ne (m : AMap α) {i j : Nat} (v d : α) (h : i ≠ j) : AMap.getD (AMap.set m i v) j d = AMap.getD m j d := by
  simp [AMap.getD_set, h]

@[simp] theorem AMap.set_set (m : AMap α) (i : Nat) (v w : α) : AMap.set (AMap.set m i v) i w = AMap.set m i w := by
  induction m with
  | nil => simp [AMap.set]
  | cons kx m ih =>
    obtain ⟨k, x⟩ := kx
    simp only [AMap.set]
    by_cases h : i < k
    · simp [h, AMap.set]
    · by_cases hk : k = i
      · subst hk; simp [AMap.set]
      · simp [h, hk, AMap.set, ih]

theorem AMap.find_erase_ne (m : AMap α) {i j : Nat} (h : i ≠ j) : AMap.find (AMap.erase m i) j = AMap.find m j := by
  induction m with
  | nil => rfl
  | cons kw m ih =>
    obtain ⟨k, w⟩ := kw
    by_cases hk : k = i
    · subst hk; simp [AMap.erase, AMap.find_cons, h]
    · simp [AMap.erase, hk, AMap.find_cons, ih]

theorem AMap.find_mem {m : AMap α} {i : Nat} {v : α} (h : AMap.find m i = some v) : (i, v) ∈ m := by
  induction m with
  | nil => simp at h
  | cons kw m ih =>
    obtain ⟨k, w⟩ := kw
    rw [AMap.find_cons] at h
    split at h
    · next hk => subst hk; simp at h; simp [h]
    · exact List.mem_cons_of_mem _ (ih h)

theorem AMap.find_isSome_of_mem {m : AMap α} {i : Nat} {v : α} (h : (i, v) ∈ m) : ∃ w, AMap.find m i = some w := by
  induction m with
  | nil => simp at h
  | cons kw m ih =>
    obtain ⟨k, w⟩ := kw
    rw [AMap.find_cons]
    by_cases hk : k = i
    · exact ⟨w, by simp [hk]⟩
    · have h' : (i, v) ∈ m := by
        rcases List.mem_cons.1 h with h | h
        · simp only [Prod.mk.injEq] at h; exact absurd h.1.symm hk
        · exact h
      simpa [hk] using ih h'

/-- Every entry of a map after a write is the written one or an old one. -/
theorem AMap.mem_set {m : AMap α} {i : Nat} {v : α} {x : Nat × α} (h : x ∈ AMap.set m i v) : x = (i, v) ∨ x ∈ m := by
  induction m with
  | nil => simp [AMap.set] at h; exact .inl h
  | cons kw m ih =>
    obtain ⟨k, w⟩ := kw
    rw [AMap.set] at h
    split at h
    · rcases List.mem_cons.1 h with h | h
      · exact .inl h
      · exact .inr h
    · split at h
      · rcases List.mem_cons.1 h with h | h
        · exact .inl h
        · exact .inr (List.mem_cons_of_mem _ h)
      · rcases List.mem_cons.1 h with h | h
        · exact .inr (by simp [h])
        · rcases ih h with h | h
          · exact .inl h
          · exact .inr (List.mem_cons_of_mem _ h)

theorem AMap.mem_erase {m : AMap α} {i : Nat} {x : Nat × α} (h : x ∈ AMap.erase m i) : x ∈ m := by
  induction m with
  | nil => simp [AMap.erase] at h
  | cons kw m ih =>
    obtain ⟨k, w⟩ := kw
    rw [AMap.erase] at h
    split at h
    · exact List.mem_cons_of_mem _ h
    · rcases List.mem_cons.1 h with h | h
      · simp [h]
      · exact List.mem_cons_of_mem _ (ih h)

theorem AMap.set_wf_aux (m : AMap α) (i : Nat) (v : α) (h : m.Pairwise fun a b => a.1 < b.1) :
    (AMap.set m i v).Pairwise fun a b => a.1 < b.1 := by
  induction m with
  | nil => simp [AMap.set]
  | cons kw m ih =>
    obtain ⟨k, w⟩ := kw
    have h' := List.pairwise_cons.1 h
    rw [AMap.set]
    split
    · next hk =>
      refine List.pairwise_cons.2 ⟨fun x hx => ?_, h⟩
      rcases List.mem_cons.1 hx with rfl | hx
      · exact hk
      · exact Nat.lt_trans hk (h'.1 x hx)
    · split
      · next hk =>
        simp only [beq_iff_eq] at hk; subst hk
        exact List.pairwise_cons.2 ⟨h'.1, h'.2⟩
      · next h1 h2 =>
        refine List.pairwise_cons.2 ⟨fun x hx => ?_, ih h'.2⟩
        rcases AMap.mem_set hx with rfl | hx
        · simp only [beq_iff_eq] at h2; show k < i; omega
        · exact h'.1 x hx

end Sys2Proof.Machine
end

