-- ==== Sys2Proof/Laws/Memory.lean ====
section
/-! SUPPORT. Laws of memory: a read after a write, and every operation keeps the canonical form. -/

namespace Sys2Proof.Machine

/-- The canonical form as a statement about the list: addresses strictly rising, no byte 0. -/
theorem Mem.wf_iff (m : List Host.Cell) : Mem.wf m = true ↔ m.Pairwise (fun a b => a.1 < b.1) ∧ ∀ c ∈ m, c.2 ≠ 0 := by
  induction m with
  | nil => simp [Mem.wf]
  | cons ab m ih =>
    obtain ⟨a, b⟩ := ab
    cases m with
    | nil => simp [Mem.wf]
    | cons cd m =>
      obtain ⟨c, d⟩ := cd
      rw [Mem.wf]
      simp only [Bool.and_eq_true, bne_iff_ne, decide_eq_true_eq, ih]
      constructor
      · rintro ⟨⟨hb, hac⟩, hp, hz⟩
        refine ⟨List.pairwise_cons.2 ⟨fun x hx => ?_, hp⟩, ?_⟩
        · rcases List.mem_cons.1 hx with rfl | hx
          · exact hac
          · exact Nat.lt_trans hac ((List.pairwise_cons.1 hp).1 x hx)
        · intro x hx
          rcases List.mem_cons.1 hx with rfl | hx
          · exact hb
          · exact hz x hx
      · rintro ⟨hp, hz⟩
        have hp' := List.pairwise_cons.1 hp
        exact ⟨⟨hz (a, b) (by simp), hp'.1 (c, d) (by simp)⟩, hp'.2, fun x hx => hz x (List.mem_cons_of_mem _ hx)⟩

theorem Mem.read_cons (k : Nat) (b : Byte) (m : List Host.Cell) (a : Nat) :
    Mem.read ((k, b) :: m) a = if k = a then b else Mem.read m a := by
  by_cases h : k = a <;> simp [Mem.read, h]

/-- Below its first address a memory reads as unlisted. -/
theorem Mem.read_below {m : List Host.Cell} {a : Nat} (h : ∀ c ∈ m, a < c.1) : Mem.read m a = 0 := by
  induction m with
  | nil => rfl
  | cons kc m ih =>
    obtain ⟨k, c⟩ := kc
    have hk : a < k := h (k, c) (by simp)
    rw [Mem.read_cons, if_neg (by omega)]
    exact ih fun x hx => h x (List.mem_cons_of_mem _ hx)

theorem Mem.mem_write {m : List Host.Cell} {a : Nat} {b : Byte} {x : Host.Cell} (h : x ∈ Mem.write m a b) :
    (x = (a, b) ∧ b ≠ 0) ∨ x ∈ m := by
  induction m with
  | nil =>
    rw [Mem.write] at h
    split at h
    · simp at h
    · next hb => simp at h hb; exact .inl ⟨h, hb⟩
  | cons kc m ih =>
    obtain ⟨k, c⟩ := kc
    rw [Mem.write] at h
    split at h
    · split at h
      · exact .inr h
      · next hb =>
        simp at hb
        rcases List.mem_cons.1 h with h | h
        · exact .inl ⟨h, hb⟩
        · exact .inr h
    · split at h
      · split at h
        · exact .inr (List.mem_cons_of_mem _ h)
        · next hb =>
          simp at hb
          rcases List.mem_cons.1 h with h | h
          · exact .inl ⟨h, hb⟩
          · exact .inr (List.mem_cons_of_mem _ h)
      · rcases List.mem_cons.1 h with h | h
        · exact .inr (by simp [h])
        · rcases ih h with h | h
          · exact .inl h
          · exact .inr (List.mem_cons_of_mem _ h)

theorem Mem.write_wf {m : List Host.Cell} (a : Nat) (b : Byte) (h : Mem.wf m = true) : Mem.wf (Mem.write m a b) = true := by
  rw [Mem.wf_iff] at h ⊢
  refine ⟨?_, fun c hc => ?_⟩
  · have hp := h.1
    clear h
    induction m with
    | nil => rw [Mem.write]; split <;> simp
    | cons kc m ih =>
      obtain ⟨k, c⟩ := kc
      have hp' := List.pairwise_cons.1 hp
      rw [Mem.write]
      split
      · next hk =>
        split
        · exact hp
        · refine List.pairwise_cons.2 ⟨fun x hx => ?_, hp⟩
          rcases List.mem_cons.1 hx with rfl | hx
          · exact hk
          · exact Nat.lt_trans hk (hp'.1 x hx)
      · split
        · next hk =>
          simp only [beq_iff_eq] at hk; subst hk
          split
          · exact hp'.2
          · exact List.pairwise_cons.2 ⟨hp'.1, hp'.2⟩
        · next h1 h2 =>
          simp only [beq_iff_eq] at h2
          refine List.pairwise_cons.2 ⟨fun x hx => ?_, ih hp'.2⟩
          rcases Mem.mem_write hx with ⟨rfl, -⟩ | hx
          · show k < a; omega
          · exact hp'.1 x hx
  · rcases Mem.mem_write hc with ⟨rfl, hb⟩ | hc
    · exact hb
    · exact h.2 c hc

/-- A byte read after a byte written. -/
theorem Mem.read_write {m : List Host.Cell} (a x : Nat) (b : Byte) (h : Mem.wf m = true) :
    Mem.read (Mem.write m a b) x = if x = a then b else Mem.read m x := by
  have hp := ((Mem.wf_iff m).1 h).1
  clear h
  induction m with
  | nil =>
    rw [Mem.write]
    by_cases hb : b = 0
    · simp [hb, Mem.read]
    · simp only [beq_iff_eq, hb, if_false, Mem.read_cons]
      by_cases hx : x = a
      · simp [hx]
      · simp [hx, Ne.symm hx]
  | cons kc m ih =>
    obtain ⟨k, c⟩ := kc
    have hp' := List.pairwise_cons.1 hp
    rw [Mem.write]
    by_cases hk : a < k
    · rw [if_pos hk]
      by_cases hb : b = 0
      · simp only [hb, beq_self_eq_true, if_true]
        by_cases hx : x = a
        · subst hx
          rw [if_pos rfl]
          apply Mem.read_below
          intro y hy
          rcases List.mem_cons.1 hy with rfl | hy
          · exact hk
          · exact Nat.lt_trans hk (hp'.1 y hy)
        · rw [if_neg hx]
      · simp only [beq_iff_eq, hb, if_false]
        rw [Mem.read_cons]
        by_cases hx : x = a
        · simp [hx]
        · simp [hx, Ne.symm hx]
    · rw [if_neg hk]
      by_cases hka : k = a
      · subst hka
        simp only [beq_self_eq_true, if_true]
        by_cases hb : b = 0
        · simp only [hb, beq_self_eq_true, if_true]
          by_cases hx : x = k
          · subst hx; rw [if_pos rfl]; exact Mem.read_below fun y hy => hp'.1 y hy
          · rw [if_neg hx, Mem.read_cons, if_neg (Ne.symm hx)]
        · simp only [beq_iff_eq, hb, if_false, Mem.read_cons]
          by_cases hx : x = k
          · simp [hx]
          · simp [hx, Ne.symm hx]
      · simp only [beq_iff_eq, hka, if_false, Mem.read_cons, ih hp'.2]
        by_cases hx : k = x
        · subst hx; simp [hka]
        · simp [hx]

theorem Mem.writeNat_wf (n : Nat) : ∀ {m : List Host.Cell} (a v : Nat), Mem.wf m = true → Mem.wf (Mem.writeNat m a v n) = true := by
  induction n with
  | zero => intro m a v h; exact h
  | succ n ih => intro m a v h; exact ih _ _ (Mem.write_wf _ _ h)

theorem Mem.clear_wf {m : List Host.Cell} (a n : Nat) (h : Mem.wf m = true) : Mem.wf (Mem.clear m a n) = true := by
  rw [Mem.wf_iff] at h ⊢
  exact ⟨h.1.filter _, fun c hc => h.2 c (List.mem_filter.1 hc).1⟩

theorem Mem.filter_wf {m : List Host.Cell} (p : Host.Cell → Bool) (h : Mem.wf m = true) : Mem.wf (m.filter p) = true := by
  rw [Mem.wf_iff] at h ⊢
  exact ⟨h.1.filter _, fun c hc => h.2 c (List.mem_filter.1 hc).1⟩

/-- Dropping cells: an address that is kept reads as before, one that is dropped reads as unlisted. -/
theorem Mem.read_filter (m : List Host.Cell) (p : Nat → Bool) (x : Nat) :
    Mem.read (m.filter fun c => p c.1) x = if p x then Mem.read m x else 0 := by
  induction m with
  | nil => simp [Mem.read]
  | cons kc m ih =>
    obtain ⟨k, c⟩ := kc
    by_cases hk : p k
    · rw [List.filter_cons_of_pos (by simpa using hk), Mem.read_cons, Mem.read_cons, ih]
      by_cases hx : k = x
      · subst hx; simp [hk]
      · simp [hx]
    · rw [List.filter_cons_of_neg (by simpa using hk), ih, Mem.read_cons]
      by_cases hx : k = x
      · subst hx; simp [hk]
      · simp [hx]

theorem Mem.read_clear (m : List Host.Cell) (a n x : Nat) : Mem.read (Mem.clear m a n) x = if a ≤ x ∧ x < a + n then 0 else Mem.read m x := by
  unfold Mem.clear
  rw [Mem.read_filter m (fun k => k < a || a + n ≤ k) x]
  by_cases h : a ≤ x ∧ x < a + n
  · rw [if_pos h, if_neg]; simp; omega
  · rw [if_neg h, if_pos]; simp; omega

/-- A byte read after a wide write: the write's byte inside it, the old one outside. -/
theorem Mem.read_writeNat (n : Nat) : ∀ {m : List Host.Cell} (a v x : Nat), Mem.wf m = true →
    Mem.read (Mem.writeNat m a v n) x = if a ≤ x ∧ x < a + n then BitVec.ofNat 8 (v / 256 ^ (x - a)) else Mem.read m x := by
  induction n with
  | zero => intro m a v x h; rw [if_neg (by omega)]; rfl
  | succ n ih =>
    intro m a v x h
    rw [Mem.writeNat, ih _ _ _ (Mem.write_wf _ _ h), Mem.read_write _ _ _ h]
    by_cases h1 : x = a
    · subst h1
      rw [if_neg (by omega), if_pos rfl, if_pos (by omega)]
      simp
    · by_cases h2 : a ≤ x ∧ x < a + (n + 1)
      · rw [if_pos (by omega), if_pos h2]
        obtain ⟨d, hd⟩ : ∃ d, x - a = d + 1 := ⟨x - a - 1, by omega⟩
        rw [hd, show x - (a + 1) = d by omega, Nat.pow_succ', Nat.div_div_eq_div_mul]
      · rw [if_neg (by omega), if_neg h1, if_neg h2]

theorem Mem.read_writeNat_of_outside {n : Nat} {m : List Host.Cell} {a v x : Nat} (h : Mem.wf m = true) (hx : x < a ∨ a + n ≤ x) :
    Mem.read (Mem.writeNat m a v n) x = Mem.read m x := by
  rw [Mem.read_writeNat n _ _ _ h, if_neg (by omega)]

/-- A wide read depends on its bytes alone. -/
theorem Mem.readNat_congr {m m' : List Host.Cell} (n : Nat) : ∀ a, (∀ x, a ≤ x → x < a + n → Mem.read m x = Mem.read m' x) →
    Mem.readNat m a n = Mem.readNat m' a n := by
  induction n with
  | zero => intro a _; rfl
  | succ n ih =>
    intro a h
    rw [Mem.readNat, Mem.readNat, h a (by omega) (by omega), ih (a + 1) fun x h1 h2 => h x (by omega) (by omega)]

theorem Mem.readNat_lt (m : List Host.Cell) (n : Nat) : ∀ a, Mem.readNat m a n < 256 ^ n := by
  induction n with
  | zero => intro a; simp [Mem.readNat]
  | succ n ih =>
    intro a
    rw [Mem.readNat, Nat.pow_succ']
    have h1 := (Mem.read m a).isLt
    have h2 := ih (a + 1)
    omega

/-- A wide read after a wide write of the same place gives the low bytes of what was written. -/
theorem Mem.readNat_writeNat (n : Nat) : ∀ {m : List Host.Cell} (a v : Nat), Mem.wf m = true →
    Mem.readNat (Mem.writeNat m a v n) a n = v % 256 ^ n := by
  induction n with
  | zero => intro m a v _; simp [Mem.readNat, Nat.mod_one]
  | succ n ih =>
    intro m a v h
    rw [Mem.readNat, Mem.writeNat, ih _ _ (Mem.write_wf _ _ h), Mem.read_writeNat_of_outside (Mem.write_wf _ _ h) (by omega),
      Mem.read_write _ _ _ h, if_pos rfl, Nat.pow_succ', Nat.mod_mul]
    simp

-- ## Region memory's banks (R273)

/-- A line lies in one of 48 banks, within the bank's 32,768 lines. -/
theorem bank_bounds (k : Nat) (h : k % 2 ^ 30 < 0x6000000) : lineBank (regionLine k) < 48 ∧ bankLine (regionLine k) < 32768 := by
  simp only [lineBank, bankLine, regionLine]; omega

/-- Bank and line of the bank name one line. -/
theorem line_of_bank (l : Nat) : 48 * bankLine l + lineBank l = l := Nat.div_add_mod l 48

end Sys2Proof.Machine
end

