-- ==== Sys2Proof/Laws/State.lean ====
section
/-! SUPPORT. One lemma per update of State and per field it leaves, and what each named part of the state reads as after its update. -/

namespace Sys2Proof.Machine

section

variable (s : State)

@[simp] theorem State.setCore_pending (c : Nat) (v : Core) : (s.setCore c v).pending = s.pending := rfl
@[simp] theorem State.setCore_mem (c : Nat) (v : Core) : (s.setCore c v).mem = s.mem := rfl
@[simp] theorem State.setCore_host0 (c : Nat) (v : Core) : (s.setCore c v).host0 = s.host0 := rfl
@[simp] theorem State.setCore_host1 (c : Nat) (v : Core) : (s.setCore c v).host1 = s.host1 := rfl
@[simp] theorem State.setCore_bad (c : Nat) (v : Core) : (s.setCore c v).bad = s.bad := rfl
@[simp] theorem State.setCore_poisoned (c : Nat) (v : Core) : (s.setCore c v).poisoned = s.poisoned := rfl
@[simp] theorem State.setCore_hostBad (c : Nat) (v : Core) : (s.setCore c v).hostBad = s.hostBad := rfl
@[simp] theorem State.setCore_od (c : Nat) (v : Core) : (s.setCore c v).od = s.od := rfl
@[simp] theorem State.setCore_td (c : Nat) (v : Core) : (s.setCore c v).td = s.td := rfl
@[simp] theorem State.setCore_rings (c : Nat) (v : Core) : (s.setCore c v).rings = s.rings := rfl
@[simp] theorem State.setCore_cmds (c : Nat) (v : Core) : (s.setCore c v).cmds = s.cmds := rfl
@[simp] theorem State.setCore_ops (c : Nat) (v : Core) : (s.setCore c v).ops = s.ops := rfl
@[simp] theorem State.setCore_counters (c : Nat) (v : Core) : (s.setCore c v).counters = s.counters := rfl
@[simp] theorem State.setCore_tickets (c : Nat) (v : Core) : (s.setCore c v).tickets = s.tickets := rfl
@[simp] theorem State.setCore_stale (c : Nat) (v : Core) : (s.setCore c v).stale = s.stale := rfl
@[simp] theorem State.setCore_reissueWait (c : Nat) (v : Core) : (s.setCore c v).reissueWait = s.reissueWait := rfl
@[simp] theorem State.setCore_alm (c : Nat) (v : Core) : (s.setCore c v).alm = s.alm := rfl
@[simp] theorem State.setCore_groups (c : Nat) (v : Core) : (s.setCore c v).groups = s.groups := rfl
@[simp] theorem State.setCore_sacs (c : Nat) (v : Core) : (s.setCore c v).sacs = s.sacs := rfl
@[simp] theorem State.setCore_queues (c : Nat) (v : Core) : (s.setCore c v).queues = s.queues := rfl
@[simp] theorem State.setCore_locks (c : Nat) (v : Core) : (s.setCore c v).locks = s.locks := rfl
@[simp] theorem State.setCore_epochs (c : Nat) (v : Core) : (s.setCore c v).epochs = s.epochs := rfl
@[simp] theorem State.setCore_lockReply (c : Nat) (v : Core) : (s.setCore c v).lockReply = s.lockReply := rfl
@[simp] theorem State.setCore_slots (c : Nat) (v : Core) : (s.setCore c v).slots = s.slots := rfl
@[simp] theorem State.setCore_heldReqs (c : Nat) (v : Core) : (s.setCore c v).heldReqs = s.heldReqs := rfl
@[simp] theorem State.setCore_accepted (c : Nat) (v : Core) : (s.setCore c v).accepted = s.accepted := rfl
@[simp] theorem State.setCore_nextAccept (c : Nat) (v : Core) : (s.setCore c v).nextAccept = s.nextAccept := rfl
@[simp] theorem State.setCore_txns (c : Nat) (v : Core) : (s.setCore c v).txns = s.txns := rfl
@[simp] theorem State.setCore_nextTag (c : Nat) (v : Core) : (s.setCore c v).nextTag = s.nextTag := rfl
@[simp] theorem State.setCore_arrived (c : Nat) (v : Core) : (s.setCore c v).arrived = s.arrived := rfl
@[simp] theorem State.setCore_routes (c : Nat) (v : Core) : (s.setCore c v).routes = s.routes := rfl
@[simp] theorem State.setCore_badRoutes (c : Nat) (v : Core) : (s.setCore c v).badRoutes = s.badRoutes := rfl
@[simp] theorem State.setCore_ports (c : Nat) (v : Core) : (s.setCore c v).ports = s.ports := rfl
@[simp] theorem State.setCore_rx (c : Nat) (v : Core) : (s.setCore c v).rx = s.rx := rfl
@[simp] theorem State.setCore_egress (c : Nat) (v : Core) : (s.setCore c v).egress = s.egress := rfl
@[simp] theorem State.setCore_regionArb (c : Nat) (v : Core) : (s.setCore c v).regionArb = s.regionArb := rfl
@[simp] theorem State.setCore_egressArb (c : Nat) (v : Core) : (s.setCore c v).egressArb = s.egressArb := rfl
@[simp] theorem State.setCore_can (c : Nat) (v : Core) : (s.setCore c v).can = s.can := rfl
@[simp] theorem State.setCore_mb0 (c : Nat) (v : Core) : (s.setCore c v).mb0 = s.mb0 := rfl
@[simp] theorem State.setCore_mb1 (c : Nat) (v : Core) : (s.setCore c v).mb1 = s.mb1 := rfl
@[simp] theorem State.setCore_mbOther (c : Nat) (v : Core) : (s.setCore c v).mbOther = s.mbOther := rfl
@[simp] theorem State.setCore_canTx (c : Nat) (v : Core) : (s.setCore c v).canTx = s.canTx := rfl
@[simp] theorem State.setCore_msix (c : Nat) (v : Core) : (s.setCore c v).msix = s.msix := rfl
@[simp] theorem State.setCore_msixTable (c : Nat) (v : Core) : (s.setCore c v).msixTable = s.msixTable := rfl
@[simp] theorem State.setCore_pba (c : Nat) (v : Core) : (s.setCore c v).pba = s.pba := rfl
@[simp] theorem State.setCore_hostFns (c : Nat) (v : Core) : (s.setCore c v).hostFns = s.hostFns := rfl
@[simp] theorem State.setCore_mgmtIn (c : Nat) (v : Core) : (s.setCore c v).mgmtIn = s.mgmtIn := rfl
@[simp] theorem State.setCore_otp (c : Nat) (v : Core) : (s.setCore c v).otp = s.otp := rfl
@[simp] theorem State.setCore_commit (c : Nat) (v : Core) : (s.setCore c v).commit = s.commit := rfl
@[simp] theorem State.setCore_retained (c : Nat) (v : Core) : (s.setCore c v).retained = s.retained := rfl
@[simp] theorem State.setCore_retainedBad (c : Nat) (v : Core) : (s.setCore c v).retainedBad = s.retainedBad := rfl
@[simp] theorem State.setCore_fw (c : Nat) (v : Core) : (s.setCore c v).fw = s.fw := rfl
@[simp] theorem State.setCore_clearing (c : Nat) (v : Core) : (s.setCore c v).clearing = s.clearing := rfl
@[simp] theorem State.setCore_hbmStacks (c : Nat) (v : Core) : (s.setCore c v).hbmStacks = s.hbmStacks := rfl
@[simp] theorem State.setCore_keys (c : Nat) (v : Core) : (s.setCore c v).keys = s.keys := rfl
@[simp] theorem State.setCore_d2d (c : Nat) (v : Core) : (s.setCore c v).d2d = s.d2d := rfl
@[simp] theorem State.setCore_netFails (c : Nat) (v : Core) : (s.setCore c v).netFails = s.netFails := rfl
@[simp] theorem State.setCore_log (c : Nat) (v : Core) : (s.setCore c v).log = s.log := rfl
@[simp] theorem State.setCore_diesFenced (c : Nat) (v : Core) : (s.setCore c v).diesFenced = s.diesFenced := rfl
@[simp] theorem State.setCore_dmpBeats (c : Nat) (v : Core) : (s.setCore c v).dmpBeats = s.dmpBeats := rfl
@[simp] theorem State.setCore_retest (c : Nat) (v : Core) : (s.setCore c v).retest = s.retest := rfl
@[simp] theorem State.setCore_fences (c : Nat) (v : Core) : (s.setCore c v).fences = s.fences := rfl
@[simp] theorem State.setCore_copyingWindows (c : Nat) (v : Core) : (s.setCore c v).copyingWindows = s.copyingWindows := rfl
@[simp] theorem State.setCore_carried (c : Nat) (v : Core) : (s.setCore c v).carried = s.carried := rfl
@[simp] theorem State.setCore_bounce (c : Nat) (v : Core) : (s.setCore c v).bounce = s.bounce := rfl
@[simp] theorem State.setCore_timeUs (c : Nat) (v : Core) : (s.setCore c v).timeUs = s.timeUs := rfl
@[simp] theorem State.setCore_regions (c : Nat) (v : Core) : (s.setCore c v).regions = s.regions := rfl
@[simp] theorem State.setCore_power (c : Nat) (v : Core) : (s.setCore c v).power = s.power := rfl
@[simp] theorem State.setCore_pins (c : Nat) (v : Core) : (s.setCore c v).pins = s.pins := rfl
@[simp] theorem State.setCore_boot (c : Nat) (v : Core) : (s.setCore c v).boot = s.boot := rfl
@[simp] theorem State.setCore_dbg (c : Nat) (v : Core) : (s.setCore c v).dbg = s.dbg := rfl
@[simp] theorem State.setCore_freeCtr (c : Nat) (v : Core) : (s.setCore c v).freeCtr = s.freeCtr := rfl

@[simp] theorem State.setRing_pending (r : Nat) (v : Ring) : (s.setRing r v).pending = s.pending := rfl
@[simp] theorem State.setRing_mem (r : Nat) (v : Ring) : (s.setRing r v).mem = s.mem := rfl
@[simp] theorem State.setRing_host0 (r : Nat) (v : Ring) : (s.setRing r v).host0 = s.host0 := rfl
@[simp] theorem State.setRing_host1 (r : Nat) (v : Ring) : (s.setRing r v).host1 = s.host1 := rfl
@[simp] theorem State.setRing_bad (r : Nat) (v : Ring) : (s.setRing r v).bad = s.bad := rfl
@[simp] theorem State.setRing_poisoned (r : Nat) (v : Ring) : (s.setRing r v).poisoned = s.poisoned := rfl
@[simp] theorem State.setRing_hostBad (r : Nat) (v : Ring) : (s.setRing r v).hostBad = s.hostBad := rfl
@[simp] theorem State.setRing_od (r : Nat) (v : Ring) : (s.setRing r v).od = s.od := rfl
@[simp] theorem State.setRing_td (r : Nat) (v : Ring) : (s.setRing r v).td = s.td := rfl
@[simp] theorem State.setRing_cmds (r : Nat) (v : Ring) : (s.setRing r v).cmds = s.cmds := rfl
@[simp] theorem State.setRing_ops (r : Nat) (v : Ring) : (s.setRing r v).ops = s.ops := rfl
@[simp] theorem State.setRing_cores (r : Nat) (v : Ring) : (s.setRing r v).cores = s.cores := rfl
@[simp] theorem State.setRing_counters (r : Nat) (v : Ring) : (s.setRing r v).counters = s.counters := rfl
@[simp] theorem State.setRing_tickets (r : Nat) (v : Ring) : (s.setRing r v).tickets = s.tickets := rfl
@[simp] theorem State.setRing_stale (r : Nat) (v : Ring) : (s.setRing r v).stale = s.stale := rfl
@[simp] theorem State.setRing_reissueWait (r : Nat) (v : Ring) : (s.setRing r v).reissueWait = s.reissueWait := rfl
@[simp] theorem State.setRing_alm (r : Nat) (v : Ring) : (s.setRing r v).alm = s.alm := rfl
@[simp] theorem State.setRing_groups (r : Nat) (v : Ring) : (s.setRing r v).groups = s.groups := rfl
@[simp] theorem State.setRing_sacs (r : Nat) (v : Ring) : (s.setRing r v).sacs = s.sacs := rfl
@[simp] theorem State.setRing_queues (r : Nat) (v : Ring) : (s.setRing r v).queues = s.queues := rfl
@[simp] theorem State.setRing_locks (r : Nat) (v : Ring) : (s.setRing r v).locks = s.locks := rfl
@[simp] theorem State.setRing_epochs (r : Nat) (v : Ring) : (s.setRing r v).epochs = s.epochs := rfl
@[simp] theorem State.setRing_lockReply (r : Nat) (v : Ring) : (s.setRing r v).lockReply = s.lockReply := rfl
@[simp] theorem State.setRing_slots (r : Nat) (v : Ring) : (s.setRing r v).slots = s.slots := rfl
@[simp] theorem State.setRing_heldReqs (r : Nat) (v : Ring) : (s.setRing r v).heldReqs = s.heldReqs := rfl
@[simp] theorem State.setRing_accepted (r : Nat) (v : Ring) : (s.setRing r v).accepted = s.accepted := rfl
@[simp] theorem State.setRing_nextAccept (r : Nat) (v : Ring) : (s.setRing r v).nextAccept = s.nextAccept := rfl
@[simp] theorem State.setRing_txns (r : Nat) (v : Ring) : (s.setRing r v).txns = s.txns := rfl
@[simp] theorem State.setRing_nextTag (r : Nat) (v : Ring) : (s.setRing r v).nextTag = s.nextTag := rfl
@[simp] theorem State.setRing_arrived (r : Nat) (v : Ring) : (s.setRing r v).arrived = s.arrived := rfl
@[simp] theorem State.setRing_routes (r : Nat) (v : Ring) : (s.setRing r v).routes = s.routes := rfl
@[simp] theorem State.setRing_badRoutes (r : Nat) (v : Ring) : (s.setRing r v).badRoutes = s.badRoutes := rfl
@[simp] theorem State.setRing_ports (r : Nat) (v : Ring) : (s.setRing r v).ports = s.ports := rfl
@[simp] theorem State.setRing_rx (r : Nat) (v : Ring) : (s.setRing r v).rx = s.rx := rfl
@[simp] theorem State.setRing_egress (r : Nat) (v : Ring) : (s.setRing r v).egress = s.egress := rfl
@[simp] theorem State.setRing_regionArb (r : Nat) (v : Ring) : (s.setRing r v).regionArb = s.regionArb := rfl
@[simp] theorem State.setRing_egressArb (r : Nat) (v : Ring) : (s.setRing r v).egressArb = s.egressArb := rfl
@[simp] theorem State.setRing_can (r : Nat) (v : Ring) : (s.setRing r v).can = s.can := rfl
@[simp] theorem State.setRing_mb0 (r : Nat) (v : Ring) : (s.setRing r v).mb0 = s.mb0 := rfl
@[simp] theorem State.setRing_mb1 (r : Nat) (v : Ring) : (s.setRing r v).mb1 = s.mb1 := rfl
@[simp] theorem State.setRing_mbOther (r : Nat) (v : Ring) : (s.setRing r v).mbOther = s.mbOther := rfl
@[simp] theorem State.setRing_canTx (r : Nat) (v : Ring) : (s.setRing r v).canTx = s.canTx := rfl
@[simp] theorem State.setRing_msix (r : Nat) (v : Ring) : (s.setRing r v).msix = s.msix := rfl
@[simp] theorem State.setRing_msixTable (r : Nat) (v : Ring) : (s.setRing r v).msixTable = s.msixTable := rfl
@[simp] theorem State.setRing_pba (r : Nat) (v : Ring) : (s.setRing r v).pba = s.pba := rfl
@[simp] theorem State.setRing_hostFns (r : Nat) (v : Ring) : (s.setRing r v).hostFns = s.hostFns := rfl
@[simp] theorem State.setRing_mgmtIn (r : Nat) (v : Ring) : (s.setRing r v).mgmtIn = s.mgmtIn := rfl
@[simp] theorem State.setRing_otp (r : Nat) (v : Ring) : (s.setRing r v).otp = s.otp := rfl
@[simp] theorem State.setRing_commit (r : Nat) (v : Ring) : (s.setRing r v).commit = s.commit := rfl
@[simp] theorem State.setRing_retained (r : Nat) (v : Ring) : (s.setRing r v).retained = s.retained := rfl
@[simp] theorem State.setRing_retainedBad (r : Nat) (v : Ring) : (s.setRing r v).retainedBad = s.retainedBad := rfl
@[simp] theorem State.setRing_fw (r : Nat) (v : Ring) : (s.setRing r v).fw = s.fw := rfl
@[simp] theorem State.setRing_clearing (r : Nat) (v : Ring) : (s.setRing r v).clearing = s.clearing := rfl
@[simp] theorem State.setRing_hbmStacks (r : Nat) (v : Ring) : (s.setRing r v).hbmStacks = s.hbmStacks := rfl
@[simp] theorem State.setRing_keys (r : Nat) (v : Ring) : (s.setRing r v).keys = s.keys := rfl
@[simp] theorem State.setRing_d2d (r : Nat) (v : Ring) : (s.setRing r v).d2d = s.d2d := rfl
@[simp] theorem State.setRing_netFails (r : Nat) (v : Ring) : (s.setRing r v).netFails = s.netFails := rfl
@[simp] theorem State.setRing_log (r : Nat) (v : Ring) : (s.setRing r v).log = s.log := rfl
@[simp] theorem State.setRing_diesFenced (r : Nat) (v : Ring) : (s.setRing r v).diesFenced = s.diesFenced := rfl
@[simp] theorem State.setRing_dmpBeats (r : Nat) (v : Ring) : (s.setRing r v).dmpBeats = s.dmpBeats := rfl
@[simp] theorem State.setRing_retest (r : Nat) (v : Ring) : (s.setRing r v).retest = s.retest := rfl
@[simp] theorem State.setRing_fences (r : Nat) (v : Ring) : (s.setRing r v).fences = s.fences := rfl
@[simp] theorem State.setRing_copyingWindows (r : Nat) (v : Ring) : (s.setRing r v).copyingWindows = s.copyingWindows := rfl
@[simp] theorem State.setRing_carried (r : Nat) (v : Ring) : (s.setRing r v).carried = s.carried := rfl
@[simp] theorem State.setRing_bounce (r : Nat) (v : Ring) : (s.setRing r v).bounce = s.bounce := rfl
@[simp] theorem State.setRing_timeUs (r : Nat) (v : Ring) : (s.setRing r v).timeUs = s.timeUs := rfl
@[simp] theorem State.setRing_regions (r : Nat) (v : Ring) : (s.setRing r v).regions = s.regions := rfl
@[simp] theorem State.setRing_power (r : Nat) (v : Ring) : (s.setRing r v).power = s.power := rfl
@[simp] theorem State.setRing_pins (r : Nat) (v : Ring) : (s.setRing r v).pins = s.pins := rfl
@[simp] theorem State.setRing_boot (r : Nat) (v : Ring) : (s.setRing r v).boot = s.boot := rfl
@[simp] theorem State.setRing_dbg (r : Nat) (v : Ring) : (s.setRing r v).dbg = s.dbg := rfl
@[simp] theorem State.setRing_freeCtr (r : Nat) (v : Ring) : (s.setRing r v).freeCtr = s.freeCtr := rfl

@[simp] theorem State.setQueue_pending (q : Nat) (v : Queue) : (s.setQueue q v).pending = s.pending := rfl
@[simp] theorem State.setQueue_mem (q : Nat) (v : Queue) : (s.setQueue q v).mem = s.mem := rfl
@[simp] theorem State.setQueue_host0 (q : Nat) (v : Queue) : (s.setQueue q v).host0 = s.host0 := rfl
@[simp] theorem State.setQueue_host1 (q : Nat) (v : Queue) : (s.setQueue q v).host1 = s.host1 := rfl
@[simp] theorem State.setQueue_bad (q : Nat) (v : Queue) : (s.setQueue q v).bad = s.bad := rfl
@[simp] theorem State.setQueue_poisoned (q : Nat) (v : Queue) : (s.setQueue q v).poisoned = s.poisoned := rfl
@[simp] theorem State.setQueue_hostBad (q : Nat) (v : Queue) : (s.setQueue q v).hostBad = s.hostBad := rfl
@[simp] theorem State.setQueue_od (q : Nat) (v : Queue) : (s.setQueue q v).od = s.od := rfl
@[simp] theorem State.setQueue_td (q : Nat) (v : Queue) : (s.setQueue q v).td = s.td := rfl
@[simp] theorem State.setQueue_rings (q : Nat) (v : Queue) : (s.setQueue q v).rings = s.rings := rfl
@[simp] theorem State.setQueue_cmds (q : Nat) (v : Queue) : (s.setQueue q v).cmds = s.cmds := rfl
@[simp] theorem State.setQueue_ops (q : Nat) (v : Queue) : (s.setQueue q v).ops = s.ops := rfl
@[simp] theorem State.setQueue_cores (q : Nat) (v : Queue) : (s.setQueue q v).cores = s.cores := rfl
@[simp] theorem State.setQueue_counters (q : Nat) (v : Queue) : (s.setQueue q v).counters = s.counters := rfl
@[simp] theorem State.setQueue_tickets (q : Nat) (v : Queue) : (s.setQueue q v).tickets = s.tickets := rfl
@[simp] theorem State.setQueue_stale (q : Nat) (v : Queue) : (s.setQueue q v).stale = s.stale := rfl
@[simp] theorem State.setQueue_reissueWait (q : Nat) (v : Queue) : (s.setQueue q v).reissueWait = s.reissueWait := rfl
@[simp] theorem State.setQueue_alm (q : Nat) (v : Queue) : (s.setQueue q v).alm = s.alm := rfl
@[simp] theorem State.setQueue_groups (q : Nat) (v : Queue) : (s.setQueue q v).groups = s.groups := rfl
@[simp] theorem State.setQueue_sacs (q : Nat) (v : Queue) : (s.setQueue q v).sacs = s.sacs := rfl
@[simp] theorem State.setQueue_locks (q : Nat) (v : Queue) : (s.setQueue q v).locks = s.locks := rfl
@[simp] theorem State.setQueue_epochs (q : Nat) (v : Queue) : (s.setQueue q v).epochs = s.epochs := rfl
@[simp] theorem State.setQueue_lockReply (q : Nat) (v : Queue) : (s.setQueue q v).lockReply = s.lockReply := rfl
@[simp] theorem State.setQueue_slots (q : Nat) (v : Queue) : (s.setQueue q v).slots = s.slots := rfl
@[simp] theorem State.setQueue_heldReqs (q : Nat) (v : Queue) : (s.setQueue q v).heldReqs = s.heldReqs := rfl
@[simp] theorem State.setQueue_accepted (q : Nat) (v : Queue) : (s.setQueue q v).accepted = s.accepted := rfl
@[simp] theorem State.setQueue_nextAccept (q : Nat) (v : Queue) : (s.setQueue q v).nextAccept = s.nextAccept := rfl
@[simp] theorem State.setQueue_txns (q : Nat) (v : Queue) : (s.setQueue q v).txns = s.txns := rfl
@[simp] theorem State.setQueue_nextTag (q : Nat) (v : Queue) : (s.setQueue q v).nextTag = s.nextTag := rfl
@[simp] theorem State.setQueue_arrived (q : Nat) (v : Queue) : (s.setQueue q v).arrived = s.arrived := rfl
@[simp] theorem State.setQueue_routes (q : Nat) (v : Queue) : (s.setQueue q v).routes = s.routes := rfl
@[simp] theorem State.setQueue_badRoutes (q : Nat) (v : Queue) : (s.setQueue q v).badRoutes = s.badRoutes := rfl
@[simp] theorem State.setQueue_ports (q : Nat) (v : Queue) : (s.setQueue q v).ports = s.ports := rfl
@[simp] theorem State.setQueue_rx (q : Nat) (v : Queue) : (s.setQueue q v).rx = s.rx := rfl
@[simp] theorem State.setQueue_egress (q : Nat) (v : Queue) : (s.setQueue q v).egress = s.egress := rfl
@[simp] theorem State.setQueue_regionArb (q : Nat) (v : Queue) : (s.setQueue q v).regionArb = s.regionArb := rfl
@[simp] theorem State.setQueue_egressArb (q : Nat) (v : Queue) : (s.setQueue q v).egressArb = s.egressArb := rfl
@[simp] theorem State.setQueue_can (q : Nat) (v : Queue) : (s.setQueue q v).can = s.can := rfl
@[simp] theorem State.setQueue_mb0 (q : Nat) (v : Queue) : (s.setQueue q v).mb0 = s.mb0 := rfl
@[simp] theorem State.setQueue_mb1 (q : Nat) (v : Queue) : (s.setQueue q v).mb1 = s.mb1 := rfl
@[simp] theorem State.setQueue_mbOther (q : Nat) (v : Queue) : (s.setQueue q v).mbOther = s.mbOther := rfl
@[simp] theorem State.setQueue_canTx (q : Nat) (v : Queue) : (s.setQueue q v).canTx = s.canTx := rfl
@[simp] theorem State.setQueue_msix (q : Nat) (v : Queue) : (s.setQueue q v).msix = s.msix := rfl
@[simp] theorem State.setQueue_msixTable (q : Nat) (v : Queue) : (s.setQueue q v).msixTable = s.msixTable := rfl
@[simp] theorem State.setQueue_pba (q : Nat) (v : Queue) : (s.setQueue q v).pba = s.pba := rfl
@[simp] theorem State.setQueue_hostFns (q : Nat) (v : Queue) : (s.setQueue q v).hostFns = s.hostFns := rfl
@[simp] theorem State.setQueue_mgmtIn (q : Nat) (v : Queue) : (s.setQueue q v).mgmtIn = s.mgmtIn := rfl
@[simp] theorem State.setQueue_otp (q : Nat) (v : Queue) : (s.setQueue q v).otp = s.otp := rfl
@[simp] theorem State.setQueue_commit (q : Nat) (v : Queue) : (s.setQueue q v).commit = s.commit := rfl
@[simp] theorem State.setQueue_retained (q : Nat) (v : Queue) : (s.setQueue q v).retained = s.retained := rfl
@[simp] theorem State.setQueue_retainedBad (q : Nat) (v : Queue) : (s.setQueue q v).retainedBad = s.retainedBad := rfl
@[simp] theorem State.setQueue_fw (q : Nat) (v : Queue) : (s.setQueue q v).fw = s.fw := rfl
@[simp] theorem State.setQueue_clearing (q : Nat) (v : Queue) : (s.setQueue q v).clearing = s.clearing := rfl
@[simp] theorem State.setQueue_hbmStacks (q : Nat) (v : Queue) : (s.setQueue q v).hbmStacks = s.hbmStacks := rfl
@[simp] theorem State.setQueue_keys (q : Nat) (v : Queue) : (s.setQueue q v).keys = s.keys := rfl
@[simp] theorem State.setQueue_d2d (q : Nat) (v : Queue) : (s.setQueue q v).d2d = s.d2d := rfl
@[simp] theorem State.setQueue_netFails (q : Nat) (v : Queue) : (s.setQueue q v).netFails = s.netFails := rfl
@[simp] theorem State.setQueue_log (q : Nat) (v : Queue) : (s.setQueue q v).log = s.log := rfl
@[simp] theorem State.setQueue_diesFenced (q : Nat) (v : Queue) : (s.setQueue q v).diesFenced = s.diesFenced := rfl
@[simp] theorem State.setQueue_dmpBeats (q : Nat) (v : Queue) : (s.setQueue q v).dmpBeats = s.dmpBeats := rfl
@[simp] theorem State.setQueue_retest (q : Nat) (v : Queue) : (s.setQueue q v).retest = s.retest := rfl
@[simp] theorem State.setQueue_fences (q : Nat) (v : Queue) : (s.setQueue q v).fences = s.fences := rfl
@[simp] theorem State.setQueue_copyingWindows (q : Nat) (v : Queue) : (s.setQueue q v).copyingWindows = s.copyingWindows := rfl
@[simp] theorem State.setQueue_carried (q : Nat) (v : Queue) : (s.setQueue q v).carried = s.carried := rfl
@[simp] theorem State.setQueue_bounce (q : Nat) (v : Queue) : (s.setQueue q v).bounce = s.bounce := rfl
@[simp] theorem State.setQueue_timeUs (q : Nat) (v : Queue) : (s.setQueue q v).timeUs = s.timeUs := rfl
@[simp] theorem State.setQueue_regions (q : Nat) (v : Queue) : (s.setQueue q v).regions = s.regions := rfl
@[simp] theorem State.setQueue_power (q : Nat) (v : Queue) : (s.setQueue q v).power = s.power := rfl
@[simp] theorem State.setQueue_pins (q : Nat) (v : Queue) : (s.setQueue q v).pins = s.pins := rfl
@[simp] theorem State.setQueue_boot (q : Nat) (v : Queue) : (s.setQueue q v).boot = s.boot := rfl
@[simp] theorem State.setQueue_dbg (q : Nat) (v : Queue) : (s.setQueue q v).dbg = s.dbg := rfl
@[simp] theorem State.setQueue_freeCtr (q : Nat) (v : Queue) : (s.setQueue q v).freeCtr = s.freeCtr := rfl

@[simp] theorem State.setSlot_pending (i : Nat) (v : Slot) : (s.setSlot i v).pending = s.pending := rfl
@[simp] theorem State.setSlot_mem (i : Nat) (v : Slot) : (s.setSlot i v).mem = s.mem := rfl
@[simp] theorem State.setSlot_host0 (i : Nat) (v : Slot) : (s.setSlot i v).host0 = s.host0 := rfl
@[simp] theorem State.setSlot_host1 (i : Nat) (v : Slot) : (s.setSlot i v).host1 = s.host1 := rfl
@[simp] theorem State.setSlot_bad (i : Nat) (v : Slot) : (s.setSlot i v).bad = s.bad := rfl
@[simp] theorem State.setSlot_poisoned (i : Nat) (v : Slot) : (s.setSlot i v).poisoned = s.poisoned := rfl
@[simp] theorem State.setSlot_hostBad (i : Nat) (v : Slot) : (s.setSlot i v).hostBad = s.hostBad := rfl
@[simp] theorem State.setSlot_od (i : Nat) (v : Slot) : (s.setSlot i v).od = s.od := rfl
@[simp] theorem State.setSlot_td (i : Nat) (v : Slot) : (s.setSlot i v).td = s.td := rfl
@[simp] theorem State.setSlot_rings (i : Nat) (v : Slot) : (s.setSlot i v).rings = s.rings := rfl
@[simp] theorem State.setSlot_cmds (i : Nat) (v : Slot) : (s.setSlot i v).cmds = s.cmds := rfl
@[simp] theorem State.setSlot_ops (i : Nat) (v : Slot) : (s.setSlot i v).ops = s.ops := rfl
@[simp] theorem State.setSlot_cores (i : Nat) (v : Slot) : (s.setSlot i v).cores = s.cores := rfl
@[simp] theorem State.setSlot_counters (i : Nat) (v : Slot) : (s.setSlot i v).counters = s.counters := rfl
@[simp] theorem State.setSlot_tickets (i : Nat) (v : Slot) : (s.setSlot i v).tickets = s.tickets := rfl
@[simp] theorem State.setSlot_stale (i : Nat) (v : Slot) : (s.setSlot i v).stale = s.stale := rfl
@[simp] theorem State.setSlot_reissueWait (i : Nat) (v : Slot) : (s.setSlot i v).reissueWait = s.reissueWait := rfl
@[simp] theorem State.setSlot_alm (i : Nat) (v : Slot) : (s.setSlot i v).alm = s.alm := rfl
@[simp] theorem State.setSlot_groups (i : Nat) (v : Slot) : (s.setSlot i v).groups = s.groups := rfl
@[simp] theorem State.setSlot_sacs (i : Nat) (v : Slot) : (s.setSlot i v).sacs = s.sacs := rfl
@[simp] theorem State.setSlot_queues (i : Nat) (v : Slot) : (s.setSlot i v).queues = s.queues := rfl
@[simp] theorem State.setSlot_locks (i : Nat) (v : Slot) : (s.setSlot i v).locks = s.locks := rfl
@[simp] theorem State.setSlot_epochs (i : Nat) (v : Slot) : (s.setSlot i v).epochs = s.epochs := rfl
@[simp] theorem State.setSlot_lockReply (i : Nat) (v : Slot) : (s.setSlot i v).lockReply = s.lockReply := rfl
@[simp] theorem State.setSlot_heldReqs (i : Nat) (v : Slot) : (s.setSlot i v).heldReqs = s.heldReqs := rfl
@[simp] theorem State.setSlot_accepted (i : Nat) (v : Slot) : (s.setSlot i v).accepted = s.accepted := rfl
@[simp] theorem State.setSlot_nextAccept (i : Nat) (v : Slot) : (s.setSlot i v).nextAccept = s.nextAccept := rfl
@[simp] theorem State.setSlot_txns (i : Nat) (v : Slot) : (s.setSlot i v).txns = s.txns := rfl
@[simp] theorem State.setSlot_nextTag (i : Nat) (v : Slot) : (s.setSlot i v).nextTag = s.nextTag := rfl
@[simp] theorem State.setSlot_arrived (i : Nat) (v : Slot) : (s.setSlot i v).arrived = s.arrived := rfl
@[simp] theorem State.setSlot_routes (i : Nat) (v : Slot) : (s.setSlot i v).routes = s.routes := rfl
@[simp] theorem State.setSlot_badRoutes (i : Nat) (v : Slot) : (s.setSlot i v).badRoutes = s.badRoutes := rfl
@[simp] theorem State.setSlot_ports (i : Nat) (v : Slot) : (s.setSlot i v).ports = s.ports := rfl
@[simp] theorem State.setSlot_rx (i : Nat) (v : Slot) : (s.setSlot i v).rx = s.rx := rfl
@[simp] theorem State.setSlot_egress (i : Nat) (v : Slot) : (s.setSlot i v).egress = s.egress := rfl
@[simp] theorem State.setSlot_regionArb (i : Nat) (v : Slot) : (s.setSlot i v).regionArb = s.regionArb := rfl
@[simp] theorem State.setSlot_egressArb (i : Nat) (v : Slot) : (s.setSlot i v).egressArb = s.egressArb := rfl
@[simp] theorem State.setSlot_can (i : Nat) (v : Slot) : (s.setSlot i v).can = s.can := rfl
@[simp] theorem State.setSlot_mb0 (i : Nat) (v : Slot) : (s.setSlot i v).mb0 = s.mb0 := rfl
@[simp] theorem State.setSlot_mb1 (i : Nat) (v : Slot) : (s.setSlot i v).mb1 = s.mb1 := rfl
@[simp] theorem State.setSlot_mbOther (i : Nat) (v : Slot) : (s.setSlot i v).mbOther = s.mbOther := rfl
@[simp] theorem State.setSlot_canTx (i : Nat) (v : Slot) : (s.setSlot i v).canTx = s.canTx := rfl
@[simp] theorem State.setSlot_msix (i : Nat) (v : Slot) : (s.setSlot i v).msix = s.msix := rfl
@[simp] theorem State.setSlot_msixTable (i : Nat) (v : Slot) : (s.setSlot i v).msixTable = s.msixTable := rfl
@[simp] theorem State.setSlot_pba (i : Nat) (v : Slot) : (s.setSlot i v).pba = s.pba := rfl
@[simp] theorem State.setSlot_hostFns (i : Nat) (v : Slot) : (s.setSlot i v).hostFns = s.hostFns := rfl
@[simp] theorem State.setSlot_mgmtIn (i : Nat) (v : Slot) : (s.setSlot i v).mgmtIn = s.mgmtIn := rfl
@[simp] theorem State.setSlot_otp (i : Nat) (v : Slot) : (s.setSlot i v).otp = s.otp := rfl
@[simp] theorem State.setSlot_commit (i : Nat) (v : Slot) : (s.setSlot i v).commit = s.commit := rfl
@[simp] theorem State.setSlot_retained (i : Nat) (v : Slot) : (s.setSlot i v).retained = s.retained := rfl
@[simp] theorem State.setSlot_retainedBad (i : Nat) (v : Slot) : (s.setSlot i v).retainedBad = s.retainedBad := rfl
@[simp] theorem State.setSlot_fw (i : Nat) (v : Slot) : (s.setSlot i v).fw = s.fw := rfl
@[simp] theorem State.setSlot_clearing (i : Nat) (v : Slot) : (s.setSlot i v).clearing = s.clearing := rfl
@[simp] theorem State.setSlot_hbmStacks (i : Nat) (v : Slot) : (s.setSlot i v).hbmStacks = s.hbmStacks := rfl
@[simp] theorem State.setSlot_keys (i : Nat) (v : Slot) : (s.setSlot i v).keys = s.keys := rfl
@[simp] theorem State.setSlot_d2d (i : Nat) (v : Slot) : (s.setSlot i v).d2d = s.d2d := rfl
@[simp] theorem State.setSlot_netFails (i : Nat) (v : Slot) : (s.setSlot i v).netFails = s.netFails := rfl
@[simp] theorem State.setSlot_log (i : Nat) (v : Slot) : (s.setSlot i v).log = s.log := rfl
@[simp] theorem State.setSlot_diesFenced (i : Nat) (v : Slot) : (s.setSlot i v).diesFenced = s.diesFenced := rfl
@[simp] theorem State.setSlot_dmpBeats (i : Nat) (v : Slot) : (s.setSlot i v).dmpBeats = s.dmpBeats := rfl
@[simp] theorem State.setSlot_retest (i : Nat) (v : Slot) : (s.setSlot i v).retest = s.retest := rfl
@[simp] theorem State.setSlot_fences (i : Nat) (v : Slot) : (s.setSlot i v).fences = s.fences := rfl
@[simp] theorem State.setSlot_copyingWindows (i : Nat) (v : Slot) : (s.setSlot i v).copyingWindows = s.copyingWindows := rfl
@[simp] theorem State.setSlot_carried (i : Nat) (v : Slot) : (s.setSlot i v).carried = s.carried := rfl
@[simp] theorem State.setSlot_bounce (i : Nat) (v : Slot) : (s.setSlot i v).bounce = s.bounce := rfl
@[simp] theorem State.setSlot_timeUs (i : Nat) (v : Slot) : (s.setSlot i v).timeUs = s.timeUs := rfl
@[simp] theorem State.setSlot_regions (i : Nat) (v : Slot) : (s.setSlot i v).regions = s.regions := rfl
@[simp] theorem State.setSlot_power (i : Nat) (v : Slot) : (s.setSlot i v).power = s.power := rfl
@[simp] theorem State.setSlot_pins (i : Nat) (v : Slot) : (s.setSlot i v).pins = s.pins := rfl
@[simp] theorem State.setSlot_boot (i : Nat) (v : Slot) : (s.setSlot i v).boot = s.boot := rfl
@[simp] theorem State.setSlot_dbg (i : Nat) (v : Slot) : (s.setSlot i v).dbg = s.dbg := rfl
@[simp] theorem State.setSlot_freeCtr (i : Nat) (v : Slot) : (s.setSlot i v).freeCtr = s.freeCtr := rfl

@[simp] theorem State.setTd_pending (i : Nat) (v : TdEntry) : (s.setTd i v).pending = s.pending := rfl
@[simp] theorem State.setTd_mem (i : Nat) (v : TdEntry) : (s.setTd i v).mem = s.mem := rfl
@[simp] theorem State.setTd_host0 (i : Nat) (v : TdEntry) : (s.setTd i v).host0 = s.host0 := rfl
@[simp] theorem State.setTd_host1 (i : Nat) (v : TdEntry) : (s.setTd i v).host1 = s.host1 := rfl
@[simp] theorem State.setTd_bad (i : Nat) (v : TdEntry) : (s.setTd i v).bad = s.bad := rfl
@[simp] theorem State.setTd_poisoned (i : Nat) (v : TdEntry) : (s.setTd i v).poisoned = s.poisoned := rfl
@[simp] theorem State.setTd_hostBad (i : Nat) (v : TdEntry) : (s.setTd i v).hostBad = s.hostBad := rfl
@[simp] theorem State.setTd_od (i : Nat) (v : TdEntry) : (s.setTd i v).od = s.od := rfl
@[simp] theorem State.setTd_rings (i : Nat) (v : TdEntry) : (s.setTd i v).rings = s.rings := rfl
@[simp] theorem State.setTd_cmds (i : Nat) (v : TdEntry) : (s.setTd i v).cmds = s.cmds := rfl
@[simp] theorem State.setTd_ops (i : Nat) (v : TdEntry) : (s.setTd i v).ops = s.ops := rfl
@[simp] theorem State.setTd_cores (i : Nat) (v : TdEntry) : (s.setTd i v).cores = s.cores := rfl
@[simp] theorem State.setTd_counters (i : Nat) (v : TdEntry) : (s.setTd i v).counters = s.counters := rfl
@[simp] theorem State.setTd_tickets (i : Nat) (v : TdEntry) : (s.setTd i v).tickets = s.tickets := rfl
@[simp] theorem State.setTd_stale (i : Nat) (v : TdEntry) : (s.setTd i v).stale = s.stale := rfl
@[simp] theorem State.setTd_reissueWait (i : Nat) (v : TdEntry) : (s.setTd i v).reissueWait = s.reissueWait := rfl
@[simp] theorem State.setTd_alm (i : Nat) (v : TdEntry) : (s.setTd i v).alm = s.alm := rfl
@[simp] theorem State.setTd_groups (i : Nat) (v : TdEntry) : (s.setTd i v).groups = s.groups := rfl
@[simp] theorem State.setTd_sacs (i : Nat) (v : TdEntry) : (s.setTd i v).sacs = s.sacs := rfl
@[simp] theorem State.setTd_queues (i : Nat) (v : TdEntry) : (s.setTd i v).queues = s.queues := rfl
@[simp] theorem State.setTd_locks (i : Nat) (v : TdEntry) : (s.setTd i v).locks = s.locks := rfl
@[simp] theorem State.setTd_epochs (i : Nat) (v : TdEntry) : (s.setTd i v).epochs = s.epochs := rfl
@[simp] theorem State.setTd_lockReply (i : Nat) (v : TdEntry) : (s.setTd i v).lockReply = s.lockReply := rfl
@[simp] theorem State.setTd_slots (i : Nat) (v : TdEntry) : (s.setTd i v).slots = s.slots := rfl
@[simp] theorem State.setTd_heldReqs (i : Nat) (v : TdEntry) : (s.setTd i v).heldReqs = s.heldReqs := rfl
@[simp] theorem State.setTd_accepted (i : Nat) (v : TdEntry) : (s.setTd i v).accepted = s.accepted := rfl
@[simp] theorem State.setTd_nextAccept (i : Nat) (v : TdEntry) : (s.setTd i v).nextAccept = s.nextAccept := rfl
@[simp] theorem State.setTd_txns (i : Nat) (v : TdEntry) : (s.setTd i v).txns = s.txns := rfl
@[simp] theorem State.setTd_nextTag (i : Nat) (v : TdEntry) : (s.setTd i v).nextTag = s.nextTag := rfl
@[simp] theorem State.setTd_arrived (i : Nat) (v : TdEntry) : (s.setTd i v).arrived = s.arrived := rfl
@[simp] theorem State.setTd_routes (i : Nat) (v : TdEntry) : (s.setTd i v).routes = s.routes := rfl
@[simp] theorem State.setTd_badRoutes (i : Nat) (v : TdEntry) : (s.setTd i v).badRoutes = s.badRoutes := rfl
@[simp] theorem State.setTd_ports (i : Nat) (v : TdEntry) : (s.setTd i v).ports = s.ports := rfl
@[simp] theorem State.setTd_rx (i : Nat) (v : TdEntry) : (s.setTd i v).rx = s.rx := rfl
@[simp] theorem State.setTd_egress (i : Nat) (v : TdEntry) : (s.setTd i v).egress = s.egress := rfl
@[simp] theorem State.setTd_regionArb (i : Nat) (v : TdEntry) : (s.setTd i v).regionArb = s.regionArb := rfl
@[simp] theorem State.setTd_egressArb (i : Nat) (v : TdEntry) : (s.setTd i v).egressArb = s.egressArb := rfl
@[simp] theorem State.setTd_can (i : Nat) (v : TdEntry) : (s.setTd i v).can = s.can := rfl
@[simp] theorem State.setTd_mb0 (i : Nat) (v : TdEntry) : (s.setTd i v).mb0 = s.mb0 := rfl
@[simp] theorem State.setTd_mb1 (i : Nat) (v : TdEntry) : (s.setTd i v).mb1 = s.mb1 := rfl
@[simp] theorem State.setTd_mbOther (i : Nat) (v : TdEntry) : (s.setTd i v).mbOther = s.mbOther := rfl
@[simp] theorem State.setTd_canTx (i : Nat) (v : TdEntry) : (s.setTd i v).canTx = s.canTx := rfl
@[simp] theorem State.setTd_msix (i : Nat) (v : TdEntry) : (s.setTd i v).msix = s.msix := rfl
@[simp] theorem State.setTd_msixTable (i : Nat) (v : TdEntry) : (s.setTd i v).msixTable = s.msixTable := rfl
@[simp] theorem State.setTd_pba (i : Nat) (v : TdEntry) : (s.setTd i v).pba = s.pba := rfl
@[simp] theorem State.setTd_hostFns (i : Nat) (v : TdEntry) : (s.setTd i v).hostFns = s.hostFns := rfl
@[simp] theorem State.setTd_mgmtIn (i : Nat) (v : TdEntry) : (s.setTd i v).mgmtIn = s.mgmtIn := rfl
@[simp] theorem State.setTd_otp (i : Nat) (v : TdEntry) : (s.setTd i v).otp = s.otp := rfl
@[simp] theorem State.setTd_commit (i : Nat) (v : TdEntry) : (s.setTd i v).commit = s.commit := rfl
@[simp] theorem State.setTd_retained (i : Nat) (v : TdEntry) : (s.setTd i v).retained = s.retained := rfl
@[simp] theorem State.setTd_retainedBad (i : Nat) (v : TdEntry) : (s.setTd i v).retainedBad = s.retainedBad := rfl
@[simp] theorem State.setTd_fw (i : Nat) (v : TdEntry) : (s.setTd i v).fw = s.fw := rfl
@[simp] theorem State.setTd_clearing (i : Nat) (v : TdEntry) : (s.setTd i v).clearing = s.clearing := rfl
@[simp] theorem State.setTd_hbmStacks (i : Nat) (v : TdEntry) : (s.setTd i v).hbmStacks = s.hbmStacks := rfl
@[simp] theorem State.setTd_keys (i : Nat) (v : TdEntry) : (s.setTd i v).keys = s.keys := rfl
@[simp] theorem State.setTd_d2d (i : Nat) (v : TdEntry) : (s.setTd i v).d2d = s.d2d := rfl
@[simp] theorem State.setTd_netFails (i : Nat) (v : TdEntry) : (s.setTd i v).netFails = s.netFails := rfl
@[simp] theorem State.setTd_log (i : Nat) (v : TdEntry) : (s.setTd i v).log = s.log := rfl
@[simp] theorem State.setTd_diesFenced (i : Nat) (v : TdEntry) : (s.setTd i v).diesFenced = s.diesFenced := rfl
@[simp] theorem State.setTd_dmpBeats (i : Nat) (v : TdEntry) : (s.setTd i v).dmpBeats = s.dmpBeats := rfl
@[simp] theorem State.setTd_retest (i : Nat) (v : TdEntry) : (s.setTd i v).retest = s.retest := rfl
@[simp] theorem State.setTd_fences (i : Nat) (v : TdEntry) : (s.setTd i v).fences = s.fences := rfl
@[simp] theorem State.setTd_copyingWindows (i : Nat) (v : TdEntry) : (s.setTd i v).copyingWindows = s.copyingWindows := rfl
@[simp] theorem State.setTd_carried (i : Nat) (v : TdEntry) : (s.setTd i v).carried = s.carried := rfl
@[simp] theorem State.setTd_bounce (i : Nat) (v : TdEntry) : (s.setTd i v).bounce = s.bounce := rfl
@[simp] theorem State.setTd_timeUs (i : Nat) (v : TdEntry) : (s.setTd i v).timeUs = s.timeUs := rfl
@[simp] theorem State.setTd_regions (i : Nat) (v : TdEntry) : (s.setTd i v).regions = s.regions := rfl
@[simp] theorem State.setTd_power (i : Nat) (v : TdEntry) : (s.setTd i v).power = s.power := rfl
@[simp] theorem State.setTd_pins (i : Nat) (v : TdEntry) : (s.setTd i v).pins = s.pins := rfl
@[simp] theorem State.setTd_boot (i : Nat) (v : TdEntry) : (s.setTd i v).boot = s.boot := rfl
@[simp] theorem State.setTd_dbg (i : Nat) (v : TdEntry) : (s.setTd i v).dbg = s.dbg := rfl
@[simp] theorem State.setTd_freeCtr (i : Nat) (v : TdEntry) : (s.setTd i v).freeCtr = s.freeCtr := rfl

@[simp] theorem State.setAlm_pending (i : Nat) (v : Alm) : (s.setAlm i v).pending = s.pending := rfl
@[simp] theorem State.setAlm_mem (i : Nat) (v : Alm) : (s.setAlm i v).mem = s.mem := rfl
@[simp] theorem State.setAlm_host0 (i : Nat) (v : Alm) : (s.setAlm i v).host0 = s.host0 := rfl
@[simp] theorem State.setAlm_host1 (i : Nat) (v : Alm) : (s.setAlm i v).host1 = s.host1 := rfl
@[simp] theorem State.setAlm_bad (i : Nat) (v : Alm) : (s.setAlm i v).bad = s.bad := rfl
@[simp] theorem State.setAlm_poisoned (i : Nat) (v : Alm) : (s.setAlm i v).poisoned = s.poisoned := rfl
@[simp] theorem State.setAlm_hostBad (i : Nat) (v : Alm) : (s.setAlm i v).hostBad = s.hostBad := rfl
@[simp] theorem State.setAlm_od (i : Nat) (v : Alm) : (s.setAlm i v).od = s.od := rfl
@[simp] theorem State.setAlm_td (i : Nat) (v : Alm) : (s.setAlm i v).td = s.td := rfl
@[simp] theorem State.setAlm_rings (i : Nat) (v : Alm) : (s.setAlm i v).rings = s.rings := rfl
@[simp] theorem State.setAlm_cmds (i : Nat) (v : Alm) : (s.setAlm i v).cmds = s.cmds := rfl
@[simp] theorem State.setAlm_ops (i : Nat) (v : Alm) : (s.setAlm i v).ops = s.ops := rfl
@[simp] theorem State.setAlm_cores (i : Nat) (v : Alm) : (s.setAlm i v).cores = s.cores := rfl
@[simp] theorem State.setAlm_counters (i : Nat) (v : Alm) : (s.setAlm i v).counters = s.counters := rfl
@[simp] theorem State.setAlm_tickets (i : Nat) (v : Alm) : (s.setAlm i v).tickets = s.tickets := rfl
@[simp] theorem State.setAlm_stale (i : Nat) (v : Alm) : (s.setAlm i v).stale = s.stale := rfl
@[simp] theorem State.setAlm_reissueWait (i : Nat) (v : Alm) : (s.setAlm i v).reissueWait = s.reissueWait := rfl
@[simp] theorem State.setAlm_groups (i : Nat) (v : Alm) : (s.setAlm i v).groups = s.groups := rfl
@[simp] theorem State.setAlm_sacs (i : Nat) (v : Alm) : (s.setAlm i v).sacs = s.sacs := rfl
@[simp] theorem State.setAlm_queues (i : Nat) (v : Alm) : (s.setAlm i v).queues = s.queues := rfl
@[simp] theorem State.setAlm_locks (i : Nat) (v : Alm) : (s.setAlm i v).locks = s.locks := rfl
@[simp] theorem State.setAlm_epochs (i : Nat) (v : Alm) : (s.setAlm i v).epochs = s.epochs := rfl
@[simp] theorem State.setAlm_lockReply (i : Nat) (v : Alm) : (s.setAlm i v).lockReply = s.lockReply := rfl
@[simp] theorem State.setAlm_slots (i : Nat) (v : Alm) : (s.setAlm i v).slots = s.slots := rfl
@[simp] theorem State.setAlm_heldReqs (i : Nat) (v : Alm) : (s.setAlm i v).heldReqs = s.heldReqs := rfl
@[simp] theorem State.setAlm_accepted (i : Nat) (v : Alm) : (s.setAlm i v).accepted = s.accepted := rfl
@[simp] theorem State.setAlm_nextAccept (i : Nat) (v : Alm) : (s.setAlm i v).nextAccept = s.nextAccept := rfl
@[simp] theorem State.setAlm_txns (i : Nat) (v : Alm) : (s.setAlm i v).txns = s.txns := rfl
@[simp] theorem State.setAlm_nextTag (i : Nat) (v : Alm) : (s.setAlm i v).nextTag = s.nextTag := rfl
@[simp] theorem State.setAlm_arrived (i : Nat) (v : Alm) : (s.setAlm i v).arrived = s.arrived := rfl
@[simp] theorem State.setAlm_routes (i : Nat) (v : Alm) : (s.setAlm i v).routes = s.routes := rfl
@[simp] theorem State.setAlm_badRoutes (i : Nat) (v : Alm) : (s.setAlm i v).badRoutes = s.badRoutes := rfl
@[simp] theorem State.setAlm_ports (i : Nat) (v : Alm) : (s.setAlm i v).ports = s.ports := rfl
@[simp] theorem State.setAlm_rx (i : Nat) (v : Alm) : (s.setAlm i v).rx = s.rx := rfl
@[simp] theorem State.setAlm_egress (i : Nat) (v : Alm) : (s.setAlm i v).egress = s.egress := rfl
@[simp] theorem State.setAlm_regionArb (i : Nat) (v : Alm) : (s.setAlm i v).regionArb = s.regionArb := rfl
@[simp] theorem State.setAlm_egressArb (i : Nat) (v : Alm) : (s.setAlm i v).egressArb = s.egressArb := rfl
@[simp] theorem State.setAlm_can (i : Nat) (v : Alm) : (s.setAlm i v).can = s.can := rfl
@[simp] theorem State.setAlm_mb0 (i : Nat) (v : Alm) : (s.setAlm i v).mb0 = s.mb0 := rfl
@[simp] theorem State.setAlm_mb1 (i : Nat) (v : Alm) : (s.setAlm i v).mb1 = s.mb1 := rfl
@[simp] theorem State.setAlm_mbOther (i : Nat) (v : Alm) : (s.setAlm i v).mbOther = s.mbOther := rfl
@[simp] theorem State.setAlm_canTx (i : Nat) (v : Alm) : (s.setAlm i v).canTx = s.canTx := rfl
@[simp] theorem State.setAlm_msix (i : Nat) (v : Alm) : (s.setAlm i v).msix = s.msix := rfl
@[simp] theorem State.setAlm_msixTable (i : Nat) (v : Alm) : (s.setAlm i v).msixTable = s.msixTable := rfl
@[simp] theorem State.setAlm_pba (i : Nat) (v : Alm) : (s.setAlm i v).pba = s.pba := rfl
@[simp] theorem State.setAlm_hostFns (i : Nat) (v : Alm) : (s.setAlm i v).hostFns = s.hostFns := rfl
@[simp] theorem State.setAlm_mgmtIn (i : Nat) (v : Alm) : (s.setAlm i v).mgmtIn = s.mgmtIn := rfl
@[simp] theorem State.setAlm_otp (i : Nat) (v : Alm) : (s.setAlm i v).otp = s.otp := rfl
@[simp] theorem State.setAlm_commit (i : Nat) (v : Alm) : (s.setAlm i v).commit = s.commit := rfl
@[simp] theorem State.setAlm_retained (i : Nat) (v : Alm) : (s.setAlm i v).retained = s.retained := rfl
@[simp] theorem State.setAlm_retainedBad (i : Nat) (v : Alm) : (s.setAlm i v).retainedBad = s.retainedBad := rfl
@[simp] theorem State.setAlm_fw (i : Nat) (v : Alm) : (s.setAlm i v).fw = s.fw := rfl
@[simp] theorem State.setAlm_clearing (i : Nat) (v : Alm) : (s.setAlm i v).clearing = s.clearing := rfl
@[simp] theorem State.setAlm_hbmStacks (i : Nat) (v : Alm) : (s.setAlm i v).hbmStacks = s.hbmStacks := rfl
@[simp] theorem State.setAlm_keys (i : Nat) (v : Alm) : (s.setAlm i v).keys = s.keys := rfl
@[simp] theorem State.setAlm_d2d (i : Nat) (v : Alm) : (s.setAlm i v).d2d = s.d2d := rfl
@[simp] theorem State.setAlm_netFails (i : Nat) (v : Alm) : (s.setAlm i v).netFails = s.netFails := rfl
@[simp] theorem State.setAlm_log (i : Nat) (v : Alm) : (s.setAlm i v).log = s.log := rfl
@[simp] theorem State.setAlm_diesFenced (i : Nat) (v : Alm) : (s.setAlm i v).diesFenced = s.diesFenced := rfl
@[simp] theorem State.setAlm_dmpBeats (i : Nat) (v : Alm) : (s.setAlm i v).dmpBeats = s.dmpBeats := rfl
@[simp] theorem State.setAlm_retest (i : Nat) (v : Alm) : (s.setAlm i v).retest = s.retest := rfl
@[simp] theorem State.setAlm_fences (i : Nat) (v : Alm) : (s.setAlm i v).fences = s.fences := rfl
@[simp] theorem State.setAlm_copyingWindows (i : Nat) (v : Alm) : (s.setAlm i v).copyingWindows = s.copyingWindows := rfl
@[simp] theorem State.setAlm_carried (i : Nat) (v : Alm) : (s.setAlm i v).carried = s.carried := rfl
@[simp] theorem State.setAlm_bounce (i : Nat) (v : Alm) : (s.setAlm i v).bounce = s.bounce := rfl
@[simp] theorem State.setAlm_timeUs (i : Nat) (v : Alm) : (s.setAlm i v).timeUs = s.timeUs := rfl
@[simp] theorem State.setAlm_regions (i : Nat) (v : Alm) : (s.setAlm i v).regions = s.regions := rfl
@[simp] theorem State.setAlm_power (i : Nat) (v : Alm) : (s.setAlm i v).power = s.power := rfl
@[simp] theorem State.setAlm_pins (i : Nat) (v : Alm) : (s.setAlm i v).pins = s.pins := rfl
@[simp] theorem State.setAlm_boot (i : Nat) (v : Alm) : (s.setAlm i v).boot = s.boot := rfl
@[simp] theorem State.setAlm_dbg (i : Nat) (v : Alm) : (s.setAlm i v).dbg = s.dbg := rfl
@[simp] theorem State.setAlm_freeCtr (i : Nat) (v : Alm) : (s.setAlm i v).freeCtr = s.freeCtr := rfl

@[simp] theorem State.setSac_pending (i : Nat) (v : Sac) : (s.setSac i v).pending = s.pending := rfl
@[simp] theorem State.setSac_mem (i : Nat) (v : Sac) : (s.setSac i v).mem = s.mem := rfl
@[simp] theorem State.setSac_host0 (i : Nat) (v : Sac) : (s.setSac i v).host0 = s.host0 := rfl
@[simp] theorem State.setSac_host1 (i : Nat) (v : Sac) : (s.setSac i v).host1 = s.host1 := rfl
@[simp] theorem State.setSac_bad (i : Nat) (v : Sac) : (s.setSac i v).bad = s.bad := rfl
@[simp] theorem State.setSac_poisoned (i : Nat) (v : Sac) : (s.setSac i v).poisoned = s.poisoned := rfl
@[simp] theorem State.setSac_hostBad (i : Nat) (v : Sac) : (s.setSac i v).hostBad = s.hostBad := rfl
@[simp] theorem State.setSac_od (i : Nat) (v : Sac) : (s.setSac i v).od = s.od := rfl
@[simp] theorem State.setSac_td (i : Nat) (v : Sac) : (s.setSac i v).td = s.td := rfl
@[simp] theorem State.setSac_rings (i : Nat) (v : Sac) : (s.setSac i v).rings = s.rings := rfl
@[simp] theorem State.setSac_cmds (i : Nat) (v : Sac) : (s.setSac i v).cmds = s.cmds := rfl
@[simp] theorem State.setSac_ops (i : Nat) (v : Sac) : (s.setSac i v).ops = s.ops := rfl
@[simp] theorem State.setSac_cores (i : Nat) (v : Sac) : (s.setSac i v).cores = s.cores := rfl
@[simp] theorem State.setSac_counters (i : Nat) (v : Sac) : (s.setSac i v).counters = s.counters := rfl
@[simp] theorem State.setSac_tickets (i : Nat) (v : Sac) : (s.setSac i v).tickets = s.tickets := rfl
@[simp] theorem State.setSac_stale (i : Nat) (v : Sac) : (s.setSac i v).stale = s.stale := rfl
@[simp] theorem State.setSac_reissueWait (i : Nat) (v : Sac) : (s.setSac i v).reissueWait = s.reissueWait := rfl
@[simp] theorem State.setSac_alm (i : Nat) (v : Sac) : (s.setSac i v).alm = s.alm := rfl
@[simp] theorem State.setSac_groups (i : Nat) (v : Sac) : (s.setSac i v).groups = s.groups := rfl
@[simp] theorem State.setSac_queues (i : Nat) (v : Sac) : (s.setSac i v).queues = s.queues := rfl
@[simp] theorem State.setSac_locks (i : Nat) (v : Sac) : (s.setSac i v).locks = s.locks := rfl
@[simp] theorem State.setSac_epochs (i : Nat) (v : Sac) : (s.setSac i v).epochs = s.epochs := rfl
@[simp] theorem State.setSac_lockReply (i : Nat) (v : Sac) : (s.setSac i v).lockReply = s.lockReply := rfl
@[simp] theorem State.setSac_slots (i : Nat) (v : Sac) : (s.setSac i v).slots = s.slots := rfl
@[simp] theorem State.setSac_heldReqs (i : Nat) (v : Sac) : (s.setSac i v).heldReqs = s.heldReqs := rfl
@[simp] theorem State.setSac_accepted (i : Nat) (v : Sac) : (s.setSac i v).accepted = s.accepted := rfl
@[simp] theorem State.setSac_nextAccept (i : Nat) (v : Sac) : (s.setSac i v).nextAccept = s.nextAccept := rfl
@[simp] theorem State.setSac_txns (i : Nat) (v : Sac) : (s.setSac i v).txns = s.txns := rfl
@[simp] theorem State.setSac_nextTag (i : Nat) (v : Sac) : (s.setSac i v).nextTag = s.nextTag := rfl
@[simp] theorem State.setSac_arrived (i : Nat) (v : Sac) : (s.setSac i v).arrived = s.arrived := rfl
@[simp] theorem State.setSac_routes (i : Nat) (v : Sac) : (s.setSac i v).routes = s.routes := rfl
@[simp] theorem State.setSac_badRoutes (i : Nat) (v : Sac) : (s.setSac i v).badRoutes = s.badRoutes := rfl
@[simp] theorem State.setSac_ports (i : Nat) (v : Sac) : (s.setSac i v).ports = s.ports := rfl
@[simp] theorem State.setSac_rx (i : Nat) (v : Sac) : (s.setSac i v).rx = s.rx := rfl
@[simp] theorem State.setSac_egress (i : Nat) (v : Sac) : (s.setSac i v).egress = s.egress := rfl
@[simp] theorem State.setSac_regionArb (i : Nat) (v : Sac) : (s.setSac i v).regionArb = s.regionArb := rfl
@[simp] theorem State.setSac_egressArb (i : Nat) (v : Sac) : (s.setSac i v).egressArb = s.egressArb := rfl
@[simp] theorem State.setSac_can (i : Nat) (v : Sac) : (s.setSac i v).can = s.can := rfl
@[simp] theorem State.setSac_mb0 (i : Nat) (v : Sac) : (s.setSac i v).mb0 = s.mb0 := rfl
@[simp] theorem State.setSac_mb1 (i : Nat) (v : Sac) : (s.setSac i v).mb1 = s.mb1 := rfl
@[simp] theorem State.setSac_mbOther (i : Nat) (v : Sac) : (s.setSac i v).mbOther = s.mbOther := rfl
@[simp] theorem State.setSac_canTx (i : Nat) (v : Sac) : (s.setSac i v).canTx = s.canTx := rfl
@[simp] theorem State.setSac_msix (i : Nat) (v : Sac) : (s.setSac i v).msix = s.msix := rfl
@[simp] theorem State.setSac_msixTable (i : Nat) (v : Sac) : (s.setSac i v).msixTable = s.msixTable := rfl
@[simp] theorem State.setSac_pba (i : Nat) (v : Sac) : (s.setSac i v).pba = s.pba := rfl
@[simp] theorem State.setSac_hostFns (i : Nat) (v : Sac) : (s.setSac i v).hostFns = s.hostFns := rfl
@[simp] theorem State.setSac_mgmtIn (i : Nat) (v : Sac) : (s.setSac i v).mgmtIn = s.mgmtIn := rfl
@[simp] theorem State.setSac_otp (i : Nat) (v : Sac) : (s.setSac i v).otp = s.otp := rfl
@[simp] theorem State.setSac_commit (i : Nat) (v : Sac) : (s.setSac i v).commit = s.commit := rfl
@[simp] theorem State.setSac_retained (i : Nat) (v : Sac) : (s.setSac i v).retained = s.retained := rfl
@[simp] theorem State.setSac_retainedBad (i : Nat) (v : Sac) : (s.setSac i v).retainedBad = s.retainedBad := rfl
@[simp] theorem State.setSac_fw (i : Nat) (v : Sac) : (s.setSac i v).fw = s.fw := rfl
@[simp] theorem State.setSac_clearing (i : Nat) (v : Sac) : (s.setSac i v).clearing = s.clearing := rfl
@[simp] theorem State.setSac_hbmStacks (i : Nat) (v : Sac) : (s.setSac i v).hbmStacks = s.hbmStacks := rfl
@[simp] theorem State.setSac_keys (i : Nat) (v : Sac) : (s.setSac i v).keys = s.keys := rfl
@[simp] theorem State.setSac_d2d (i : Nat) (v : Sac) : (s.setSac i v).d2d = s.d2d := rfl
@[simp] theorem State.setSac_netFails (i : Nat) (v : Sac) : (s.setSac i v).netFails = s.netFails := rfl
@[simp] theorem State.setSac_log (i : Nat) (v : Sac) : (s.setSac i v).log = s.log := rfl
@[simp] theorem State.setSac_diesFenced (i : Nat) (v : Sac) : (s.setSac i v).diesFenced = s.diesFenced := rfl
@[simp] theorem State.setSac_dmpBeats (i : Nat) (v : Sac) : (s.setSac i v).dmpBeats = s.dmpBeats := rfl
@[simp] theorem State.setSac_retest (i : Nat) (v : Sac) : (s.setSac i v).retest = s.retest := rfl
@[simp] theorem State.setSac_fences (i : Nat) (v : Sac) : (s.setSac i v).fences = s.fences := rfl
@[simp] theorem State.setSac_copyingWindows (i : Nat) (v : Sac) : (s.setSac i v).copyingWindows = s.copyingWindows := rfl
@[simp] theorem State.setSac_carried (i : Nat) (v : Sac) : (s.setSac i v).carried = s.carried := rfl
@[simp] theorem State.setSac_bounce (i : Nat) (v : Sac) : (s.setSac i v).bounce = s.bounce := rfl
@[simp] theorem State.setSac_timeUs (i : Nat) (v : Sac) : (s.setSac i v).timeUs = s.timeUs := rfl
@[simp] theorem State.setSac_regions (i : Nat) (v : Sac) : (s.setSac i v).regions = s.regions := rfl
@[simp] theorem State.setSac_power (i : Nat) (v : Sac) : (s.setSac i v).power = s.power := rfl
@[simp] theorem State.setSac_pins (i : Nat) (v : Sac) : (s.setSac i v).pins = s.pins := rfl
@[simp] theorem State.setSac_boot (i : Nat) (v : Sac) : (s.setSac i v).boot = s.boot := rfl
@[simp] theorem State.setSac_dbg (i : Nat) (v : Sac) : (s.setSac i v).dbg = s.dbg := rfl
@[simp] theorem State.setSac_freeCtr (i : Nat) (v : Sac) : (s.setSac i v).freeCtr = s.freeCtr := rfl

@[simp] theorem State.setPort_pending (i : Nat) (v : Port) : (s.setPort i v).pending = s.pending := rfl
@[simp] theorem State.setPort_mem (i : Nat) (v : Port) : (s.setPort i v).mem = s.mem := rfl
@[simp] theorem State.setPort_host0 (i : Nat) (v : Port) : (s.setPort i v).host0 = s.host0 := rfl
@[simp] theorem State.setPort_host1 (i : Nat) (v : Port) : (s.setPort i v).host1 = s.host1 := rfl
@[simp] theorem State.setPort_bad (i : Nat) (v : Port) : (s.setPort i v).bad = s.bad := rfl
@[simp] theorem State.setPort_poisoned (i : Nat) (v : Port) : (s.setPort i v).poisoned = s.poisoned := rfl
@[simp] theorem State.setPort_hostBad (i : Nat) (v : Port) : (s.setPort i v).hostBad = s.hostBad := rfl
@[simp] theorem State.setPort_od (i : Nat) (v : Port) : (s.setPort i v).od = s.od := rfl
@[simp] theorem State.setPort_td (i : Nat) (v : Port) : (s.setPort i v).td = s.td := rfl
@[simp] theorem State.setPort_rings (i : Nat) (v : Port) : (s.setPort i v).rings = s.rings := rfl
@[simp] theorem State.setPort_cmds (i : Nat) (v : Port) : (s.setPort i v).cmds = s.cmds := rfl
@[simp] theorem State.setPort_ops (i : Nat) (v : Port) : (s.setPort i v).ops = s.ops := rfl
@[simp] theorem State.setPort_cores (i : Nat) (v : Port) : (s.setPort i v).cores = s.cores := rfl
@[simp] theorem State.setPort_counters (i : Nat) (v : Port) : (s.setPort i v).counters = s.counters := rfl
@[simp] theorem State.setPort_tickets (i : Nat) (v : Port) : (s.setPort i v).tickets = s.tickets := rfl
@[simp] theorem State.setPort_stale (i : Nat) (v : Port) : (s.setPort i v).stale = s.stale := rfl
@[simp] theorem State.setPort_reissueWait (i : Nat) (v : Port) : (s.setPort i v).reissueWait = s.reissueWait := rfl
@[simp] theorem State.setPort_alm (i : Nat) (v : Port) : (s.setPort i v).alm = s.alm := rfl
@[simp] theorem State.setPort_groups (i : Nat) (v : Port) : (s.setPort i v).groups = s.groups := rfl
@[simp] theorem State.setPort_sacs (i : Nat) (v : Port) : (s.setPort i v).sacs = s.sacs := rfl
@[simp] theorem State.setPort_queues (i : Nat) (v : Port) : (s.setPort i v).queues = s.queues := rfl
@[simp] theorem State.setPort_locks (i : Nat) (v : Port) : (s.setPort i v).locks = s.locks := rfl
@[simp] theorem State.setPort_epochs (i : Nat) (v : Port) : (s.setPort i v).epochs = s.epochs := rfl
@[simp] theorem State.setPort_lockReply (i : Nat) (v : Port) : (s.setPort i v).lockReply = s.lockReply := rfl
@[simp] theorem State.setPort_slots (i : Nat) (v : Port) : (s.setPort i v).slots = s.slots := rfl
@[simp] theorem State.setPort_heldReqs (i : Nat) (v : Port) : (s.setPort i v).heldReqs = s.heldReqs := rfl
@[simp] theorem State.setPort_accepted (i : Nat) (v : Port) : (s.setPort i v).accepted = s.accepted := rfl
@[simp] theorem State.setPort_nextAccept (i : Nat) (v : Port) : (s.setPort i v).nextAccept = s.nextAccept := rfl
@[simp] theorem State.setPort_txns (i : Nat) (v : Port) : (s.setPort i v).txns = s.txns := rfl
@[simp] theorem State.setPort_nextTag (i : Nat) (v : Port) : (s.setPort i v).nextTag = s.nextTag := rfl
@[simp] theorem State.setPort_arrived (i : Nat) (v : Port) : (s.setPort i v).arrived = s.arrived := rfl
@[simp] theorem State.setPort_routes (i : Nat) (v : Port) : (s.setPort i v).routes = s.routes := rfl
@[simp] theorem State.setPort_badRoutes (i : Nat) (v : Port) : (s.setPort i v).badRoutes = s.badRoutes := rfl
@[simp] theorem State.setPort_rx (i : Nat) (v : Port) : (s.setPort i v).rx = s.rx := rfl
@[simp] theorem State.setPort_egress (i : Nat) (v : Port) : (s.setPort i v).egress = s.egress := rfl
@[simp] theorem State.setPort_regionArb (i : Nat) (v : Port) : (s.setPort i v).regionArb = s.regionArb := rfl
@[simp] theorem State.setPort_egressArb (i : Nat) (v : Port) : (s.setPort i v).egressArb = s.egressArb := rfl
@[simp] theorem State.setPort_can (i : Nat) (v : Port) : (s.setPort i v).can = s.can := rfl
@[simp] theorem State.setPort_mb0 (i : Nat) (v : Port) : (s.setPort i v).mb0 = s.mb0 := rfl
@[simp] theorem State.setPort_mb1 (i : Nat) (v : Port) : (s.setPort i v).mb1 = s.mb1 := rfl
@[simp] theorem State.setPort_mbOther (i : Nat) (v : Port) : (s.setPort i v).mbOther = s.mbOther := rfl
@[simp] theorem State.setPort_canTx (i : Nat) (v : Port) : (s.setPort i v).canTx = s.canTx := rfl
@[simp] theorem State.setPort_msix (i : Nat) (v : Port) : (s.setPort i v).msix = s.msix := rfl
@[simp] theorem State.setPort_msixTable (i : Nat) (v : Port) : (s.setPort i v).msixTable = s.msixTable := rfl
@[simp] theorem State.setPort_pba (i : Nat) (v : Port) : (s.setPort i v).pba = s.pba := rfl
@[simp] theorem State.setPort_hostFns (i : Nat) (v : Port) : (s.setPort i v).hostFns = s.hostFns := rfl
@[simp] theorem State.setPort_mgmtIn (i : Nat) (v : Port) : (s.setPort i v).mgmtIn = s.mgmtIn := rfl
@[simp] theorem State.setPort_otp (i : Nat) (v : Port) : (s.setPort i v).otp = s.otp := rfl
@[simp] theorem State.setPort_commit (i : Nat) (v : Port) : (s.setPort i v).commit = s.commit := rfl
@[simp] theorem State.setPort_retained (i : Nat) (v : Port) : (s.setPort i v).retained = s.retained := rfl
@[simp] theorem State.setPort_retainedBad (i : Nat) (v : Port) : (s.setPort i v).retainedBad = s.retainedBad := rfl
@[simp] theorem State.setPort_fw (i : Nat) (v : Port) : (s.setPort i v).fw = s.fw := rfl
@[simp] theorem State.setPort_clearing (i : Nat) (v : Port) : (s.setPort i v).clearing = s.clearing := rfl
@[simp] theorem State.setPort_hbmStacks (i : Nat) (v : Port) : (s.setPort i v).hbmStacks = s.hbmStacks := rfl
@[simp] theorem State.setPort_keys (i : Nat) (v : Port) : (s.setPort i v).keys = s.keys := rfl
@[simp] theorem State.setPort_d2d (i : Nat) (v : Port) : (s.setPort i v).d2d = s.d2d := rfl
@[simp] theorem State.setPort_netFails (i : Nat) (v : Port) : (s.setPort i v).netFails = s.netFails := rfl
@[simp] theorem State.setPort_log (i : Nat) (v : Port) : (s.setPort i v).log = s.log := rfl
@[simp] theorem State.setPort_diesFenced (i : Nat) (v : Port) : (s.setPort i v).diesFenced = s.diesFenced := rfl
@[simp] theorem State.setPort_dmpBeats (i : Nat) (v : Port) : (s.setPort i v).dmpBeats = s.dmpBeats := rfl
@[simp] theorem State.setPort_retest (i : Nat) (v : Port) : (s.setPort i v).retest = s.retest := rfl
@[simp] theorem State.setPort_fences (i : Nat) (v : Port) : (s.setPort i v).fences = s.fences := rfl
@[simp] theorem State.setPort_copyingWindows (i : Nat) (v : Port) : (s.setPort i v).copyingWindows = s.copyingWindows := rfl
@[simp] theorem State.setPort_carried (i : Nat) (v : Port) : (s.setPort i v).carried = s.carried := rfl
@[simp] theorem State.setPort_bounce (i : Nat) (v : Port) : (s.setPort i v).bounce = s.bounce := rfl
@[simp] theorem State.setPort_timeUs (i : Nat) (v : Port) : (s.setPort i v).timeUs = s.timeUs := rfl
@[simp] theorem State.setPort_regions (i : Nat) (v : Port) : (s.setPort i v).regions = s.regions := rfl
@[simp] theorem State.setPort_power (i : Nat) (v : Port) : (s.setPort i v).power = s.power := rfl
@[simp] theorem State.setPort_pins (i : Nat) (v : Port) : (s.setPort i v).pins = s.pins := rfl
@[simp] theorem State.setPort_boot (i : Nat) (v : Port) : (s.setPort i v).boot = s.boot := rfl
@[simp] theorem State.setPort_dbg (i : Nat) (v : Port) : (s.setPort i v).dbg = s.dbg := rfl
@[simp] theorem State.setPort_freeCtr (i : Nat) (v : Port) : (s.setPort i v).freeCtr = s.freeCtr := rfl

@[simp] theorem State.setLock_pending (i : Nat) (v : Lock) : (s.setLock i v).pending = s.pending := rfl
@[simp] theorem State.setLock_mem (i : Nat) (v : Lock) : (s.setLock i v).mem = s.mem := rfl
@[simp] theorem State.setLock_host0 (i : Nat) (v : Lock) : (s.setLock i v).host0 = s.host0 := rfl
@[simp] theorem State.setLock_host1 (i : Nat) (v : Lock) : (s.setLock i v).host1 = s.host1 := rfl
@[simp] theorem State.setLock_bad (i : Nat) (v : Lock) : (s.setLock i v).bad = s.bad := rfl
@[simp] theorem State.setLock_poisoned (i : Nat) (v : Lock) : (s.setLock i v).poisoned = s.poisoned := rfl
@[simp] theorem State.setLock_hostBad (i : Nat) (v : Lock) : (s.setLock i v).hostBad = s.hostBad := rfl
@[simp] theorem State.setLock_od (i : Nat) (v : Lock) : (s.setLock i v).od = s.od := rfl
@[simp] theorem State.setLock_td (i : Nat) (v : Lock) : (s.setLock i v).td = s.td := rfl
@[simp] theorem State.setLock_rings (i : Nat) (v : Lock) : (s.setLock i v).rings = s.rings := rfl
@[simp] theorem State.setLock_cmds (i : Nat) (v : Lock) : (s.setLock i v).cmds = s.cmds := rfl
@[simp] theorem State.setLock_ops (i : Nat) (v : Lock) : (s.setLock i v).ops = s.ops := rfl
@[simp] theorem State.setLock_cores (i : Nat) (v : Lock) : (s.setLock i v).cores = s.cores := rfl
@[simp] theorem State.setLock_counters (i : Nat) (v : Lock) : (s.setLock i v).counters = s.counters := rfl
@[simp] theorem State.setLock_tickets (i : Nat) (v : Lock) : (s.setLock i v).tickets = s.tickets := rfl
@[simp] theorem State.setLock_stale (i : Nat) (v : Lock) : (s.setLock i v).stale = s.stale := rfl
@[simp] theorem State.setLock_reissueWait (i : Nat) (v : Lock) : (s.setLock i v).reissueWait = s.reissueWait := rfl
@[simp] theorem State.setLock_alm (i : Nat) (v : Lock) : (s.setLock i v).alm = s.alm := rfl
@[simp] theorem State.setLock_groups (i : Nat) (v : Lock) : (s.setLock i v).groups = s.groups := rfl
@[simp] theorem State.setLock_sacs (i : Nat) (v : Lock) : (s.setLock i v).sacs = s.sacs := rfl
@[simp] theorem State.setLock_queues (i : Nat) (v : Lock) : (s.setLock i v).queues = s.queues := rfl
@[simp] theorem State.setLock_epochs (i : Nat) (v : Lock) : (s.setLock i v).epochs = s.epochs := rfl
@[simp] theorem State.setLock_lockReply (i : Nat) (v : Lock) : (s.setLock i v).lockReply = s.lockReply := rfl
@[simp] theorem State.setLock_slots (i : Nat) (v : Lock) : (s.setLock i v).slots = s.slots := rfl
@[simp] theorem State.setLock_heldReqs (i : Nat) (v : Lock) : (s.setLock i v).heldReqs = s.heldReqs := rfl
@[simp] theorem State.setLock_accepted (i : Nat) (v : Lock) : (s.setLock i v).accepted = s.accepted := rfl
@[simp] theorem State.setLock_nextAccept (i : Nat) (v : Lock) : (s.setLock i v).nextAccept = s.nextAccept := rfl
@[simp] theorem State.setLock_txns (i : Nat) (v : Lock) : (s.setLock i v).txns = s.txns := rfl
@[simp] theorem State.setLock_nextTag (i : Nat) (v : Lock) : (s.setLock i v).nextTag = s.nextTag := rfl
@[simp] theorem State.setLock_arrived (i : Nat) (v : Lock) : (s.setLock i v).arrived = s.arrived := rfl
@[simp] theorem State.setLock_routes (i : Nat) (v : Lock) : (s.setLock i v).routes = s.routes := rfl
@[simp] theorem State.setLock_badRoutes (i : Nat) (v : Lock) : (s.setLock i v).badRoutes = s.badRoutes := rfl
@[simp] theorem State.setLock_ports (i : Nat) (v : Lock) : (s.setLock i v).ports = s.ports := rfl
@[simp] theorem State.setLock_rx (i : Nat) (v : Lock) : (s.setLock i v).rx = s.rx := rfl
@[simp] theorem State.setLock_egress (i : Nat) (v : Lock) : (s.setLock i v).egress = s.egress := rfl
@[simp] theorem State.setLock_regionArb (i : Nat) (v : Lock) : (s.setLock i v).regionArb = s.regionArb := rfl
@[simp] theorem State.setLock_egressArb (i : Nat) (v : Lock) : (s.setLock i v).egressArb = s.egressArb := rfl
@[simp] theorem State.setLock_can (i : Nat) (v : Lock) : (s.setLock i v).can = s.can := rfl
@[simp] theorem State.setLock_mb0 (i : Nat) (v : Lock) : (s.setLock i v).mb0 = s.mb0 := rfl
@[simp] theorem State.setLock_mb1 (i : Nat) (v : Lock) : (s.setLock i v).mb1 = s.mb1 := rfl
@[simp] theorem State.setLock_mbOther (i : Nat) (v : Lock) : (s.setLock i v).mbOther = s.mbOther := rfl
@[simp] theorem State.setLock_canTx (i : Nat) (v : Lock) : (s.setLock i v).canTx = s.canTx := rfl
@[simp] theorem State.setLock_msix (i : Nat) (v : Lock) : (s.setLock i v).msix = s.msix := rfl
@[simp] theorem State.setLock_msixTable (i : Nat) (v : Lock) : (s.setLock i v).msixTable = s.msixTable := rfl
@[simp] theorem State.setLock_pba (i : Nat) (v : Lock) : (s.setLock i v).pba = s.pba := rfl
@[simp] theorem State.setLock_hostFns (i : Nat) (v : Lock) : (s.setLock i v).hostFns = s.hostFns := rfl
@[simp] theorem State.setLock_mgmtIn (i : Nat) (v : Lock) : (s.setLock i v).mgmtIn = s.mgmtIn := rfl
@[simp] theorem State.setLock_otp (i : Nat) (v : Lock) : (s.setLock i v).otp = s.otp := rfl
@[simp] theorem State.setLock_commit (i : Nat) (v : Lock) : (s.setLock i v).commit = s.commit := rfl
@[simp] theorem State.setLock_retained (i : Nat) (v : Lock) : (s.setLock i v).retained = s.retained := rfl
@[simp] theorem State.setLock_retainedBad (i : Nat) (v : Lock) : (s.setLock i v).retainedBad = s.retainedBad := rfl
@[simp] theorem State.setLock_fw (i : Nat) (v : Lock) : (s.setLock i v).fw = s.fw := rfl
@[simp] theorem State.setLock_clearing (i : Nat) (v : Lock) : (s.setLock i v).clearing = s.clearing := rfl
@[simp] theorem State.setLock_hbmStacks (i : Nat) (v : Lock) : (s.setLock i v).hbmStacks = s.hbmStacks := rfl
@[simp] theorem State.setLock_keys (i : Nat) (v : Lock) : (s.setLock i v).keys = s.keys := rfl
@[simp] theorem State.setLock_d2d (i : Nat) (v : Lock) : (s.setLock i v).d2d = s.d2d := rfl
@[simp] theorem State.setLock_netFails (i : Nat) (v : Lock) : (s.setLock i v).netFails = s.netFails := rfl
@[simp] theorem State.setLock_log (i : Nat) (v : Lock) : (s.setLock i v).log = s.log := rfl
@[simp] theorem State.setLock_diesFenced (i : Nat) (v : Lock) : (s.setLock i v).diesFenced = s.diesFenced := rfl
@[simp] theorem State.setLock_dmpBeats (i : Nat) (v : Lock) : (s.setLock i v).dmpBeats = s.dmpBeats := rfl
@[simp] theorem State.setLock_retest (i : Nat) (v : Lock) : (s.setLock i v).retest = s.retest := rfl
@[simp] theorem State.setLock_fences (i : Nat) (v : Lock) : (s.setLock i v).fences = s.fences := rfl
@[simp] theorem State.setLock_copyingWindows (i : Nat) (v : Lock) : (s.setLock i v).copyingWindows = s.copyingWindows := rfl
@[simp] theorem State.setLock_carried (i : Nat) (v : Lock) : (s.setLock i v).carried = s.carried := rfl
@[simp] theorem State.setLock_bounce (i : Nat) (v : Lock) : (s.setLock i v).bounce = s.bounce := rfl
@[simp] theorem State.setLock_timeUs (i : Nat) (v : Lock) : (s.setLock i v).timeUs = s.timeUs := rfl
@[simp] theorem State.setLock_regions (i : Nat) (v : Lock) : (s.setLock i v).regions = s.regions := rfl
@[simp] theorem State.setLock_power (i : Nat) (v : Lock) : (s.setLock i v).power = s.power := rfl
@[simp] theorem State.setLock_pins (i : Nat) (v : Lock) : (s.setLock i v).pins = s.pins := rfl
@[simp] theorem State.setLock_boot (i : Nat) (v : Lock) : (s.setLock i v).boot = s.boot := rfl
@[simp] theorem State.setLock_dbg (i : Nat) (v : Lock) : (s.setLock i v).dbg = s.dbg := rfl
@[simp] theorem State.setLock_freeCtr (i : Nat) (v : Lock) : (s.setLock i v).freeCtr = s.freeCtr := rfl

@[simp] theorem State.advanceEpoch_pending (w : Nat) : (s.advanceEpoch w).pending = s.pending := rfl
@[simp] theorem State.advanceEpoch_mem (w : Nat) : (s.advanceEpoch w).mem = s.mem := rfl
@[simp] theorem State.advanceEpoch_host0 (w : Nat) : (s.advanceEpoch w).host0 = s.host0 := rfl
@[simp] theorem State.advanceEpoch_host1 (w : Nat) : (s.advanceEpoch w).host1 = s.host1 := rfl
@[simp] theorem State.advanceEpoch_bad (w : Nat) : (s.advanceEpoch w).bad = s.bad := rfl
@[simp] theorem State.advanceEpoch_poisoned (w : Nat) : (s.advanceEpoch w).poisoned = s.poisoned := rfl
@[simp] theorem State.advanceEpoch_hostBad (w : Nat) : (s.advanceEpoch w).hostBad = s.hostBad := rfl
@[simp] theorem State.advanceEpoch_od (w : Nat) : (s.advanceEpoch w).od = s.od := rfl
@[simp] theorem State.advanceEpoch_td (w : Nat) : (s.advanceEpoch w).td = s.td := rfl
@[simp] theorem State.advanceEpoch_rings (w : Nat) : (s.advanceEpoch w).rings = s.rings := rfl
@[simp] theorem State.advanceEpoch_cmds (w : Nat) : (s.advanceEpoch w).cmds = s.cmds := rfl
@[simp] theorem State.advanceEpoch_ops (w : Nat) : (s.advanceEpoch w).ops = s.ops := rfl
@[simp] theorem State.advanceEpoch_cores (w : Nat) : (s.advanceEpoch w).cores = s.cores := rfl
@[simp] theorem State.advanceEpoch_counters (w : Nat) : (s.advanceEpoch w).counters = s.counters := rfl
@[simp] theorem State.advanceEpoch_tickets (w : Nat) : (s.advanceEpoch w).tickets = s.tickets := rfl
@[simp] theorem State.advanceEpoch_stale (w : Nat) : (s.advanceEpoch w).stale = s.stale := rfl
@[simp] theorem State.advanceEpoch_reissueWait (w : Nat) : (s.advanceEpoch w).reissueWait = s.reissueWait := rfl
@[simp] theorem State.advanceEpoch_alm (w : Nat) : (s.advanceEpoch w).alm = s.alm := rfl
@[simp] theorem State.advanceEpoch_groups (w : Nat) : (s.advanceEpoch w).groups = s.groups := rfl
@[simp] theorem State.advanceEpoch_sacs (w : Nat) : (s.advanceEpoch w).sacs = s.sacs := rfl
@[simp] theorem State.advanceEpoch_queues (w : Nat) : (s.advanceEpoch w).queues = s.queues := rfl
@[simp] theorem State.advanceEpoch_locks (w : Nat) : (s.advanceEpoch w).locks = s.locks := rfl
@[simp] theorem State.advanceEpoch_lockReply (w : Nat) : (s.advanceEpoch w).lockReply = s.lockReply := rfl
@[simp] theorem State.advanceEpoch_slots (w : Nat) : (s.advanceEpoch w).slots = s.slots := rfl
@[simp] theorem State.advanceEpoch_heldReqs (w : Nat) : (s.advanceEpoch w).heldReqs = s.heldReqs := rfl
@[simp] theorem State.advanceEpoch_accepted (w : Nat) : (s.advanceEpoch w).accepted = s.accepted := rfl
@[simp] theorem State.advanceEpoch_nextAccept (w : Nat) : (s.advanceEpoch w).nextAccept = s.nextAccept := rfl
@[simp] theorem State.advanceEpoch_txns (w : Nat) : (s.advanceEpoch w).txns = s.txns := rfl
@[simp] theorem State.advanceEpoch_nextTag (w : Nat) : (s.advanceEpoch w).nextTag = s.nextTag := rfl
@[simp] theorem State.advanceEpoch_arrived (w : Nat) : (s.advanceEpoch w).arrived = s.arrived := rfl
@[simp] theorem State.advanceEpoch_routes (w : Nat) : (s.advanceEpoch w).routes = s.routes := rfl
@[simp] theorem State.advanceEpoch_badRoutes (w : Nat) : (s.advanceEpoch w).badRoutes = s.badRoutes := rfl
@[simp] theorem State.advanceEpoch_ports (w : Nat) : (s.advanceEpoch w).ports = s.ports := rfl
@[simp] theorem State.advanceEpoch_rx (w : Nat) : (s.advanceEpoch w).rx = s.rx := rfl
@[simp] theorem State.advanceEpoch_egress (w : Nat) : (s.advanceEpoch w).egress = s.egress := rfl
@[simp] theorem State.advanceEpoch_regionArb (w : Nat) : (s.advanceEpoch w).regionArb = s.regionArb := rfl
@[simp] theorem State.advanceEpoch_egressArb (w : Nat) : (s.advanceEpoch w).egressArb = s.egressArb := rfl
@[simp] theorem State.advanceEpoch_can (w : Nat) : (s.advanceEpoch w).can = s.can := rfl
@[simp] theorem State.advanceEpoch_mb0 (w : Nat) : (s.advanceEpoch w).mb0 = s.mb0 := rfl
@[simp] theorem State.advanceEpoch_mb1 (w : Nat) : (s.advanceEpoch w).mb1 = s.mb1 := rfl
@[simp] theorem State.advanceEpoch_mbOther (w : Nat) : (s.advanceEpoch w).mbOther = s.mbOther := rfl
@[simp] theorem State.advanceEpoch_canTx (w : Nat) : (s.advanceEpoch w).canTx = s.canTx := rfl
@[simp] theorem State.advanceEpoch_msix (w : Nat) : (s.advanceEpoch w).msix = s.msix := rfl
@[simp] theorem State.advanceEpoch_msixTable (w : Nat) : (s.advanceEpoch w).msixTable = s.msixTable := rfl
@[simp] theorem State.advanceEpoch_pba (w : Nat) : (s.advanceEpoch w).pba = s.pba := rfl
@[simp] theorem State.advanceEpoch_hostFns (w : Nat) : (s.advanceEpoch w).hostFns = s.hostFns := rfl
@[simp] theorem State.advanceEpoch_mgmtIn (w : Nat) : (s.advanceEpoch w).mgmtIn = s.mgmtIn := rfl
@[simp] theorem State.advanceEpoch_otp (w : Nat) : (s.advanceEpoch w).otp = s.otp := rfl
@[simp] theorem State.advanceEpoch_commit (w : Nat) : (s.advanceEpoch w).commit = s.commit := rfl
@[simp] theorem State.advanceEpoch_retained (w : Nat) : (s.advanceEpoch w).retained = s.retained := rfl
@[simp] theorem State.advanceEpoch_retainedBad (w : Nat) : (s.advanceEpoch w).retainedBad = s.retainedBad := rfl
@[simp] theorem State.advanceEpoch_fw (w : Nat) : (s.advanceEpoch w).fw = s.fw := rfl
@[simp] theorem State.advanceEpoch_clearing (w : Nat) : (s.advanceEpoch w).clearing = s.clearing := rfl
@[simp] theorem State.advanceEpoch_hbmStacks (w : Nat) : (s.advanceEpoch w).hbmStacks = s.hbmStacks := rfl
@[simp] theorem State.advanceEpoch_keys (w : Nat) : (s.advanceEpoch w).keys = s.keys := rfl
@[simp] theorem State.advanceEpoch_d2d (w : Nat) : (s.advanceEpoch w).d2d = s.d2d := rfl
@[simp] theorem State.advanceEpoch_netFails (w : Nat) : (s.advanceEpoch w).netFails = s.netFails := rfl
@[simp] theorem State.advanceEpoch_log (w : Nat) : (s.advanceEpoch w).log = s.log := rfl
@[simp] theorem State.advanceEpoch_diesFenced (w : Nat) : (s.advanceEpoch w).diesFenced = s.diesFenced := rfl
@[simp] theorem State.advanceEpoch_dmpBeats (w : Nat) : (s.advanceEpoch w).dmpBeats = s.dmpBeats := rfl
@[simp] theorem State.advanceEpoch_retest (w : Nat) : (s.advanceEpoch w).retest = s.retest := rfl
@[simp] theorem State.advanceEpoch_fences (w : Nat) : (s.advanceEpoch w).fences = s.fences := rfl
@[simp] theorem State.advanceEpoch_copyingWindows (w : Nat) : (s.advanceEpoch w).copyingWindows = s.copyingWindows := rfl
@[simp] theorem State.advanceEpoch_carried (w : Nat) : (s.advanceEpoch w).carried = s.carried := rfl
@[simp] theorem State.advanceEpoch_bounce (w : Nat) : (s.advanceEpoch w).bounce = s.bounce := rfl
@[simp] theorem State.advanceEpoch_timeUs (w : Nat) : (s.advanceEpoch w).timeUs = s.timeUs := rfl
@[simp] theorem State.advanceEpoch_regions (w : Nat) : (s.advanceEpoch w).regions = s.regions := rfl
@[simp] theorem State.advanceEpoch_power (w : Nat) : (s.advanceEpoch w).power = s.power := rfl
@[simp] theorem State.advanceEpoch_pins (w : Nat) : (s.advanceEpoch w).pins = s.pins := rfl
@[simp] theorem State.advanceEpoch_boot (w : Nat) : (s.advanceEpoch w).boot = s.boot := rfl
@[simp] theorem State.advanceEpoch_dbg (w : Nat) : (s.advanceEpoch w).dbg = s.dbg := rfl
@[simp] theorem State.advanceEpoch_freeCtr (w : Nat) : (s.advanceEpoch w).freeCtr = s.freeCtr := rfl

@[simp] theorem State.setRegionPower_pending (i : Nat) (v : RegionPower) : (s.setRegionPower i v).pending = s.pending := rfl
@[simp] theorem State.setRegionPower_mem (i : Nat) (v : RegionPower) : (s.setRegionPower i v).mem = s.mem := rfl
@[simp] theorem State.setRegionPower_host0 (i : Nat) (v : RegionPower) : (s.setRegionPower i v).host0 = s.host0 := rfl
@[simp] theorem State.setRegionPower_host1 (i : Nat) (v : RegionPower) : (s.setRegionPower i v).host1 = s.host1 := rfl
@[simp] theorem State.setRegionPower_bad (i : Nat) (v : RegionPower) : (s.setRegionPower i v).bad = s.bad := rfl
@[simp] theorem State.setRegionPower_poisoned (i : Nat) (v : RegionPower) : (s.setRegionPower i v).poisoned = s.poisoned := rfl
@[simp] theorem State.setRegionPower_hostBad (i : Nat) (v : RegionPower) : (s.setRegionPower i v).hostBad = s.hostBad := rfl
@[simp] theorem State.setRegionPower_od (i : Nat) (v : RegionPower) : (s.setRegionPower i v).od = s.od := rfl
@[simp] theorem State.setRegionPower_td (i : Nat) (v : RegionPower) : (s.setRegionPower i v).td = s.td := rfl
@[simp] theorem State.setRegionPower_rings (i : Nat) (v : RegionPower) : (s.setRegionPower i v).rings = s.rings := rfl
@[simp] theorem State.setRegionPower_cmds (i : Nat) (v : RegionPower) : (s.setRegionPower i v).cmds = s.cmds := rfl
@[simp] theorem State.setRegionPower_ops (i : Nat) (v : RegionPower) : (s.setRegionPower i v).ops = s.ops := rfl
@[simp] theorem State.setRegionPower_cores (i : Nat) (v : RegionPower) : (s.setRegionPower i v).cores = s.cores := rfl
@[simp] theorem State.setRegionPower_counters (i : Nat) (v : RegionPower) : (s.setRegionPower i v).counters = s.counters := rfl
@[simp] theorem State.setRegionPower_tickets (i : Nat) (v : RegionPower) : (s.setRegionPower i v).tickets = s.tickets := rfl
@[simp] theorem State.setRegionPower_stale (i : Nat) (v : RegionPower) : (s.setRegionPower i v).stale = s.stale := rfl
@[simp] theorem State.setRegionPower_reissueWait (i : Nat) (v : RegionPower) : (s.setRegionPower i v).reissueWait = s.reissueWait := rfl
@[simp] theorem State.setRegionPower_alm (i : Nat) (v : RegionPower) : (s.setRegionPower i v).alm = s.alm := rfl
@[simp] theorem State.setRegionPower_groups (i : Nat) (v : RegionPower) : (s.setRegionPower i v).groups = s.groups := rfl
@[simp] theorem State.setRegionPower_sacs (i : Nat) (v : RegionPower) : (s.setRegionPower i v).sacs = s.sacs := rfl
@[simp] theorem State.setRegionPower_queues (i : Nat) (v : RegionPower) : (s.setRegionPower i v).queues = s.queues := rfl
@[simp] theorem State.setRegionPower_locks (i : Nat) (v : RegionPower) : (s.setRegionPower i v).locks = s.locks := rfl
@[simp] theorem State.setRegionPower_epochs (i : Nat) (v : RegionPower) : (s.setRegionPower i v).epochs = s.epochs := rfl
@[simp] theorem State.setRegionPower_lockReply (i : Nat) (v : RegionPower) : (s.setRegionPower i v).lockReply = s.lockReply := rfl
@[simp] theorem State.setRegionPower_slots (i : Nat) (v : RegionPower) : (s.setRegionPower i v).slots = s.slots := rfl
@[simp] theorem State.setRegionPower_heldReqs (i : Nat) (v : RegionPower) : (s.setRegionPower i v).heldReqs = s.heldReqs := rfl
@[simp] theorem State.setRegionPower_accepted (i : Nat) (v : RegionPower) : (s.setRegionPower i v).accepted = s.accepted := rfl
@[simp] theorem State.setRegionPower_nextAccept (i : Nat) (v : RegionPower) : (s.setRegionPower i v).nextAccept = s.nextAccept := rfl
@[simp] theorem State.setRegionPower_txns (i : Nat) (v : RegionPower) : (s.setRegionPower i v).txns = s.txns := rfl
@[simp] theorem State.setRegionPower_nextTag (i : Nat) (v : RegionPower) : (s.setRegionPower i v).nextTag = s.nextTag := rfl
@[simp] theorem State.setRegionPower_arrived (i : Nat) (v : RegionPower) : (s.setRegionPower i v).arrived = s.arrived := rfl
@[simp] theorem State.setRegionPower_routes (i : Nat) (v : RegionPower) : (s.setRegionPower i v).routes = s.routes := rfl
@[simp] theorem State.setRegionPower_badRoutes (i : Nat) (v : RegionPower) : (s.setRegionPower i v).badRoutes = s.badRoutes := rfl
@[simp] theorem State.setRegionPower_ports (i : Nat) (v : RegionPower) : (s.setRegionPower i v).ports = s.ports := rfl
@[simp] theorem State.setRegionPower_rx (i : Nat) (v : RegionPower) : (s.setRegionPower i v).rx = s.rx := rfl
@[simp] theorem State.setRegionPower_egress (i : Nat) (v : RegionPower) : (s.setRegionPower i v).egress = s.egress := rfl
@[simp] theorem State.setRegionPower_regionArb (i : Nat) (v : RegionPower) : (s.setRegionPower i v).regionArb = s.regionArb := rfl
@[simp] theorem State.setRegionPower_egressArb (i : Nat) (v : RegionPower) : (s.setRegionPower i v).egressArb = s.egressArb := rfl
@[simp] theorem State.setRegionPower_can (i : Nat) (v : RegionPower) : (s.setRegionPower i v).can = s.can := rfl
@[simp] theorem State.setRegionPower_mb0 (i : Nat) (v : RegionPower) : (s.setRegionPower i v).mb0 = s.mb0 := rfl
@[simp] theorem State.setRegionPower_mb1 (i : Nat) (v : RegionPower) : (s.setRegionPower i v).mb1 = s.mb1 := rfl
@[simp] theorem State.setRegionPower_mbOther (i : Nat) (v : RegionPower) : (s.setRegionPower i v).mbOther = s.mbOther := rfl
@[simp] theorem State.setRegionPower_canTx (i : Nat) (v : RegionPower) : (s.setRegionPower i v).canTx = s.canTx := rfl
@[simp] theorem State.setRegionPower_msix (i : Nat) (v : RegionPower) : (s.setRegionPower i v).msix = s.msix := rfl
@[simp] theorem State.setRegionPower_msixTable (i : Nat) (v : RegionPower) : (s.setRegionPower i v).msixTable = s.msixTable := rfl
@[simp] theorem State.setRegionPower_pba (i : Nat) (v : RegionPower) : (s.setRegionPower i v).pba = s.pba := rfl
@[simp] theorem State.setRegionPower_hostFns (i : Nat) (v : RegionPower) : (s.setRegionPower i v).hostFns = s.hostFns := rfl
@[simp] theorem State.setRegionPower_mgmtIn (i : Nat) (v : RegionPower) : (s.setRegionPower i v).mgmtIn = s.mgmtIn := rfl
@[simp] theorem State.setRegionPower_otp (i : Nat) (v : RegionPower) : (s.setRegionPower i v).otp = s.otp := rfl
@[simp] theorem State.setRegionPower_commit (i : Nat) (v : RegionPower) : (s.setRegionPower i v).commit = s.commit := rfl
@[simp] theorem State.setRegionPower_retained (i : Nat) (v : RegionPower) : (s.setRegionPower i v).retained = s.retained := rfl
@[simp] theorem State.setRegionPower_retainedBad (i : Nat) (v : RegionPower) : (s.setRegionPower i v).retainedBad = s.retainedBad := rfl
@[simp] theorem State.setRegionPower_fw (i : Nat) (v : RegionPower) : (s.setRegionPower i v).fw = s.fw := rfl
@[simp] theorem State.setRegionPower_clearing (i : Nat) (v : RegionPower) : (s.setRegionPower i v).clearing = s.clearing := rfl
@[simp] theorem State.setRegionPower_hbmStacks (i : Nat) (v : RegionPower) : (s.setRegionPower i v).hbmStacks = s.hbmStacks := rfl
@[simp] theorem State.setRegionPower_keys (i : Nat) (v : RegionPower) : (s.setRegionPower i v).keys = s.keys := rfl
@[simp] theorem State.setRegionPower_d2d (i : Nat) (v : RegionPower) : (s.setRegionPower i v).d2d = s.d2d := rfl
@[simp] theorem State.setRegionPower_netFails (i : Nat) (v : RegionPower) : (s.setRegionPower i v).netFails = s.netFails := rfl
@[simp] theorem State.setRegionPower_log (i : Nat) (v : RegionPower) : (s.setRegionPower i v).log = s.log := rfl
@[simp] theorem State.setRegionPower_diesFenced (i : Nat) (v : RegionPower) : (s.setRegionPower i v).diesFenced = s.diesFenced := rfl
@[simp] theorem State.setRegionPower_dmpBeats (i : Nat) (v : RegionPower) : (s.setRegionPower i v).dmpBeats = s.dmpBeats := rfl
@[simp] theorem State.setRegionPower_retest (i : Nat) (v : RegionPower) : (s.setRegionPower i v).retest = s.retest := rfl
@[simp] theorem State.setRegionPower_fences (i : Nat) (v : RegionPower) : (s.setRegionPower i v).fences = s.fences := rfl
@[simp] theorem State.setRegionPower_copyingWindows (i : Nat) (v : RegionPower) : (s.setRegionPower i v).copyingWindows = s.copyingWindows := rfl
@[simp] theorem State.setRegionPower_carried (i : Nat) (v : RegionPower) : (s.setRegionPower i v).carried = s.carried := rfl
@[simp] theorem State.setRegionPower_bounce (i : Nat) (v : RegionPower) : (s.setRegionPower i v).bounce = s.bounce := rfl
@[simp] theorem State.setRegionPower_timeUs (i : Nat) (v : RegionPower) : (s.setRegionPower i v).timeUs = s.timeUs := rfl
@[simp] theorem State.setRegionPower_power (i : Nat) (v : RegionPower) : (s.setRegionPower i v).power = s.power := rfl
@[simp] theorem State.setRegionPower_pins (i : Nat) (v : RegionPower) : (s.setRegionPower i v).pins = s.pins := rfl
@[simp] theorem State.setRegionPower_boot (i : Nat) (v : RegionPower) : (s.setRegionPower i v).boot = s.boot := rfl
@[simp] theorem State.setRegionPower_dbg (i : Nat) (v : RegionPower) : (s.setRegionPower i v).dbg = s.dbg := rfl
@[simp] theorem State.setRegionPower_freeCtr (i : Nat) (v : RegionPower) : (s.setRegionPower i v).freeCtr = s.freeCtr := rfl

@[simp] theorem State.setStack_pending (i : Nat) (v : Stack) : (s.setStack i v).pending = s.pending := rfl
@[simp] theorem State.setStack_mem (i : Nat) (v : Stack) : (s.setStack i v).mem = s.mem := rfl
@[simp] theorem State.setStack_host0 (i : Nat) (v : Stack) : (s.setStack i v).host0 = s.host0 := rfl
@[simp] theorem State.setStack_host1 (i : Nat) (v : Stack) : (s.setStack i v).host1 = s.host1 := rfl
@[simp] theorem State.setStack_bad (i : Nat) (v : Stack) : (s.setStack i v).bad = s.bad := rfl
@[simp] theorem State.setStack_poisoned (i : Nat) (v : Stack) : (s.setStack i v).poisoned = s.poisoned := rfl
@[simp] theorem State.setStack_hostBad (i : Nat) (v : Stack) : (s.setStack i v).hostBad = s.hostBad := rfl
@[simp] theorem State.setStack_od (i : Nat) (v : Stack) : (s.setStack i v).od = s.od := rfl
@[simp] theorem State.setStack_td (i : Nat) (v : Stack) : (s.setStack i v).td = s.td := rfl
@[simp] theorem State.setStack_rings (i : Nat) (v : Stack) : (s.setStack i v).rings = s.rings := rfl
@[simp] theorem State.setStack_cmds (i : Nat) (v : Stack) : (s.setStack i v).cmds = s.cmds := rfl
@[simp] theorem State.setStack_ops (i : Nat) (v : Stack) : (s.setStack i v).ops = s.ops := rfl
@[simp] theorem State.setStack_cores (i : Nat) (v : Stack) : (s.setStack i v).cores = s.cores := rfl
@[simp] theorem State.setStack_counters (i : Nat) (v : Stack) : (s.setStack i v).counters = s.counters := rfl
@[simp] theorem State.setStack_tickets (i : Nat) (v : Stack) : (s.setStack i v).tickets = s.tickets := rfl
@[simp] theorem State.setStack_stale (i : Nat) (v : Stack) : (s.setStack i v).stale = s.stale := rfl
@[simp] theorem State.setStack_reissueWait (i : Nat) (v : Stack) : (s.setStack i v).reissueWait = s.reissueWait := rfl
@[simp] theorem State.setStack_alm (i : Nat) (v : Stack) : (s.setStack i v).alm = s.alm := rfl
@[simp] theorem State.setStack_groups (i : Nat) (v : Stack) : (s.setStack i v).groups = s.groups := rfl
@[simp] theorem State.setStack_sacs (i : Nat) (v : Stack) : (s.setStack i v).sacs = s.sacs := rfl
@[simp] theorem State.setStack_queues (i : Nat) (v : Stack) : (s.setStack i v).queues = s.queues := rfl
@[simp] theorem State.setStack_locks (i : Nat) (v : Stack) : (s.setStack i v).locks = s.locks := rfl
@[simp] theorem State.setStack_epochs (i : Nat) (v : Stack) : (s.setStack i v).epochs = s.epochs := rfl
@[simp] theorem State.setStack_lockReply (i : Nat) (v : Stack) : (s.setStack i v).lockReply = s.lockReply := rfl
@[simp] theorem State.setStack_slots (i : Nat) (v : Stack) : (s.setStack i v).slots = s.slots := rfl
@[simp] theorem State.setStack_heldReqs (i : Nat) (v : Stack) : (s.setStack i v).heldReqs = s.heldReqs := rfl
@[simp] theorem State.setStack_accepted (i : Nat) (v : Stack) : (s.setStack i v).accepted = s.accepted := rfl
@[simp] theorem State.setStack_nextAccept (i : Nat) (v : Stack) : (s.setStack i v).nextAccept = s.nextAccept := rfl
@[simp] theorem State.setStack_txns (i : Nat) (v : Stack) : (s.setStack i v).txns = s.txns := rfl
@[simp] theorem State.setStack_nextTag (i : Nat) (v : Stack) : (s.setStack i v).nextTag = s.nextTag := rfl
@[simp] theorem State.setStack_arrived (i : Nat) (v : Stack) : (s.setStack i v).arrived = s.arrived := rfl
@[simp] theorem State.setStack_routes (i : Nat) (v : Stack) : (s.setStack i v).routes = s.routes := rfl
@[simp] theorem State.setStack_badRoutes (i : Nat) (v : Stack) : (s.setStack i v).badRoutes = s.badRoutes := rfl
@[simp] theorem State.setStack_ports (i : Nat) (v : Stack) : (s.setStack i v).ports = s.ports := rfl
@[simp] theorem State.setStack_rx (i : Nat) (v : Stack) : (s.setStack i v).rx = s.rx := rfl
@[simp] theorem State.setStack_egress (i : Nat) (v : Stack) : (s.setStack i v).egress = s.egress := rfl
@[simp] theorem State.setStack_regionArb (i : Nat) (v : Stack) : (s.setStack i v).regionArb = s.regionArb := rfl
@[simp] theorem State.setStack_egressArb (i : Nat) (v : Stack) : (s.setStack i v).egressArb = s.egressArb := rfl
@[simp] theorem State.setStack_can (i : Nat) (v : Stack) : (s.setStack i v).can = s.can := rfl
@[simp] theorem State.setStack_mb0 (i : Nat) (v : Stack) : (s.setStack i v).mb0 = s.mb0 := rfl
@[simp] theorem State.setStack_mb1 (i : Nat) (v : Stack) : (s.setStack i v).mb1 = s.mb1 := rfl
@[simp] theorem State.setStack_mbOther (i : Nat) (v : Stack) : (s.setStack i v).mbOther = s.mbOther := rfl
@[simp] theorem State.setStack_canTx (i : Nat) (v : Stack) : (s.setStack i v).canTx = s.canTx := rfl
@[simp] theorem State.setStack_msix (i : Nat) (v : Stack) : (s.setStack i v).msix = s.msix := rfl
@[simp] theorem State.setStack_msixTable (i : Nat) (v : Stack) : (s.setStack i v).msixTable = s.msixTable := rfl
@[simp] theorem State.setStack_pba (i : Nat) (v : Stack) : (s.setStack i v).pba = s.pba := rfl
@[simp] theorem State.setStack_hostFns (i : Nat) (v : Stack) : (s.setStack i v).hostFns = s.hostFns := rfl
@[simp] theorem State.setStack_mgmtIn (i : Nat) (v : Stack) : (s.setStack i v).mgmtIn = s.mgmtIn := rfl
@[simp] theorem State.setStack_otp (i : Nat) (v : Stack) : (s.setStack i v).otp = s.otp := rfl
@[simp] theorem State.setStack_commit (i : Nat) (v : Stack) : (s.setStack i v).commit = s.commit := rfl
@[simp] theorem State.setStack_retained (i : Nat) (v : Stack) : (s.setStack i v).retained = s.retained := rfl
@[simp] theorem State.setStack_retainedBad (i : Nat) (v : Stack) : (s.setStack i v).retainedBad = s.retainedBad := rfl
@[simp] theorem State.setStack_fw (i : Nat) (v : Stack) : (s.setStack i v).fw = s.fw := rfl
@[simp] theorem State.setStack_clearing (i : Nat) (v : Stack) : (s.setStack i v).clearing = s.clearing := rfl
@[simp] theorem State.setStack_keys (i : Nat) (v : Stack) : (s.setStack i v).keys = s.keys := rfl
@[simp] theorem State.setStack_d2d (i : Nat) (v : Stack) : (s.setStack i v).d2d = s.d2d := rfl
@[simp] theorem State.setStack_netFails (i : Nat) (v : Stack) : (s.setStack i v).netFails = s.netFails := rfl
@[simp] theorem State.setStack_log (i : Nat) (v : Stack) : (s.setStack i v).log = s.log := rfl
@[simp] theorem State.setStack_diesFenced (i : Nat) (v : Stack) : (s.setStack i v).diesFenced = s.diesFenced := rfl
@[simp] theorem State.setStack_dmpBeats (i : Nat) (v : Stack) : (s.setStack i v).dmpBeats = s.dmpBeats := rfl
@[simp] theorem State.setStack_retest (i : Nat) (v : Stack) : (s.setStack i v).retest = s.retest := rfl
@[simp] theorem State.setStack_fences (i : Nat) (v : Stack) : (s.setStack i v).fences = s.fences := rfl
@[simp] theorem State.setStack_copyingWindows (i : Nat) (v : Stack) : (s.setStack i v).copyingWindows = s.copyingWindows := rfl
@[simp] theorem State.setStack_carried (i : Nat) (v : Stack) : (s.setStack i v).carried = s.carried := rfl
@[simp] theorem State.setStack_bounce (i : Nat) (v : Stack) : (s.setStack i v).bounce = s.bounce := rfl
@[simp] theorem State.setStack_timeUs (i : Nat) (v : Stack) : (s.setStack i v).timeUs = s.timeUs := rfl
@[simp] theorem State.setStack_regions (i : Nat) (v : Stack) : (s.setStack i v).regions = s.regions := rfl
@[simp] theorem State.setStack_power (i : Nat) (v : Stack) : (s.setStack i v).power = s.power := rfl
@[simp] theorem State.setStack_pins (i : Nat) (v : Stack) : (s.setStack i v).pins = s.pins := rfl
@[simp] theorem State.setStack_boot (i : Nat) (v : Stack) : (s.setStack i v).boot = s.boot := rfl
@[simp] theorem State.setStack_dbg (i : Nat) (v : Stack) : (s.setStack i v).dbg = s.dbg := rfl
@[simp] theorem State.setStack_freeCtr (i : Nat) (v : Stack) : (s.setStack i v).freeCtr = s.freeCtr := rfl

@[simp] theorem State.updCmd_pending (r p : Nat) (f : Cmd → Cmd) : (s.updCmd r p f).pending = s.pending := rfl
@[simp] theorem State.updCmd_mem (r p : Nat) (f : Cmd → Cmd) : (s.updCmd r p f).mem = s.mem := rfl
@[simp] theorem State.updCmd_host0 (r p : Nat) (f : Cmd → Cmd) : (s.updCmd r p f).host0 = s.host0 := rfl
@[simp] theorem State.updCmd_host1 (r p : Nat) (f : Cmd → Cmd) : (s.updCmd r p f).host1 = s.host1 := rfl
@[simp] theorem State.updCmd_bad (r p : Nat) (f : Cmd → Cmd) : (s.updCmd r p f).bad = s.bad := rfl
@[simp] theorem State.updCmd_poisoned (r p : Nat) (f : Cmd → Cmd) : (s.updCmd r p f).poisoned = s.poisoned := rfl
@[simp] theorem State.updCmd_hostBad (r p : Nat) (f : Cmd → Cmd) : (s.updCmd r p f).hostBad = s.hostBad := rfl
@[simp] theorem State.updCmd_od (r p : Nat) (f : Cmd → Cmd) : (s.updCmd r p f).od = s.od := rfl
@[simp] theorem State.updCmd_td (r p : Nat) (f : Cmd → Cmd) : (s.updCmd r p f).td = s.td := rfl
@[simp] theorem State.updCmd_rings (r p : Nat) (f : Cmd → Cmd) : (s.updCmd r p f).rings = s.rings := rfl
@[simp] theorem State.updCmd_ops (r p : Nat) (f : Cmd → Cmd) : (s.updCmd r p f).ops = s.ops := rfl
@[simp] theorem State.updCmd_cores (r p : Nat) (f : Cmd → Cmd) : (s.updCmd r p f).cores = s.cores := rfl
@[simp] theorem State.updCmd_counters (r p : Nat) (f : Cmd → Cmd) : (s.updCmd r p f).counters = s.counters := rfl
@[simp] theorem State.updCmd_tickets (r p : Nat) (f : Cmd → Cmd) : (s.updCmd r p f).tickets = s.tickets := rfl
@[simp] theorem State.updCmd_stale (r p : Nat) (f : Cmd → Cmd) : (s.updCmd r p f).stale = s.stale := rfl
@[simp] theorem State.updCmd_reissueWait (r p : Nat) (f : Cmd → Cmd) : (s.updCmd r p f).reissueWait = s.reissueWait := rfl
@[simp] theorem State.updCmd_alm (r p : Nat) (f : Cmd → Cmd) : (s.updCmd r p f).alm = s.alm := rfl
@[simp] theorem State.updCmd_groups (r p : Nat) (f : Cmd → Cmd) : (s.updCmd r p f).groups = s.groups := rfl
@[simp] theorem State.updCmd_sacs (r p : Nat) (f : Cmd → Cmd) : (s.updCmd r p f).sacs = s.sacs := rfl
@[simp] theorem State.updCmd_queues (r p : Nat) (f : Cmd → Cmd) : (s.updCmd r p f).queues = s.queues := rfl
@[simp] theorem State.updCmd_locks (r p : Nat) (f : Cmd → Cmd) : (s.updCmd r p f).locks = s.locks := rfl
@[simp] theorem State.updCmd_epochs (r p : Nat) (f : Cmd → Cmd) : (s.updCmd r p f).epochs = s.epochs := rfl
@[simp] theorem State.updCmd_lockReply (r p : Nat) (f : Cmd → Cmd) : (s.updCmd r p f).lockReply = s.lockReply := rfl
@[simp] theorem State.updCmd_slots (r p : Nat) (f : Cmd → Cmd) : (s.updCmd r p f).slots = s.slots := rfl
@[simp] theorem State.updCmd_heldReqs (r p : Nat) (f : Cmd → Cmd) : (s.updCmd r p f).heldReqs = s.heldReqs := rfl
@[simp] theorem State.updCmd_accepted (r p : Nat) (f : Cmd → Cmd) : (s.updCmd r p f).accepted = s.accepted := rfl
@[simp] theorem State.updCmd_nextAccept (r p : Nat) (f : Cmd → Cmd) : (s.updCmd r p f).nextAccept = s.nextAccept := rfl
@[simp] theorem State.updCmd_txns (r p : Nat) (f : Cmd → Cmd) : (s.updCmd r p f).txns = s.txns := rfl
@[simp] theorem State.updCmd_nextTag (r p : Nat) (f : Cmd → Cmd) : (s.updCmd r p f).nextTag = s.nextTag := rfl
@[simp] theorem State.updCmd_arrived (r p : Nat) (f : Cmd → Cmd) : (s.updCmd r p f).arrived = s.arrived := rfl
@[simp] theorem State.updCmd_routes (r p : Nat) (f : Cmd → Cmd) : (s.updCmd r p f).routes = s.routes := rfl
@[simp] theorem State.updCmd_badRoutes (r p : Nat) (f : Cmd → Cmd) : (s.updCmd r p f).badRoutes = s.badRoutes := rfl
@[simp] theorem State.updCmd_ports (r p : Nat) (f : Cmd → Cmd) : (s.updCmd r p f).ports = s.ports := rfl
@[simp] theorem State.updCmd_rx (r p : Nat) (f : Cmd → Cmd) : (s.updCmd r p f).rx = s.rx := rfl
@[simp] theorem State.updCmd_egress (r p : Nat) (f : Cmd → Cmd) : (s.updCmd r p f).egress = s.egress := rfl
@[simp] theorem State.updCmd_regionArb (r p : Nat) (f : Cmd → Cmd) : (s.updCmd r p f).regionArb = s.regionArb := rfl
@[simp] theorem State.updCmd_egressArb (r p : Nat) (f : Cmd → Cmd) : (s.updCmd r p f).egressArb = s.egressArb := rfl
@[simp] theorem State.updCmd_can (r p : Nat) (f : Cmd → Cmd) : (s.updCmd r p f).can = s.can := rfl
@[simp] theorem State.updCmd_mb0 (r p : Nat) (f : Cmd → Cmd) : (s.updCmd r p f).mb0 = s.mb0 := rfl
@[simp] theorem State.updCmd_mb1 (r p : Nat) (f : Cmd → Cmd) : (s.updCmd r p f).mb1 = s.mb1 := rfl
@[simp] theorem State.updCmd_mbOther (r p : Nat) (f : Cmd → Cmd) : (s.updCmd r p f).mbOther = s.mbOther := rfl
@[simp] theorem State.updCmd_canTx (r p : Nat) (f : Cmd → Cmd) : (s.updCmd r p f).canTx = s.canTx := rfl
@[simp] theorem State.updCmd_msix (r p : Nat) (f : Cmd → Cmd) : (s.updCmd r p f).msix = s.msix := rfl
@[simp] theorem State.updCmd_msixTable (r p : Nat) (f : Cmd → Cmd) : (s.updCmd r p f).msixTable = s.msixTable := rfl
@[simp] theorem State.updCmd_pba (r p : Nat) (f : Cmd → Cmd) : (s.updCmd r p f).pba = s.pba := rfl
@[simp] theorem State.updCmd_hostFns (r p : Nat) (f : Cmd → Cmd) : (s.updCmd r p f).hostFns = s.hostFns := rfl
@[simp] theorem State.updCmd_mgmtIn (r p : Nat) (f : Cmd → Cmd) : (s.updCmd r p f).mgmtIn = s.mgmtIn := rfl
@[simp] theorem State.updCmd_otp (r p : Nat) (f : Cmd → Cmd) : (s.updCmd r p f).otp = s.otp := rfl
@[simp] theorem State.updCmd_commit (r p : Nat) (f : Cmd → Cmd) : (s.updCmd r p f).commit = s.commit := rfl
@[simp] theorem State.updCmd_retained (r p : Nat) (f : Cmd → Cmd) : (s.updCmd r p f).retained = s.retained := rfl
@[simp] theorem State.updCmd_retainedBad (r p : Nat) (f : Cmd → Cmd) : (s.updCmd r p f).retainedBad = s.retainedBad := rfl
@[simp] theorem State.updCmd_fw (r p : Nat) (f : Cmd → Cmd) : (s.updCmd r p f).fw = s.fw := rfl
@[simp] theorem State.updCmd_clearing (r p : Nat) (f : Cmd → Cmd) : (s.updCmd r p f).clearing = s.clearing := rfl
@[simp] theorem State.updCmd_hbmStacks (r p : Nat) (f : Cmd → Cmd) : (s.updCmd r p f).hbmStacks = s.hbmStacks := rfl
@[simp] theorem State.updCmd_keys (r p : Nat) (f : Cmd → Cmd) : (s.updCmd r p f).keys = s.keys := rfl
@[simp] theorem State.updCmd_d2d (r p : Nat) (f : Cmd → Cmd) : (s.updCmd r p f).d2d = s.d2d := rfl
@[simp] theorem State.updCmd_netFails (r p : Nat) (f : Cmd → Cmd) : (s.updCmd r p f).netFails = s.netFails := rfl
@[simp] theorem State.updCmd_log (r p : Nat) (f : Cmd → Cmd) : (s.updCmd r p f).log = s.log := rfl
@[simp] theorem State.updCmd_diesFenced (r p : Nat) (f : Cmd → Cmd) : (s.updCmd r p f).diesFenced = s.diesFenced := rfl
@[simp] theorem State.updCmd_dmpBeats (r p : Nat) (f : Cmd → Cmd) : (s.updCmd r p f).dmpBeats = s.dmpBeats := rfl
@[simp] theorem State.updCmd_retest (r p : Nat) (f : Cmd → Cmd) : (s.updCmd r p f).retest = s.retest := rfl
@[simp] theorem State.updCmd_fences (r p : Nat) (f : Cmd → Cmd) : (s.updCmd r p f).fences = s.fences := rfl
@[simp] theorem State.updCmd_copyingWindows (r p : Nat) (f : Cmd → Cmd) : (s.updCmd r p f).copyingWindows = s.copyingWindows := rfl
@[simp] theorem State.updCmd_carried (r p : Nat) (f : Cmd → Cmd) : (s.updCmd r p f).carried = s.carried := rfl
@[simp] theorem State.updCmd_bounce (r p : Nat) (f : Cmd → Cmd) : (s.updCmd r p f).bounce = s.bounce := rfl
@[simp] theorem State.updCmd_timeUs (r p : Nat) (f : Cmd → Cmd) : (s.updCmd r p f).timeUs = s.timeUs := rfl
@[simp] theorem State.updCmd_regions (r p : Nat) (f : Cmd → Cmd) : (s.updCmd r p f).regions = s.regions := rfl
@[simp] theorem State.updCmd_power (r p : Nat) (f : Cmd → Cmd) : (s.updCmd r p f).power = s.power := rfl
@[simp] theorem State.updCmd_pins (r p : Nat) (f : Cmd → Cmd) : (s.updCmd r p f).pins = s.pins := rfl
@[simp] theorem State.updCmd_boot (r p : Nat) (f : Cmd → Cmd) : (s.updCmd r p f).boot = s.boot := rfl
@[simp] theorem State.updCmd_dbg (r p : Nat) (f : Cmd → Cmd) : (s.updCmd r p f).dbg = s.dbg := rfl
@[simp] theorem State.updCmd_freeCtr (r p : Nat) (f : Cmd → Cmd) : (s.updCmd r p f).freeCtr = s.freeCtr := rfl

@[simp] theorem State.updOp_pending (r p : Nat) (f : Op → Op) : (s.updOp r p f).pending = s.pending := rfl
@[simp] theorem State.updOp_mem (r p : Nat) (f : Op → Op) : (s.updOp r p f).mem = s.mem := rfl
@[simp] theorem State.updOp_host0 (r p : Nat) (f : Op → Op) : (s.updOp r p f).host0 = s.host0 := rfl
@[simp] theorem State.updOp_host1 (r p : Nat) (f : Op → Op) : (s.updOp r p f).host1 = s.host1 := rfl
@[simp] theorem State.updOp_bad (r p : Nat) (f : Op → Op) : (s.updOp r p f).bad = s.bad := rfl
@[simp] theorem State.updOp_poisoned (r p : Nat) (f : Op → Op) : (s.updOp r p f).poisoned = s.poisoned := rfl
@[simp] theorem State.updOp_hostBad (r p : Nat) (f : Op → Op) : (s.updOp r p f).hostBad = s.hostBad := rfl
@[simp] theorem State.updOp_od (r p : Nat) (f : Op → Op) : (s.updOp r p f).od = s.od := rfl
@[simp] theorem State.updOp_td (r p : Nat) (f : Op → Op) : (s.updOp r p f).td = s.td := rfl
@[simp] theorem State.updOp_rings (r p : Nat) (f : Op → Op) : (s.updOp r p f).rings = s.rings := rfl
@[simp] theorem State.updOp_cmds (r p : Nat) (f : Op → Op) : (s.updOp r p f).cmds = s.cmds := rfl
@[simp] theorem State.updOp_cores (r p : Nat) (f : Op → Op) : (s.updOp r p f).cores = s.cores := rfl
@[simp] theorem State.updOp_counters (r p : Nat) (f : Op → Op) : (s.updOp r p f).counters = s.counters := rfl
@[simp] theorem State.updOp_tickets (r p : Nat) (f : Op → Op) : (s.updOp r p f).tickets = s.tickets := rfl
@[simp] theorem State.updOp_stale (r p : Nat) (f : Op → Op) : (s.updOp r p f).stale = s.stale := rfl
@[simp] theorem State.updOp_reissueWait (r p : Nat) (f : Op → Op) : (s.updOp r p f).reissueWait = s.reissueWait := rfl
@[simp] theorem State.updOp_alm (r p : Nat) (f : Op → Op) : (s.updOp r p f).alm = s.alm := rfl
@[simp] theorem State.updOp_groups (r p : Nat) (f : Op → Op) : (s.updOp r p f).groups = s.groups := rfl
@[simp] theorem State.updOp_sacs (r p : Nat) (f : Op → Op) : (s.updOp r p f).sacs = s.sacs := rfl
@[simp] theorem State.updOp_queues (r p : Nat) (f : Op → Op) : (s.updOp r p f).queues = s.queues := rfl
@[simp] theorem State.updOp_locks (r p : Nat) (f : Op → Op) : (s.updOp r p f).locks = s.locks := rfl
@[simp] theorem State.updOp_epochs (r p : Nat) (f : Op → Op) : (s.updOp r p f).epochs = s.epochs := rfl
@[simp] theorem State.updOp_lockReply (r p : Nat) (f : Op → Op) : (s.updOp r p f).lockReply = s.lockReply := rfl
@[simp] theorem State.updOp_slots (r p : Nat) (f : Op → Op) : (s.updOp r p f).slots = s.slots := rfl
@[simp] theorem State.updOp_heldReqs (r p : Nat) (f : Op → Op) : (s.updOp r p f).heldReqs = s.heldReqs := rfl
@[simp] theorem State.updOp_accepted (r p : Nat) (f : Op → Op) : (s.updOp r p f).accepted = s.accepted := rfl
@[simp] theorem State.updOp_nextAccept (r p : Nat) (f : Op → Op) : (s.updOp r p f).nextAccept = s.nextAccept := rfl
@[simp] theorem State.updOp_txns (r p : Nat) (f : Op → Op) : (s.updOp r p f).txns = s.txns := rfl
@[simp] theorem State.updOp_nextTag (r p : Nat) (f : Op → Op) : (s.updOp r p f).nextTag = s.nextTag := rfl
@[simp] theorem State.updOp_arrived (r p : Nat) (f : Op → Op) : (s.updOp r p f).arrived = s.arrived := rfl
@[simp] theorem State.updOp_routes (r p : Nat) (f : Op → Op) : (s.updOp r p f).routes = s.routes := rfl
@[simp] theorem State.updOp_badRoutes (r p : Nat) (f : Op → Op) : (s.updOp r p f).badRoutes = s.badRoutes := rfl
@[simp] theorem State.updOp_ports (r p : Nat) (f : Op → Op) : (s.updOp r p f).ports = s.ports := rfl
@[simp] theorem State.updOp_rx (r p : Nat) (f : Op → Op) : (s.updOp r p f).rx = s.rx := rfl
@[simp] theorem State.updOp_egress (r p : Nat) (f : Op → Op) : (s.updOp r p f).egress = s.egress := rfl
@[simp] theorem State.updOp_regionArb (r p : Nat) (f : Op → Op) : (s.updOp r p f).regionArb = s.regionArb := rfl
@[simp] theorem State.updOp_egressArb (r p : Nat) (f : Op → Op) : (s.updOp r p f).egressArb = s.egressArb := rfl
@[simp] theorem State.updOp_can (r p : Nat) (f : Op → Op) : (s.updOp r p f).can = s.can := rfl
@[simp] theorem State.updOp_mb0 (r p : Nat) (f : Op → Op) : (s.updOp r p f).mb0 = s.mb0 := rfl
@[simp] theorem State.updOp_mb1 (r p : Nat) (f : Op → Op) : (s.updOp r p f).mb1 = s.mb1 := rfl
@[simp] theorem State.updOp_mbOther (r p : Nat) (f : Op → Op) : (s.updOp r p f).mbOther = s.mbOther := rfl
@[simp] theorem State.updOp_canTx (r p : Nat) (f : Op → Op) : (s.updOp r p f).canTx = s.canTx := rfl
@[simp] theorem State.updOp_msix (r p : Nat) (f : Op → Op) : (s.updOp r p f).msix = s.msix := rfl
@[simp] theorem State.updOp_msixTable (r p : Nat) (f : Op → Op) : (s.updOp r p f).msixTable = s.msixTable := rfl
@[simp] theorem State.updOp_pba (r p : Nat) (f : Op → Op) : (s.updOp r p f).pba = s.pba := rfl
@[simp] theorem State.updOp_hostFns (r p : Nat) (f : Op → Op) : (s.updOp r p f).hostFns = s.hostFns := rfl
@[simp] theorem State.updOp_mgmtIn (r p : Nat) (f : Op → Op) : (s.updOp r p f).mgmtIn = s.mgmtIn := rfl
@[simp] theorem State.updOp_otp (r p : Nat) (f : Op → Op) : (s.updOp r p f).otp = s.otp := rfl
@[simp] theorem State.updOp_commit (r p : Nat) (f : Op → Op) : (s.updOp r p f).commit = s.commit := rfl
@[simp] theorem State.updOp_retained (r p : Nat) (f : Op → Op) : (s.updOp r p f).retained = s.retained := rfl
@[simp] theorem State.updOp_retainedBad (r p : Nat) (f : Op → Op) : (s.updOp r p f).retainedBad = s.retainedBad := rfl
@[simp] theorem State.updOp_fw (r p : Nat) (f : Op → Op) : (s.updOp r p f).fw = s.fw := rfl
@[simp] theorem State.updOp_clearing (r p : Nat) (f : Op → Op) : (s.updOp r p f).clearing = s.clearing := rfl
@[simp] theorem State.updOp_hbmStacks (r p : Nat) (f : Op → Op) : (s.updOp r p f).hbmStacks = s.hbmStacks := rfl
@[simp] theorem State.updOp_keys (r p : Nat) (f : Op → Op) : (s.updOp r p f).keys = s.keys := rfl
@[simp] theorem State.updOp_d2d (r p : Nat) (f : Op → Op) : (s.updOp r p f).d2d = s.d2d := rfl
@[simp] theorem State.updOp_netFails (r p : Nat) (f : Op → Op) : (s.updOp r p f).netFails = s.netFails := rfl
@[simp] theorem State.updOp_log (r p : Nat) (f : Op → Op) : (s.updOp r p f).log = s.log := rfl
@[simp] theorem State.updOp_diesFenced (r p : Nat) (f : Op → Op) : (s.updOp r p f).diesFenced = s.diesFenced := rfl
@[simp] theorem State.updOp_dmpBeats (r p : Nat) (f : Op → Op) : (s.updOp r p f).dmpBeats = s.dmpBeats := rfl
@[simp] theorem State.updOp_retest (r p : Nat) (f : Op → Op) : (s.updOp r p f).retest = s.retest := rfl
@[simp] theorem State.updOp_fences (r p : Nat) (f : Op → Op) : (s.updOp r p f).fences = s.fences := rfl
@[simp] theorem State.updOp_copyingWindows (r p : Nat) (f : Op → Op) : (s.updOp r p f).copyingWindows = s.copyingWindows := rfl
@[simp] theorem State.updOp_carried (r p : Nat) (f : Op → Op) : (s.updOp r p f).carried = s.carried := rfl
@[simp] theorem State.updOp_bounce (r p : Nat) (f : Op → Op) : (s.updOp r p f).bounce = s.bounce := rfl
@[simp] theorem State.updOp_timeUs (r p : Nat) (f : Op → Op) : (s.updOp r p f).timeUs = s.timeUs := rfl
@[simp] theorem State.updOp_regions (r p : Nat) (f : Op → Op) : (s.updOp r p f).regions = s.regions := rfl
@[simp] theorem State.updOp_power (r p : Nat) (f : Op → Op) : (s.updOp r p f).power = s.power := rfl
@[simp] theorem State.updOp_pins (r p : Nat) (f : Op → Op) : (s.updOp r p f).pins = s.pins := rfl
@[simp] theorem State.updOp_boot (r p : Nat) (f : Op → Op) : (s.updOp r p f).boot = s.boot := rfl
@[simp] theorem State.updOp_dbg (r p : Nat) (f : Op → Op) : (s.updOp r p f).dbg = s.dbg := rfl
@[simp] theorem State.updOp_freeCtr (r p : Nat) (f : Op → Op) : (s.updOp r p f).freeCtr = s.freeCtr := rfl

@[simp] theorem State.useFree_pending (n : Nat) : (s.useFree n).pending = s.pending := rfl
@[simp] theorem State.useFree_mem (n : Nat) : (s.useFree n).mem = s.mem := rfl
@[simp] theorem State.useFree_host0 (n : Nat) : (s.useFree n).host0 = s.host0 := rfl
@[simp] theorem State.useFree_host1 (n : Nat) : (s.useFree n).host1 = s.host1 := rfl
@[simp] theorem State.useFree_bad (n : Nat) : (s.useFree n).bad = s.bad := rfl
@[simp] theorem State.useFree_poisoned (n : Nat) : (s.useFree n).poisoned = s.poisoned := rfl
@[simp] theorem State.useFree_hostBad (n : Nat) : (s.useFree n).hostBad = s.hostBad := rfl
@[simp] theorem State.useFree_od (n : Nat) : (s.useFree n).od = s.od := rfl
@[simp] theorem State.useFree_td (n : Nat) : (s.useFree n).td = s.td := rfl
@[simp] theorem State.useFree_rings (n : Nat) : (s.useFree n).rings = s.rings := rfl
@[simp] theorem State.useFree_cmds (n : Nat) : (s.useFree n).cmds = s.cmds := rfl
@[simp] theorem State.useFree_ops (n : Nat) : (s.useFree n).ops = s.ops := rfl
@[simp] theorem State.useFree_cores (n : Nat) : (s.useFree n).cores = s.cores := rfl
@[simp] theorem State.useFree_counters (n : Nat) : (s.useFree n).counters = s.counters := rfl
@[simp] theorem State.useFree_tickets (n : Nat) : (s.useFree n).tickets = s.tickets := rfl
@[simp] theorem State.useFree_stale (n : Nat) : (s.useFree n).stale = s.stale := rfl
@[simp] theorem State.useFree_reissueWait (n : Nat) : (s.useFree n).reissueWait = s.reissueWait := rfl
@[simp] theorem State.useFree_alm (n : Nat) : (s.useFree n).alm = s.alm := rfl
@[simp] theorem State.useFree_groups (n : Nat) : (s.useFree n).groups = s.groups := rfl
@[simp] theorem State.useFree_sacs (n : Nat) : (s.useFree n).sacs = s.sacs := rfl
@[simp] theorem State.useFree_queues (n : Nat) : (s.useFree n).queues = s.queues := rfl
@[simp] theorem State.useFree_locks (n : Nat) : (s.useFree n).locks = s.locks := rfl
@[simp] theorem State.useFree_epochs (n : Nat) : (s.useFree n).epochs = s.epochs := rfl
@[simp] theorem State.useFree_lockReply (n : Nat) : (s.useFree n).lockReply = s.lockReply := rfl
@[simp] theorem State.useFree_slots (n : Nat) : (s.useFree n).slots = s.slots := rfl
@[simp] theorem State.useFree_heldReqs (n : Nat) : (s.useFree n).heldReqs = s.heldReqs := rfl
@[simp] theorem State.useFree_accepted (n : Nat) : (s.useFree n).accepted = s.accepted := rfl
@[simp] theorem State.useFree_nextAccept (n : Nat) : (s.useFree n).nextAccept = s.nextAccept := rfl
@[simp] theorem State.useFree_txns (n : Nat) : (s.useFree n).txns = s.txns := rfl
@[simp] theorem State.useFree_nextTag (n : Nat) : (s.useFree n).nextTag = s.nextTag := rfl
@[simp] theorem State.useFree_arrived (n : Nat) : (s.useFree n).arrived = s.arrived := rfl
@[simp] theorem State.useFree_routes (n : Nat) : (s.useFree n).routes = s.routes := rfl
@[simp] theorem State.useFree_badRoutes (n : Nat) : (s.useFree n).badRoutes = s.badRoutes := rfl
@[simp] theorem State.useFree_ports (n : Nat) : (s.useFree n).ports = s.ports := rfl
@[simp] theorem State.useFree_rx (n : Nat) : (s.useFree n).rx = s.rx := rfl
@[simp] theorem State.useFree_egress (n : Nat) : (s.useFree n).egress = s.egress := rfl
@[simp] theorem State.useFree_regionArb (n : Nat) : (s.useFree n).regionArb = s.regionArb := rfl
@[simp] theorem State.useFree_egressArb (n : Nat) : (s.useFree n).egressArb = s.egressArb := rfl
@[simp] theorem State.useFree_can (n : Nat) : (s.useFree n).can = s.can := rfl
@[simp] theorem State.useFree_mb0 (n : Nat) : (s.useFree n).mb0 = s.mb0 := rfl
@[simp] theorem State.useFree_mb1 (n : Nat) : (s.useFree n).mb1 = s.mb1 := rfl
@[simp] theorem State.useFree_mbOther (n : Nat) : (s.useFree n).mbOther = s.mbOther := rfl
@[simp] theorem State.useFree_canTx (n : Nat) : (s.useFree n).canTx = s.canTx := rfl
@[simp] theorem State.useFree_msix (n : Nat) : (s.useFree n).msix = s.msix := rfl
@[simp] theorem State.useFree_msixTable (n : Nat) : (s.useFree n).msixTable = s.msixTable := rfl
@[simp] theorem State.useFree_pba (n : Nat) : (s.useFree n).pba = s.pba := rfl
@[simp] theorem State.useFree_hostFns (n : Nat) : (s.useFree n).hostFns = s.hostFns := rfl
@[simp] theorem State.useFree_mgmtIn (n : Nat) : (s.useFree n).mgmtIn = s.mgmtIn := rfl
@[simp] theorem State.useFree_otp (n : Nat) : (s.useFree n).otp = s.otp := rfl
@[simp] theorem State.useFree_commit (n : Nat) : (s.useFree n).commit = s.commit := rfl
@[simp] theorem State.useFree_retained (n : Nat) : (s.useFree n).retained = s.retained := rfl
@[simp] theorem State.useFree_retainedBad (n : Nat) : (s.useFree n).retainedBad = s.retainedBad := rfl
@[simp] theorem State.useFree_fw (n : Nat) : (s.useFree n).fw = s.fw := rfl
@[simp] theorem State.useFree_clearing (n : Nat) : (s.useFree n).clearing = s.clearing := rfl
@[simp] theorem State.useFree_hbmStacks (n : Nat) : (s.useFree n).hbmStacks = s.hbmStacks := rfl
@[simp] theorem State.useFree_keys (n : Nat) : (s.useFree n).keys = s.keys := rfl
@[simp] theorem State.useFree_d2d (n : Nat) : (s.useFree n).d2d = s.d2d := rfl
@[simp] theorem State.useFree_netFails (n : Nat) : (s.useFree n).netFails = s.netFails := rfl
@[simp] theorem State.useFree_log (n : Nat) : (s.useFree n).log = s.log := rfl
@[simp] theorem State.useFree_diesFenced (n : Nat) : (s.useFree n).diesFenced = s.diesFenced := rfl
@[simp] theorem State.useFree_dmpBeats (n : Nat) : (s.useFree n).dmpBeats = s.dmpBeats := rfl
@[simp] theorem State.useFree_retest (n : Nat) : (s.useFree n).retest = s.retest := rfl
@[simp] theorem State.useFree_fences (n : Nat) : (s.useFree n).fences = s.fences := rfl
@[simp] theorem State.useFree_copyingWindows (n : Nat) : (s.useFree n).copyingWindows = s.copyingWindows := rfl
@[simp] theorem State.useFree_carried (n : Nat) : (s.useFree n).carried = s.carried := rfl
@[simp] theorem State.useFree_bounce (n : Nat) : (s.useFree n).bounce = s.bounce := rfl
@[simp] theorem State.useFree_timeUs (n : Nat) : (s.useFree n).timeUs = s.timeUs := rfl
@[simp] theorem State.useFree_regions (n : Nat) : (s.useFree n).regions = s.regions := rfl
@[simp] theorem State.useFree_power (n : Nat) : (s.useFree n).power = s.power := rfl
@[simp] theorem State.useFree_pins (n : Nat) : (s.useFree n).pins = s.pins := rfl
@[simp] theorem State.useFree_boot (n : Nat) : (s.useFree n).boot = s.boot := rfl
@[simp] theorem State.useFree_dbg (n : Nat) : (s.useFree n).dbg = s.dbg := rfl

@[simp] theorem State.odSet_pending (i j v : Nat) : (s.odSet i j v).pending = s.pending := rfl
@[simp] theorem State.odSet_mem (i j v : Nat) : (s.odSet i j v).mem = s.mem := rfl
@[simp] theorem State.odSet_host0 (i j v : Nat) : (s.odSet i j v).host0 = s.host0 := rfl
@[simp] theorem State.odSet_host1 (i j v : Nat) : (s.odSet i j v).host1 = s.host1 := rfl
@[simp] theorem State.odSet_bad (i j v : Nat) : (s.odSet i j v).bad = s.bad := rfl
@[simp] theorem State.odSet_poisoned (i j v : Nat) : (s.odSet i j v).poisoned = s.poisoned := rfl
@[simp] theorem State.odSet_hostBad (i j v : Nat) : (s.odSet i j v).hostBad = s.hostBad := rfl
@[simp] theorem State.odSet_td (i j v : Nat) : (s.odSet i j v).td = s.td := rfl
@[simp] theorem State.odSet_rings (i j v : Nat) : (s.odSet i j v).rings = s.rings := rfl
@[simp] theorem State.odSet_cmds (i j v : Nat) : (s.odSet i j v).cmds = s.cmds := rfl
@[simp] theorem State.odSet_ops (i j v : Nat) : (s.odSet i j v).ops = s.ops := rfl
@[simp] theorem State.odSet_cores (i j v : Nat) : (s.odSet i j v).cores = s.cores := rfl
@[simp] theorem State.odSet_counters (i j v : Nat) : (s.odSet i j v).counters = s.counters := rfl
@[simp] theorem State.odSet_tickets (i j v : Nat) : (s.odSet i j v).tickets = s.tickets := rfl
@[simp] theorem State.odSet_stale (i j v : Nat) : (s.odSet i j v).stale = s.stale := rfl
@[simp] theorem State.odSet_reissueWait (i j v : Nat) : (s.odSet i j v).reissueWait = s.reissueWait := rfl
@[simp] theorem State.odSet_alm (i j v : Nat) : (s.odSet i j v).alm = s.alm := rfl
@[simp] theorem State.odSet_groups (i j v : Nat) : (s.odSet i j v).groups = s.groups := rfl
@[simp] theorem State.odSet_sacs (i j v : Nat) : (s.odSet i j v).sacs = s.sacs := rfl
@[simp] theorem State.odSet_queues (i j v : Nat) : (s.odSet i j v).queues = s.queues := rfl
@[simp] theorem State.odSet_locks (i j v : Nat) : (s.odSet i j v).locks = s.locks := rfl
@[simp] theorem State.odSet_epochs (i j v : Nat) : (s.odSet i j v).epochs = s.epochs := rfl
@[simp] theorem State.odSet_lockReply (i j v : Nat) : (s.odSet i j v).lockReply = s.lockReply := rfl
@[simp] theorem State.odSet_slots (i j v : Nat) : (s.odSet i j v).slots = s.slots := rfl
@[simp] theorem State.odSet_heldReqs (i j v : Nat) : (s.odSet i j v).heldReqs = s.heldReqs := rfl
@[simp] theorem State.odSet_accepted (i j v : Nat) : (s.odSet i j v).accepted = s.accepted := rfl
@[simp] theorem State.odSet_nextAccept (i j v : Nat) : (s.odSet i j v).nextAccept = s.nextAccept := rfl
@[simp] theorem State.odSet_txns (i j v : Nat) : (s.odSet i j v).txns = s.txns := rfl
@[simp] theorem State.odSet_nextTag (i j v : Nat) : (s.odSet i j v).nextTag = s.nextTag := rfl
@[simp] theorem State.odSet_arrived (i j v : Nat) : (s.odSet i j v).arrived = s.arrived := rfl
@[simp] theorem State.odSet_routes (i j v : Nat) : (s.odSet i j v).routes = s.routes := rfl
@[simp] theorem State.odSet_badRoutes (i j v : Nat) : (s.odSet i j v).badRoutes = s.badRoutes := rfl
@[simp] theorem State.odSet_ports (i j v : Nat) : (s.odSet i j v).ports = s.ports := rfl
@[simp] theorem State.odSet_rx (i j v : Nat) : (s.odSet i j v).rx = s.rx := rfl
@[simp] theorem State.odSet_egress (i j v : Nat) : (s.odSet i j v).egress = s.egress := rfl
@[simp] theorem State.odSet_regionArb (i j v : Nat) : (s.odSet i j v).regionArb = s.regionArb := rfl
@[simp] theorem State.odSet_egressArb (i j v : Nat) : (s.odSet i j v).egressArb = s.egressArb := rfl
@[simp] theorem State.odSet_can (i j v : Nat) : (s.odSet i j v).can = s.can := rfl
@[simp] theorem State.odSet_mb0 (i j v : Nat) : (s.odSet i j v).mb0 = s.mb0 := rfl
@[simp] theorem State.odSet_mb1 (i j v : Nat) : (s.odSet i j v).mb1 = s.mb1 := rfl
@[simp] theorem State.odSet_mbOther (i j v : Nat) : (s.odSet i j v).mbOther = s.mbOther := rfl
@[simp] theorem State.odSet_canTx (i j v : Nat) : (s.odSet i j v).canTx = s.canTx := rfl
@[simp] theorem State.odSet_msix (i j v : Nat) : (s.odSet i j v).msix = s.msix := rfl
@[simp] theorem State.odSet_msixTable (i j v : Nat) : (s.odSet i j v).msixTable = s.msixTable := rfl
@[simp] theorem State.odSet_pba (i j v : Nat) : (s.odSet i j v).pba = s.pba := rfl
@[simp] theorem State.odSet_hostFns (i j v : Nat) : (s.odSet i j v).hostFns = s.hostFns := rfl
@[simp] theorem State.odSet_mgmtIn (i j v : Nat) : (s.odSet i j v).mgmtIn = s.mgmtIn := rfl
@[simp] theorem State.odSet_otp (i j v : Nat) : (s.odSet i j v).otp = s.otp := rfl
@[simp] theorem State.odSet_commit (i j v : Nat) : (s.odSet i j v).commit = s.commit := rfl
@[simp] theorem State.odSet_retained (i j v : Nat) : (s.odSet i j v).retained = s.retained := rfl
@[simp] theorem State.odSet_retainedBad (i j v : Nat) : (s.odSet i j v).retainedBad = s.retainedBad := rfl
@[simp] theorem State.odSet_fw (i j v : Nat) : (s.odSet i j v).fw = s.fw := rfl
@[simp] theorem State.odSet_clearing (i j v : Nat) : (s.odSet i j v).clearing = s.clearing := rfl
@[simp] theorem State.odSet_hbmStacks (i j v : Nat) : (s.odSet i j v).hbmStacks = s.hbmStacks := rfl
@[simp] theorem State.odSet_keys (i j v : Nat) : (s.odSet i j v).keys = s.keys := rfl
@[simp] theorem State.odSet_d2d (i j v : Nat) : (s.odSet i j v).d2d = s.d2d := rfl
@[simp] theorem State.odSet_netFails (i j v : Nat) : (s.odSet i j v).netFails = s.netFails := rfl
@[simp] theorem State.odSet_log (i j v : Nat) : (s.odSet i j v).log = s.log := rfl
@[simp] theorem State.odSet_diesFenced (i j v : Nat) : (s.odSet i j v).diesFenced = s.diesFenced := rfl
@[simp] theorem State.odSet_dmpBeats (i j v : Nat) : (s.odSet i j v).dmpBeats = s.dmpBeats := rfl
@[simp] theorem State.odSet_retest (i j v : Nat) : (s.odSet i j v).retest = s.retest := rfl
@[simp] theorem State.odSet_fences (i j v : Nat) : (s.odSet i j v).fences = s.fences := rfl
@[simp] theorem State.odSet_copyingWindows (i j v : Nat) : (s.odSet i j v).copyingWindows = s.copyingWindows := rfl
@[simp] theorem State.odSet_carried (i j v : Nat) : (s.odSet i j v).carried = s.carried := rfl
@[simp] theorem State.odSet_bounce (i j v : Nat) : (s.odSet i j v).bounce = s.bounce := rfl
@[simp] theorem State.odSet_timeUs (i j v : Nat) : (s.odSet i j v).timeUs = s.timeUs := rfl
@[simp] theorem State.odSet_regions (i j v : Nat) : (s.odSet i j v).regions = s.regions := rfl
@[simp] theorem State.odSet_power (i j v : Nat) : (s.odSet i j v).power = s.power := rfl
@[simp] theorem State.odSet_pins (i j v : Nat) : (s.odSet i j v).pins = s.pins := rfl
@[simp] theorem State.odSet_boot (i j v : Nat) : (s.odSet i j v).boot = s.boot := rfl
@[simp] theorem State.odSet_dbg (i j v : Nat) : (s.odSet i j v).dbg = s.dbg := rfl
@[simp] theorem State.odSet_freeCtr (i j v : Nat) : (s.odSet i j v).freeCtr = s.freeCtr := rfl

@[simp] theorem State.bump_pending (i j n : Nat) : (s.bump i j n).pending = s.pending := rfl
@[simp] theorem State.bump_mem (i j n : Nat) : (s.bump i j n).mem = s.mem := rfl
@[simp] theorem State.bump_host0 (i j n : Nat) : (s.bump i j n).host0 = s.host0 := rfl
@[simp] theorem State.bump_host1 (i j n : Nat) : (s.bump i j n).host1 = s.host1 := rfl
@[simp] theorem State.bump_bad (i j n : Nat) : (s.bump i j n).bad = s.bad := rfl
@[simp] theorem State.bump_poisoned (i j n : Nat) : (s.bump i j n).poisoned = s.poisoned := rfl
@[simp] theorem State.bump_hostBad (i j n : Nat) : (s.bump i j n).hostBad = s.hostBad := rfl
@[simp] theorem State.bump_td (i j n : Nat) : (s.bump i j n).td = s.td := rfl
@[simp] theorem State.bump_rings (i j n : Nat) : (s.bump i j n).rings = s.rings := rfl
@[simp] theorem State.bump_cmds (i j n : Nat) : (s.bump i j n).cmds = s.cmds := rfl
@[simp] theorem State.bump_ops (i j n : Nat) : (s.bump i j n).ops = s.ops := rfl
@[simp] theorem State.bump_cores (i j n : Nat) : (s.bump i j n).cores = s.cores := rfl
@[simp] theorem State.bump_counters (i j n : Nat) : (s.bump i j n).counters = s.counters := rfl
@[simp] theorem State.bump_tickets (i j n : Nat) : (s.bump i j n).tickets = s.tickets := rfl
@[simp] theorem State.bump_stale (i j n : Nat) : (s.bump i j n).stale = s.stale := rfl
@[simp] theorem State.bump_reissueWait (i j n : Nat) : (s.bump i j n).reissueWait = s.reissueWait := rfl
@[simp] theorem State.bump_alm (i j n : Nat) : (s.bump i j n).alm = s.alm := rfl
@[simp] theorem State.bump_groups (i j n : Nat) : (s.bump i j n).groups = s.groups := rfl
@[simp] theorem State.bump_sacs (i j n : Nat) : (s.bump i j n).sacs = s.sacs := rfl
@[simp] theorem State.bump_queues (i j n : Nat) : (s.bump i j n).queues = s.queues := rfl
@[simp] theorem State.bump_locks (i j n : Nat) : (s.bump i j n).locks = s.locks := rfl
@[simp] theorem State.bump_epochs (i j n : Nat) : (s.bump i j n).epochs = s.epochs := rfl
@[simp] theorem State.bump_lockReply (i j n : Nat) : (s.bump i j n).lockReply = s.lockReply := rfl
@[simp] theorem State.bump_slots (i j n : Nat) : (s.bump i j n).slots = s.slots := rfl
@[simp] theorem State.bump_heldReqs (i j n : Nat) : (s.bump i j n).heldReqs = s.heldReqs := rfl
@[simp] theorem State.bump_accepted (i j n : Nat) : (s.bump i j n).accepted = s.accepted := rfl
@[simp] theorem State.bump_nextAccept (i j n : Nat) : (s.bump i j n).nextAccept = s.nextAccept := rfl
@[simp] theorem State.bump_txns (i j n : Nat) : (s.bump i j n).txns = s.txns := rfl
@[simp] theorem State.bump_nextTag (i j n : Nat) : (s.bump i j n).nextTag = s.nextTag := rfl
@[simp] theorem State.bump_arrived (i j n : Nat) : (s.bump i j n).arrived = s.arrived := rfl
@[simp] theorem State.bump_routes (i j n : Nat) : (s.bump i j n).routes = s.routes := rfl
@[simp] theorem State.bump_badRoutes (i j n : Nat) : (s.bump i j n).badRoutes = s.badRoutes := rfl
@[simp] theorem State.bump_ports (i j n : Nat) : (s.bump i j n).ports = s.ports := rfl
@[simp] theorem State.bump_rx (i j n : Nat) : (s.bump i j n).rx = s.rx := rfl
@[simp] theorem State.bump_egress (i j n : Nat) : (s.bump i j n).egress = s.egress := rfl
@[simp] theorem State.bump_regionArb (i j n : Nat) : (s.bump i j n).regionArb = s.regionArb := rfl
@[simp] theorem State.bump_egressArb (i j n : Nat) : (s.bump i j n).egressArb = s.egressArb := rfl
@[simp] theorem State.bump_can (i j n : Nat) : (s.bump i j n).can = s.can := rfl
@[simp] theorem State.bump_mb0 (i j n : Nat) : (s.bump i j n).mb0 = s.mb0 := rfl
@[simp] theorem State.bump_mb1 (i j n : Nat) : (s.bump i j n).mb1 = s.mb1 := rfl
@[simp] theorem State.bump_mbOther (i j n : Nat) : (s.bump i j n).mbOther = s.mbOther := rfl
@[simp] theorem State.bump_canTx (i j n : Nat) : (s.bump i j n).canTx = s.canTx := rfl
@[simp] theorem State.bump_msix (i j n : Nat) : (s.bump i j n).msix = s.msix := rfl
@[simp] theorem State.bump_msixTable (i j n : Nat) : (s.bump i j n).msixTable = s.msixTable := rfl
@[simp] theorem State.bump_pba (i j n : Nat) : (s.bump i j n).pba = s.pba := rfl
@[simp] theorem State.bump_hostFns (i j n : Nat) : (s.bump i j n).hostFns = s.hostFns := rfl
@[simp] theorem State.bump_mgmtIn (i j n : Nat) : (s.bump i j n).mgmtIn = s.mgmtIn := rfl
@[simp] theorem State.bump_otp (i j n : Nat) : (s.bump i j n).otp = s.otp := rfl
@[simp] theorem State.bump_commit (i j n : Nat) : (s.bump i j n).commit = s.commit := rfl
@[simp] theorem State.bump_retained (i j n : Nat) : (s.bump i j n).retained = s.retained := rfl
@[simp] theorem State.bump_retainedBad (i j n : Nat) : (s.bump i j n).retainedBad = s.retainedBad := rfl
@[simp] theorem State.bump_fw (i j n : Nat) : (s.bump i j n).fw = s.fw := rfl
@[simp] theorem State.bump_clearing (i j n : Nat) : (s.bump i j n).clearing = s.clearing := rfl
@[simp] theorem State.bump_hbmStacks (i j n : Nat) : (s.bump i j n).hbmStacks = s.hbmStacks := rfl
@[simp] theorem State.bump_keys (i j n : Nat) : (s.bump i j n).keys = s.keys := rfl
@[simp] theorem State.bump_d2d (i j n : Nat) : (s.bump i j n).d2d = s.d2d := rfl
@[simp] theorem State.bump_netFails (i j n : Nat) : (s.bump i j n).netFails = s.netFails := rfl
@[simp] theorem State.bump_log (i j n : Nat) : (s.bump i j n).log = s.log := rfl
@[simp] theorem State.bump_diesFenced (i j n : Nat) : (s.bump i j n).diesFenced = s.diesFenced := rfl
@[simp] theorem State.bump_dmpBeats (i j n : Nat) : (s.bump i j n).dmpBeats = s.dmpBeats := rfl
@[simp] theorem State.bump_retest (i j n : Nat) : (s.bump i j n).retest = s.retest := rfl
@[simp] theorem State.bump_fences (i j n : Nat) : (s.bump i j n).fences = s.fences := rfl
@[simp] theorem State.bump_copyingWindows (i j n : Nat) : (s.bump i j n).copyingWindows = s.copyingWindows := rfl
@[simp] theorem State.bump_carried (i j n : Nat) : (s.bump i j n).carried = s.carried := rfl
@[simp] theorem State.bump_bounce (i j n : Nat) : (s.bump i j n).bounce = s.bounce := rfl
@[simp] theorem State.bump_timeUs (i j n : Nat) : (s.bump i j n).timeUs = s.timeUs := rfl
@[simp] theorem State.bump_regions (i j n : Nat) : (s.bump i j n).regions = s.regions := rfl
@[simp] theorem State.bump_power (i j n : Nat) : (s.bump i j n).power = s.power := rfl
@[simp] theorem State.bump_pins (i j n : Nat) : (s.bump i j n).pins = s.pins := rfl
@[simp] theorem State.bump_boot (i j n : Nat) : (s.bump i j n).boot = s.boot := rfl
@[simp] theorem State.bump_dbg (i j n : Nat) : (s.bump i j n).dbg = s.dbg := rfl
@[simp] theorem State.bump_freeCtr (i j n : Nat) : (s.bump i j n).freeCtr = s.freeCtr := rfl

@[simp] theorem State.setBit_pending (i j b : Nat) : (s.setBit i j b).pending = s.pending := rfl
@[simp] theorem State.setBit_mem (i j b : Nat) : (s.setBit i j b).mem = s.mem := rfl
@[simp] theorem State.setBit_host0 (i j b : Nat) : (s.setBit i j b).host0 = s.host0 := rfl
@[simp] theorem State.setBit_host1 (i j b : Nat) : (s.setBit i j b).host1 = s.host1 := rfl
@[simp] theorem State.setBit_bad (i j b : Nat) : (s.setBit i j b).bad = s.bad := rfl
@[simp] theorem State.setBit_poisoned (i j b : Nat) : (s.setBit i j b).poisoned = s.poisoned := rfl
@[simp] theorem State.setBit_hostBad (i j b : Nat) : (s.setBit i j b).hostBad = s.hostBad := rfl
@[simp] theorem State.setBit_td (i j b : Nat) : (s.setBit i j b).td = s.td := rfl
@[simp] theorem State.setBit_rings (i j b : Nat) : (s.setBit i j b).rings = s.rings := rfl
@[simp] theorem State.setBit_cmds (i j b : Nat) : (s.setBit i j b).cmds = s.cmds := rfl
@[simp] theorem State.setBit_ops (i j b : Nat) : (s.setBit i j b).ops = s.ops := rfl
@[simp] theorem State.setBit_cores (i j b : Nat) : (s.setBit i j b).cores = s.cores := rfl
@[simp] theorem State.setBit_counters (i j b : Nat) : (s.setBit i j b).counters = s.counters := rfl
@[simp] theorem State.setBit_tickets (i j b : Nat) : (s.setBit i j b).tickets = s.tickets := rfl
@[simp] theorem State.setBit_stale (i j b : Nat) : (s.setBit i j b).stale = s.stale := rfl
@[simp] theorem State.setBit_reissueWait (i j b : Nat) : (s.setBit i j b).reissueWait = s.reissueWait := rfl
@[simp] theorem State.setBit_alm (i j b : Nat) : (s.setBit i j b).alm = s.alm := rfl
@[simp] theorem State.setBit_groups (i j b : Nat) : (s.setBit i j b).groups = s.groups := rfl
@[simp] theorem State.setBit_sacs (i j b : Nat) : (s.setBit i j b).sacs = s.sacs := rfl
@[simp] theorem State.setBit_queues (i j b : Nat) : (s.setBit i j b).queues = s.queues := rfl
@[simp] theorem State.setBit_locks (i j b : Nat) : (s.setBit i j b).locks = s.locks := rfl
@[simp] theorem State.setBit_epochs (i j b : Nat) : (s.setBit i j b).epochs = s.epochs := rfl
@[simp] theorem State.setBit_lockReply (i j b : Nat) : (s.setBit i j b).lockReply = s.lockReply := rfl
@[simp] theorem State.setBit_slots (i j b : Nat) : (s.setBit i j b).slots = s.slots := rfl
@[simp] theorem State.setBit_heldReqs (i j b : Nat) : (s.setBit i j b).heldReqs = s.heldReqs := rfl
@[simp] theorem State.setBit_accepted (i j b : Nat) : (s.setBit i j b).accepted = s.accepted := rfl
@[simp] theorem State.setBit_nextAccept (i j b : Nat) : (s.setBit i j b).nextAccept = s.nextAccept := rfl
@[simp] theorem State.setBit_txns (i j b : Nat) : (s.setBit i j b).txns = s.txns := rfl
@[simp] theorem State.setBit_nextTag (i j b : Nat) : (s.setBit i j b).nextTag = s.nextTag := rfl
@[simp] theorem State.setBit_arrived (i j b : Nat) : (s.setBit i j b).arrived = s.arrived := rfl
@[simp] theorem State.setBit_routes (i j b : Nat) : (s.setBit i j b).routes = s.routes := rfl
@[simp] theorem State.setBit_badRoutes (i j b : Nat) : (s.setBit i j b).badRoutes = s.badRoutes := rfl
@[simp] theorem State.setBit_ports (i j b : Nat) : (s.setBit i j b).ports = s.ports := rfl
@[simp] theorem State.setBit_rx (i j b : Nat) : (s.setBit i j b).rx = s.rx := rfl
@[simp] theorem State.setBit_egress (i j b : Nat) : (s.setBit i j b).egress = s.egress := rfl
@[simp] theorem State.setBit_regionArb (i j b : Nat) : (s.setBit i j b).regionArb = s.regionArb := rfl
@[simp] theorem State.setBit_egressArb (i j b : Nat) : (s.setBit i j b).egressArb = s.egressArb := rfl
@[simp] theorem State.setBit_can (i j b : Nat) : (s.setBit i j b).can = s.can := rfl
@[simp] theorem State.setBit_mb0 (i j b : Nat) : (s.setBit i j b).mb0 = s.mb0 := rfl
@[simp] theorem State.setBit_mb1 (i j b : Nat) : (s.setBit i j b).mb1 = s.mb1 := rfl
@[simp] theorem State.setBit_mbOther (i j b : Nat) : (s.setBit i j b).mbOther = s.mbOther := rfl
@[simp] theorem State.setBit_canTx (i j b : Nat) : (s.setBit i j b).canTx = s.canTx := rfl
@[simp] theorem State.setBit_msix (i j b : Nat) : (s.setBit i j b).msix = s.msix := rfl
@[simp] theorem State.setBit_msixTable (i j b : Nat) : (s.setBit i j b).msixTable = s.msixTable := rfl
@[simp] theorem State.setBit_pba (i j b : Nat) : (s.setBit i j b).pba = s.pba := rfl
@[simp] theorem State.setBit_hostFns (i j b : Nat) : (s.setBit i j b).hostFns = s.hostFns := rfl
@[simp] theorem State.setBit_mgmtIn (i j b : Nat) : (s.setBit i j b).mgmtIn = s.mgmtIn := rfl
@[simp] theorem State.setBit_otp (i j b : Nat) : (s.setBit i j b).otp = s.otp := rfl
@[simp] theorem State.setBit_commit (i j b : Nat) : (s.setBit i j b).commit = s.commit := rfl
@[simp] theorem State.setBit_retained (i j b : Nat) : (s.setBit i j b).retained = s.retained := rfl
@[simp] theorem State.setBit_retainedBad (i j b : Nat) : (s.setBit i j b).retainedBad = s.retainedBad := rfl
@[simp] theorem State.setBit_fw (i j b : Nat) : (s.setBit i j b).fw = s.fw := rfl
@[simp] theorem State.setBit_clearing (i j b : Nat) : (s.setBit i j b).clearing = s.clearing := rfl
@[simp] theorem State.setBit_hbmStacks (i j b : Nat) : (s.setBit i j b).hbmStacks = s.hbmStacks := rfl
@[simp] theorem State.setBit_keys (i j b : Nat) : (s.setBit i j b).keys = s.keys := rfl
@[simp] theorem State.setBit_d2d (i j b : Nat) : (s.setBit i j b).d2d = s.d2d := rfl
@[simp] theorem State.setBit_netFails (i j b : Nat) : (s.setBit i j b).netFails = s.netFails := rfl
@[simp] theorem State.setBit_log (i j b : Nat) : (s.setBit i j b).log = s.log := rfl
@[simp] theorem State.setBit_diesFenced (i j b : Nat) : (s.setBit i j b).diesFenced = s.diesFenced := rfl
@[simp] theorem State.setBit_dmpBeats (i j b : Nat) : (s.setBit i j b).dmpBeats = s.dmpBeats := rfl
@[simp] theorem State.setBit_retest (i j b : Nat) : (s.setBit i j b).retest = s.retest := rfl
@[simp] theorem State.setBit_fences (i j b : Nat) : (s.setBit i j b).fences = s.fences := rfl
@[simp] theorem State.setBit_copyingWindows (i j b : Nat) : (s.setBit i j b).copyingWindows = s.copyingWindows := rfl
@[simp] theorem State.setBit_carried (i j b : Nat) : (s.setBit i j b).carried = s.carried := rfl
@[simp] theorem State.setBit_bounce (i j b : Nat) : (s.setBit i j b).bounce = s.bounce := rfl
@[simp] theorem State.setBit_timeUs (i j b : Nat) : (s.setBit i j b).timeUs = s.timeUs := rfl
@[simp] theorem State.setBit_regions (i j b : Nat) : (s.setBit i j b).regions = s.regions := rfl
@[simp] theorem State.setBit_power (i j b : Nat) : (s.setBit i j b).power = s.power := rfl
@[simp] theorem State.setBit_pins (i j b : Nat) : (s.setBit i j b).pins = s.pins := rfl
@[simp] theorem State.setBit_boot (i j b : Nat) : (s.setBit i j b).boot = s.boot := rfl
@[simp] theorem State.setBit_dbg (i j b : Nat) : (s.setBit i j b).dbg = s.dbg := rfl
@[simp] theorem State.setBit_freeCtr (i j b : Nat) : (s.setBit i j b).freeCtr = s.freeCtr := rfl

@[simp] theorem State.clearBit_pending (i j b : Nat) : (s.clearBit i j b).pending = s.pending := rfl
@[simp] theorem State.clearBit_mem (i j b : Nat) : (s.clearBit i j b).mem = s.mem := rfl
@[simp] theorem State.clearBit_host0 (i j b : Nat) : (s.clearBit i j b).host0 = s.host0 := rfl
@[simp] theorem State.clearBit_host1 (i j b : Nat) : (s.clearBit i j b).host1 = s.host1 := rfl
@[simp] theorem State.clearBit_bad (i j b : Nat) : (s.clearBit i j b).bad = s.bad := rfl
@[simp] theorem State.clearBit_poisoned (i j b : Nat) : (s.clearBit i j b).poisoned = s.poisoned := rfl
@[simp] theorem State.clearBit_hostBad (i j b : Nat) : (s.clearBit i j b).hostBad = s.hostBad := rfl
@[simp] theorem State.clearBit_td (i j b : Nat) : (s.clearBit i j b).td = s.td := rfl
@[simp] theorem State.clearBit_rings (i j b : Nat) : (s.clearBit i j b).rings = s.rings := rfl
@[simp] theorem State.clearBit_cmds (i j b : Nat) : (s.clearBit i j b).cmds = s.cmds := rfl
@[simp] theorem State.clearBit_ops (i j b : Nat) : (s.clearBit i j b).ops = s.ops := rfl
@[simp] theorem State.clearBit_cores (i j b : Nat) : (s.clearBit i j b).cores = s.cores := rfl
@[simp] theorem State.clearBit_counters (i j b : Nat) : (s.clearBit i j b).counters = s.counters := rfl
@[simp] theorem State.clearBit_tickets (i j b : Nat) : (s.clearBit i j b).tickets = s.tickets := rfl
@[simp] theorem State.clearBit_stale (i j b : Nat) : (s.clearBit i j b).stale = s.stale := rfl
@[simp] theorem State.clearBit_reissueWait (i j b : Nat) : (s.clearBit i j b).reissueWait = s.reissueWait := rfl
@[simp] theorem State.clearBit_alm (i j b : Nat) : (s.clearBit i j b).alm = s.alm := rfl
@[simp] theorem State.clearBit_groups (i j b : Nat) : (s.clearBit i j b).groups = s.groups := rfl
@[simp] theorem State.clearBit_sacs (i j b : Nat) : (s.clearBit i j b).sacs = s.sacs := rfl
@[simp] theorem State.clearBit_queues (i j b : Nat) : (s.clearBit i j b).queues = s.queues := rfl
@[simp] theorem State.clearBit_locks (i j b : Nat) : (s.clearBit i j b).locks = s.locks := rfl
@[simp] theorem State.clearBit_epochs (i j b : Nat) : (s.clearBit i j b).epochs = s.epochs := rfl
@[simp] theorem State.clearBit_lockReply (i j b : Nat) : (s.clearBit i j b).lockReply = s.lockReply := rfl
@[simp] theorem State.clearBit_slots (i j b : Nat) : (s.clearBit i j b).slots = s.slots := rfl
@[simp] theorem State.clearBit_heldReqs (i j b : Nat) : (s.clearBit i j b).heldReqs = s.heldReqs := rfl
@[simp] theorem State.clearBit_accepted (i j b : Nat) : (s.clearBit i j b).accepted = s.accepted := rfl
@[simp] theorem State.clearBit_nextAccept (i j b : Nat) : (s.clearBit i j b).nextAccept = s.nextAccept := rfl
@[simp] theorem State.clearBit_txns (i j b : Nat) : (s.clearBit i j b).txns = s.txns := rfl
@[simp] theorem State.clearBit_nextTag (i j b : Nat) : (s.clearBit i j b).nextTag = s.nextTag := rfl
@[simp] theorem State.clearBit_arrived (i j b : Nat) : (s.clearBit i j b).arrived = s.arrived := rfl
@[simp] theorem State.clearBit_routes (i j b : Nat) : (s.clearBit i j b).routes = s.routes := rfl
@[simp] theorem State.clearBit_badRoutes (i j b : Nat) : (s.clearBit i j b).badRoutes = s.badRoutes := rfl
@[simp] theorem State.clearBit_ports (i j b : Nat) : (s.clearBit i j b).ports = s.ports := rfl
@[simp] theorem State.clearBit_rx (i j b : Nat) : (s.clearBit i j b).rx = s.rx := rfl
@[simp] theorem State.clearBit_egress (i j b : Nat) : (s.clearBit i j b).egress = s.egress := rfl
@[simp] theorem State.clearBit_regionArb (i j b : Nat) : (s.clearBit i j b).regionArb = s.regionArb := rfl
@[simp] theorem State.clearBit_egressArb (i j b : Nat) : (s.clearBit i j b).egressArb = s.egressArb := rfl
@[simp] theorem State.clearBit_can (i j b : Nat) : (s.clearBit i j b).can = s.can := rfl
@[simp] theorem State.clearBit_mb0 (i j b : Nat) : (s.clearBit i j b).mb0 = s.mb0 := rfl
@[simp] theorem State.clearBit_mb1 (i j b : Nat) : (s.clearBit i j b).mb1 = s.mb1 := rfl
@[simp] theorem State.clearBit_mbOther (i j b : Nat) : (s.clearBit i j b).mbOther = s.mbOther := rfl
@[simp] theorem State.clearBit_canTx (i j b : Nat) : (s.clearBit i j b).canTx = s.canTx := rfl
@[simp] theorem State.clearBit_msix (i j b : Nat) : (s.clearBit i j b).msix = s.msix := rfl
@[simp] theorem State.clearBit_msixTable (i j b : Nat) : (s.clearBit i j b).msixTable = s.msixTable := rfl
@[simp] theorem State.clearBit_pba (i j b : Nat) : (s.clearBit i j b).pba = s.pba := rfl
@[simp] theorem State.clearBit_hostFns (i j b : Nat) : (s.clearBit i j b).hostFns = s.hostFns := rfl
@[simp] theorem State.clearBit_mgmtIn (i j b : Nat) : (s.clearBit i j b).mgmtIn = s.mgmtIn := rfl
@[simp] theorem State.clearBit_otp (i j b : Nat) : (s.clearBit i j b).otp = s.otp := rfl
@[simp] theorem State.clearBit_commit (i j b : Nat) : (s.clearBit i j b).commit = s.commit := rfl
@[simp] theorem State.clearBit_retained (i j b : Nat) : (s.clearBit i j b).retained = s.retained := rfl
@[simp] theorem State.clearBit_retainedBad (i j b : Nat) : (s.clearBit i j b).retainedBad = s.retainedBad := rfl
@[simp] theorem State.clearBit_fw (i j b : Nat) : (s.clearBit i j b).fw = s.fw := rfl
@[simp] theorem State.clearBit_clearing (i j b : Nat) : (s.clearBit i j b).clearing = s.clearing := rfl
@[simp] theorem State.clearBit_hbmStacks (i j b : Nat) : (s.clearBit i j b).hbmStacks = s.hbmStacks := rfl
@[simp] theorem State.clearBit_keys (i j b : Nat) : (s.clearBit i j b).keys = s.keys := rfl
@[simp] theorem State.clearBit_d2d (i j b : Nat) : (s.clearBit i j b).d2d = s.d2d := rfl
@[simp] theorem State.clearBit_netFails (i j b : Nat) : (s.clearBit i j b).netFails = s.netFails := rfl
@[simp] theorem State.clearBit_log (i j b : Nat) : (s.clearBit i j b).log = s.log := rfl
@[simp] theorem State.clearBit_diesFenced (i j b : Nat) : (s.clearBit i j b).diesFenced = s.diesFenced := rfl
@[simp] theorem State.clearBit_dmpBeats (i j b : Nat) : (s.clearBit i j b).dmpBeats = s.dmpBeats := rfl
@[simp] theorem State.clearBit_retest (i j b : Nat) : (s.clearBit i j b).retest = s.retest := rfl
@[simp] theorem State.clearBit_fences (i j b : Nat) : (s.clearBit i j b).fences = s.fences := rfl
@[simp] theorem State.clearBit_copyingWindows (i j b : Nat) : (s.clearBit i j b).copyingWindows = s.copyingWindows := rfl
@[simp] theorem State.clearBit_carried (i j b : Nat) : (s.clearBit i j b).carried = s.carried := rfl
@[simp] theorem State.clearBit_bounce (i j b : Nat) : (s.clearBit i j b).bounce = s.bounce := rfl
@[simp] theorem State.clearBit_timeUs (i j b : Nat) : (s.clearBit i j b).timeUs = s.timeUs := rfl
@[simp] theorem State.clearBit_regions (i j b : Nat) : (s.clearBit i j b).regions = s.regions := rfl
@[simp] theorem State.clearBit_power (i j b : Nat) : (s.clearBit i j b).power = s.power := rfl
@[simp] theorem State.clearBit_pins (i j b : Nat) : (s.clearBit i j b).pins = s.pins := rfl
@[simp] theorem State.clearBit_boot (i j b : Nat) : (s.clearBit i j b).boot = s.boot := rfl
@[simp] theorem State.clearBit_dbg (i j b : Nat) : (s.clearBit i j b).dbg = s.dbg := rfl
@[simp] theorem State.clearBit_freeCtr (i j b : Nat) : (s.clearBit i j b).freeCtr = s.freeCtr := rfl

theorem State.core_setCore (i j : Nat) (v : Core) : (s.setCore i v).core j = if i = j then v else s.core j := by
  simp [State.core, State.setCore, AMap.getD_set]

@[simp] theorem State.core_setCore_self (i : Nat) (v : Core) : (s.setCore i v).core i = v := by simp [State.core_setCore]

@[simp] theorem State.setCore_setCore (i : Nat) (v w : Core) : (s.setCore i v).setCore i w = s.setCore i w := by
  simp [State.setCore]

theorem State.ring_setRing (i j : Nat) (v : Ring) : (s.setRing i v).ring j = if i = j then v else s.ring j := by
  simp [State.ring, State.setRing, AMap.getD_set]

@[simp] theorem State.ring_setRing_self (i : Nat) (v : Ring) : (s.setRing i v).ring i = v := by simp [State.ring_setRing]

@[simp] theorem State.setRing_setRing (i : Nat) (v w : Ring) : (s.setRing i v).setRing i w = s.setRing i w := by
  simp [State.setRing]

theorem State.queue_setQueue (i j : Nat) (v : Queue) : (s.setQueue i v).queue j = if i = j then v else s.queue j := by
  simp [State.queue, State.setQueue, AMap.getD_set]

@[simp] theorem State.queue_setQueue_self (i : Nat) (v : Queue) : (s.setQueue i v).queue i = v := by simp [State.queue_setQueue]

@[simp] theorem State.setQueue_setQueue (i : Nat) (v w : Queue) : (s.setQueue i v).setQueue i w = s.setQueue i w := by
  simp [State.setQueue]

theorem State.slot_setSlot (i j : Nat) (v : Slot) : (s.setSlot i v).slot j = if i = j then v else s.slot j := by
  simp [State.slot, State.setSlot, AMap.getD_set]

@[simp] theorem State.slot_setSlot_self (i : Nat) (v : Slot) : (s.setSlot i v).slot i = v := by simp [State.slot_setSlot]

@[simp] theorem State.setSlot_setSlot (i : Nat) (v w : Slot) : (s.setSlot i v).setSlot i w = s.setSlot i w := by
  simp [State.setSlot]

theorem State.tdEntry_setTd (i j : Nat) (v : TdEntry) : (s.setTd i v).tdEntry j = if i = j then v else s.tdEntry j := by
  simp [State.tdEntry, State.setTd, AMap.getD_set]

@[simp] theorem State.tdEntry_setTd_self (i : Nat) (v : TdEntry) : (s.setTd i v).tdEntry i = v := by simp [State.tdEntry_setTd]

@[simp] theorem State.setTd_setTd (i : Nat) (v w : TdEntry) : (s.setTd i v).setTd i w = s.setTd i w := by
  simp [State.setTd]

theorem State.almEntry_setAlm (i j : Nat) (v : Alm) : (s.setAlm i v).almEntry j = if i = j then v else s.almEntry j := by
  simp [State.almEntry, State.setAlm, AMap.getD_set]

@[simp] theorem State.almEntry_setAlm_self (i : Nat) (v : Alm) : (s.setAlm i v).almEntry i = v := by simp [State.almEntry_setAlm]

@[simp] theorem State.setAlm_setAlm (i : Nat) (v w : Alm) : (s.setAlm i v).setAlm i w = s.setAlm i w := by
  simp [State.setAlm]

theorem State.sac_setSac (i j : Nat) (v : Sac) : (s.setSac i v).sac j = if i = j then v else s.sac j := by
  simp [State.sac, State.setSac, AMap.getD_set]

@[simp] theorem State.sac_setSac_self (i : Nat) (v : Sac) : (s.setSac i v).sac i = v := by simp [State.sac_setSac]

@[simp] theorem State.setSac_setSac (i : Nat) (v w : Sac) : (s.setSac i v).setSac i w = s.setSac i w := by
  simp [State.setSac]

theorem State.port_setPort (i j : Nat) (v : Port) : (s.setPort i v).port j = if i = j then v else s.port j := by
  simp [State.port, State.setPort, AMap.getD_set]

@[simp] theorem State.port_setPort_self (i : Nat) (v : Port) : (s.setPort i v).port i = v := by simp [State.port_setPort]

@[simp] theorem State.setPort_setPort (i : Nat) (v w : Port) : (s.setPort i v).setPort i w = s.setPort i w := by
  simp [State.setPort]

theorem State.lock_setLock (i j : Nat) (v : Lock) : (s.setLock i v).lock j = if i = j then v else s.lock j := by
  simp [State.lock, State.setLock, AMap.getD_set]

@[simp] theorem State.lock_setLock_self (i : Nat) (v : Lock) : (s.setLock i v).lock i = v := by simp [State.lock_setLock]

@[simp] theorem State.setLock_setLock (i : Nat) (v w : Lock) : (s.setLock i v).setLock i w = s.setLock i w := by
  simp [State.setLock]

theorem State.regionPower_setRegionPower (i j : Nat) (v : RegionPower) : (s.setRegionPower i v).regionPower j = if i = j then v else s.regionPower j := by
  simp [State.regionPower, State.setRegionPower, AMap.getD_set]

@[simp] theorem State.regionPower_setRegionPower_self (i : Nat) (v : RegionPower) : (s.setRegionPower i v).regionPower i = v := by simp [State.regionPower_setRegionPower]

@[simp] theorem State.setRegionPower_setRegionPower (i : Nat) (v w : RegionPower) : (s.setRegionPower i v).setRegionPower i w = s.setRegionPower i w := by
  simp [State.setRegionPower]

theorem State.stack_setStack (i j : Nat) (v : Stack) : (s.setStack i v).stack j = if i = j then v else s.stack j := by
  simp [State.stack, State.setStack, AMap.getD_set]

@[simp] theorem State.stack_setStack_self (i : Nat) (v : Stack) : (s.setStack i v).stack i = v := by simp [State.stack_setStack]

@[simp] theorem State.setStack_setStack (i : Nat) (v w : Stack) : (s.setStack i v).setStack i w = s.setStack i w := by
  simp [State.setStack]

theorem State.epoch_advanceEpoch (i j : Nat) : (s.advanceEpoch i).epoch j = if i = j then (s.epoch i + 1) % 256 else s.epoch j := by
  simp [State.epoch, State.advanceEpoch, AMap.getD_set]

end

end Sys2Proof.Machine
end

