-- ==== Sys2Proof/Tests/Slice0.lean ====
section
/-! SUPPORT. Tests on small states: each ill-formed term that WellFormed refuses, for the hypotheses of every statement a state that meets
them, and effects of commands worked out by hand from the spec. -/

namespace Sys2Proof.Tests

open Sys2Proof Sys2Proof.Machine

-- one theorem at a time: each is small, and many evaluated at once ask for more memory than one
set_option Elab.async false

-- ## States to test on

/-- A package that serves: region 0 and its first cores, the stacks of die 0, both host ports and link port 0 are ON. -/
def up : State :=
  let s := { State.reset with boot := .ready, pins := { ready := true, sysReset := false, perst0 := false, perst1 := false } }
  let s := (List.range 9).foldl (fun s n => s.setFn .core n 2) s
  let s := (s.setFn .region 0 2).setFn .stack 0 2
  ((s.setFn .stack 1 2).setFn .host 0 2).setFn .link 0 2

/-- Ring 0 runs, in package memory. -/
def ringUp : Ring := { cmdLog2 := 4, cplLog2 := 4, cmdBase := 0x0000000000100000, cplBase := 0x0000000000200000, st := .running, en := true }

/-- A command at position 0 of ring 0, with the bits of its entry. -/
def cmdOf (ph : Phase) (entry : Nat) : Cmd := { r := 0, p := 0, entry := BitVec.ofNat 1024 entry, phase := ph }

/-- The package with one command outstanding. -/
def withCmd (ph : Phase) (entry : Nat) : State := { up.setRing 0 { ringUp with head := 1, tail := 1 } with cmds := [cmdOf ph entry] }

/-- The address of byte `o` of region 0's memory. -/
def reg (o : Nat) : Nat := 2 ^ 48 + o

/-- A 64-byte line of a number. -/
def line (v : Nat) : Line := BitVec.ofNat 512 v

/-- Whether a command answers a next state that passes a test. -/
def gives (i : Instr) (s : State) (f : State → Bool) : Bool := match exec i s with | .next t => f t | _ => false

/-- Whether a command answers exactly a state. -/
def becomes (i : Instr) (s t : State) : Bool := gives i s (· == t)

/-- A descriptor's image (R45): format, rank, LAYOUT and WR, two extents, the stride of dimension 1, BASE in region 0's memory. -/
def img (fmt rank tiled e0 e1 s1 off len : Nat) : Nat :=
  fmt + rank * 2 ^ 8 + tiled * 2 ^ 11 + 2 ^ 16 + (if 1 < rank then 2 ^ 35 else 0) + reg off * 2 ^ 96 + off * 2 ^ 160 + len * 2 ^ 208
    + e0 * 2 ^ 256 + (1 - tiled) * 2 ^ 320 + e1 * 2 ^ 384 + s1 * 2 ^ 448

/-- A state whose descriptor entries 1, 2, … of die 0 are live in partition 0, with images; the handle of entry i is i. -/
def tensors (imgs : List Nat) (s : State) : State :=
  { s with td := imgs.zipIdx.map fun x => (x.2 + 1, { st := .live, gen := 0, used := true, image := BitVec.ofNat 1024 x.1 }) }

/-- A MATMUL of INT8 operands of 1 × 1 into an INT32 store in wide mode: one tile, handles 1, 2 and 3, BEGIN and END; with other bits. -/
def mmEntry (rest : Nat) : Nat := 0x10 + (1 + 2 * 2 ^ 20 + 3 * 2 ^ 40 + 3 * 2 ^ 100 + 2 ^ 280 + rest) * 2 ^ 256

/-- Its tensors: A at 0x1000, B at 0x2000, C at 0x3000. -/
def mmTensors (s : State) : State :=
  tensors [img 0x02 2 0 1 1 16 0x1000 16, img 0x02 2 0 1 1 16 0x2000 16, img 0x04 2 0 1 1 16 0x3000 16] s

/-- The MATMUL outstanding in a phase. -/
def mm (ph : Phase) (rest : Nat) : State := mmTensors (withCmd ph (mmEntry rest))

def mmCmd (ph : Phase) (rest : Nat) : Cmd := cmdOf ph (mmEntry rest)

/-- PIN = 1 on core 1. -/
def pin1 : Nat := 2 ^ 112 + 2 ^ 113

/-- The route of package 1 is port 0 of die 0. -/
def routed0 (s : State) : State := { s with routes := [(1, 0x8000)] }

/-- A unit of core 0, its first tile. -/
def chunk0 : WorkUnit := { id := 0, r := 0, p := 0, index := 0, ticket := some 7 }

-- ## The block

theorem test_step_front : ({ up with pending := [.heartbeat, .fwVerify] } : State).pending = .heartbeat :: [.fwVerify] := by decide
theorem test_step_idle : State.reset.pending = [] := by decide
theorem test_step_next : State.reset.memWf = true ∧ step State.reset = .next State.reset := ⟨by decide, rfl⟩
theorem test_exec_next : becomes (.lockTest .dmp 0 0) up { up with lockReply := (0, 0) } = true := by decide +kernel
theorem test_wf_ok : Instr.wf (.cmdDb 511 32 0) = true ∧ Instr.wf (.cmdDb 512 32 0) = false := by decide

-- ## Rings

def running0 : State := up.setRing 0 ringUp

theorem test_doorbell_running : 0 < 512 ∧ (running0.ring 0).st = .running ∧ (16 : Nat) ≠ 32 := by decide +kernel
theorem test_cmdDb_accepts : becomes (.cmdDb 0 32 16) running0 (running0.setRing 0 { ringUp with tail := 16 }) = true := by decide +kernel
theorem test_cmdDb_refuses : gives (.cmdDb 0 32 17) running0 (fun t => (t.ring 0).st == .error && (t.ring 0).err == 5) = true := by
  decide +kernel
theorem test_cplDb_refuses : gives (.cplDb 0 32 1) running0 (fun t => (t.ring 0).st == .error && (t.ring 0).err == 6) = true := by
  decide +kernel

/-- A control block with CMD_LOG2 and CPL_LOG2 of 4 and EN = 1, at two bases. -/
def cbOf (cmd cpl : Nat) (rest : Nat) : BitVec 512 := BitVec.ofNat 512 (cmd * 2 ^ 448 + cpl * 2 ^ 384 + 4 * 2 ^ 13 + 4 * 2 ^ 8 + 1 + rest)

theorem test_enable_idle : (up.ring 0).en = false ∧ (up.ring 0).st ≠ .draining ∧ up.regionPart 0 = some 0 := by decide +kernel
theorem test_enable_absent : ∀ rr, rr < 16 → up.regionPart rr ≠ some (448 / 64) := by decide +kernel
theorem test_enable_absent_idle : (up.ring 448).en = false ∧ (up.ring 448).st ≠ .draining := by decide +kernel
theorem test_enable_cause1 : gives (.ringEnable 448 (cbOf 0x100000 0x200000 0)) up (fun t => (t.ring 448).err == 1) = true := by decide +kernel
theorem test_enable_cause2 : gives (.ringEnable 0 (BitVec.ofNat 512 (0x100000 * 2 ^ 448 + 0x200000 * 2 ^ 384 + 4 * 2 ^ 13 + 3 * 2 ^ 8 + 1))) up
    (fun t => (t.ring 0).err == 2 && (t.ring 0).st == .disabled) = true := by decide +kernel
theorem test_enable_cause3 : gives (.ringEnable 0 (cbOf 0x100800 0x200000 0)) up (fun t => (t.ring 0).err == 3) = true := by decide +kernel
theorem test_enable_cause4 : gives (.ringEnable 0 (cbOf 0x100000 0x200000 2)) up (fun t => (t.ring 0).err == 4) = true := by decide +kernel
theorem test_enable_runs : becomes (.ringEnable 0 (cbOf 0x100000 0x200000 0)) up (up.setRing 0 ringUp) = true := by decide +kernel

theorem test_disable_enabled : (running0.ring 0).en = true := by decide +kernel

def draining0 (cmds : List Cmd) : State := { up.setRing 0 { ringUp with st := .draining, en := false } with cmds := cmds }

theorem test_drain_empty : ((draining0 []).ring 0).st = .draining ∧ ∀ c ∈ (draining0 []).cmds, c.r ≠ 0 := by decide +kernel
theorem test_drain_waits : ((draining0 [cmdOf .taken 0x40]).ring 0).st = .draining ∧ ∃ c ∈ (draining0 [cmdOf .taken 0x40]).cmds, c.r = 0 := by
  decide +kernel

/-- Ring 0 with one entry waiting, whose bits stand in memory. -/
def takeable (entry : Nat) : State := { up.setRing 0 { ringUp with tail := 1 } with mem := Mem.writeNat [] 0x100000 entry 128 }

theorem test_take_hyps : ((takeable 0x40).ring 0).st = .running ∧ ((takeable 0x40).ring 0).loc = 0
    ∧ ((takeable 0x40).ring 0).head ≠ ((takeable 0x40).ring 0).tail
    ∧ ((((takeable 0x40).ring 0).head : Int) - ((takeable 0x40).ring 0).cplTail) % 2 ^ 32 < 256
    ∧ ((((takeable 0x40).ring 0).head : Int) - ((takeable 0x40).ring 0).cplHead) % 2 ^ 32 < 2 ^ ((takeable 0x40).ring 0).cplLog2
    ∧ (takeable 0x40).clearingIn (memKey 0x100000) 128 = false ∧ (takeable 0x40).powered 0x100000 = true
    ∧ (takeable 0x40).badIn (memKey 0x100000) 128 = none := by decide +kernel
theorem test_take_ok : gives (.entryTake 0) (takeable 0x40) (fun t => (t.ring 0).head == 1 && t.cmds == [cmdOf .taken 0x40]) = true := by decide +kernel
theorem test_take_unknown : gives (.entryTake 0) (takeable 0x70) (fun t => t.cmds.map (·.err) == [some { code := 0x0108, dkind := 7 }]) = true := by
  decide +kernel

-- an entry in another package's memory, and one in a stack that is OFF
theorem test_take_lost : let s := (takeable 0x40).setRing 0 { ringUp with tail := 1, cmdBase := 2 ^ 52 + 0x100000 }
    let u := (takeable 0x40).setFn .stack 0 0
    (s.foreign (2 ^ 52 + 0x100000) = true ∧ s.clearingIn (memKey (2 ^ 52 + 0x100000)) 128 = false ∧ s.badIn (memKey (2 ^ 52 + 0x100000)) 128 = none)
    ∧ (u.foreign 0x100000 = false ∧ u.powered 0x100000 = false)
    ∧ gives (.entryTake 0) s (fun t => (t.ring 0).st == .error && (t.ring 0).err == 7 && t.cmds == []) = true
    ∧ gives (.entryTake 0) u (fun t => (t.ring 0).err == 7 && t.odGet 0x4300 1 == 2 ^ 4) = true := by decide +kernel

/-- Ring 0 in the memory of host port 0, whose one entry stands there. -/
def takeableHost : State := { up.setRing 0 { ringUp with tail := 1, loc := 1 } with host0 := Mem.writeNat [] 0x100000 0x40 128 }
theorem test_take_host : takeableHost.portUp 0 = true ∧ takeableHost.hostBadIn 0 0x100000 128 = none
    ∧ gives (.entryTake 0) takeableHost (fun t => (t.ring 0).head == 1 && t.cmds == [cmdOf .taken 0x40]) = true
    ∧ gives (.entryTake 0) (takeableHost.setFn .host 0 0) (fun t => (t.ring 0).st == .error && (t.ring 0).err == 7) = true := by decide +kernel

-- a WORK_GRID with an all-zero body
theorem test_start_ok : (withCmd .taken 0x40).cmd 0 0 = some (cmdOf .taken 0x40) ∧ (withCmd .taken 0x40).mayStart (cmdOf .taken 0x40) = true
    ∧ ¬ ∃ q ∈ (cmdOf .taken 0x40).deps, q ∈ ((withCmd .taken 0x40).ring 0).failed := by decide +kernel
theorem test_start_valid : (withCmd .taken 0x40).validate (cmdOf .taken 0x40) = none := by decide +kernel
theorem test_start_refused : ((withCmd .taken (0x40 + 2 ^ 256)).validate (cmdOf .taken (0x40 + 2 ^ 256))).map (·.code) = some 0x0114
    ∧ (withCmd .taken (0x40 + 2 ^ 256)).cmd 0 0 = some (cmdOf .taken (0x40 + 2 ^ 256)) := by decide +kernel

/-- A command at position 0 of ring 0 that depends on the entry one before it, which ended in error. -/
def afterFailure (entry : Nat) : State :=
  { up.setRing 0 { ringUp with head := 1, tail := 1, failed := [0xFFFFFFFF], seen := 1 } with cmds := [cmdOf .taken (entry + 2 ^ 192)] }

theorem test_start_dep : (cmdOf .taken (0x40 + 2 ^ 192)).deps = [0xFFFFFFFF] ∧ (afterFailure 0x40).mayStart (cmdOf .taken (0x40 + 2 ^ 192)) = true
    ∧ (∃ q ∈ (cmdOf .taken (0x40 + 2 ^ 192)).deps, q ∈ ((afterFailure 0x40).ring 0).failed)
    ∧ (afterFailure 0x40).validate (cmdOf .taken (0x40 + 2 ^ 192)) = none := by decide +kernel
theorem test_start_skip : (∃ q ∈ (cmdOf .taken (0x840 + 2 ^ 192)).deps, q ∈ ((afterFailure 0x840).ring 0).failed)
    ∧ bitOf (cmdOf .taken (0x840 + 2 ^ 192)).entry.toNat 11 = true
    ∧ gives (.commandStart 0 0) (afterFailure 0x840) (fun t => t.cmds.map (·.err) == [some { code := 0x0117 }]) = true := by decide +kernel

theorem test_complete_hyps : (withCmd .ended 0x40).cmd 0 0 = some (cmdOf .ended 0x40) ∧ (withCmd .ended 0x40).op 0 0 = none
    ∧ ((withCmd .ended 0x40).ring 0).loc = 0 ∧ (withCmd .ended 0x40).memWf = true ∧ (withCmd .ended 0x40).onTheWay 0 0 = false
    ∧ (withCmd .ended 0x40).clearingIn (memKey 0x200000) 32 = false := by decide +kernel
theorem test_complete_record : gives (.commandComplete 0 0) (withCmd .ended 0x40)
    (fun t => Mem.readNat t.mem 0x200000 32 == 0x140 && (t.ring 0).cplTail == 1 && t.cmds == []) = true := by decide +kernel


/-- A ring that raises vector 3 on its records' port, of a command with IRQ = 1. -/
def irqEnd : State := { up.setRing 0 { ringUp with head := 1, tail := 1, irqEn := true, msix := 3 } with cmds := [cmdOf .ended 0x440] }
theorem test_complete_irq : irqEnd.cmd 0 0 = some (cmdOf .ended 0x440) ∧ (irqEnd.ring 0).irqEn = true ∧ bitOf (cmdOf .ended 0x440).entry.toNat 10 = true
    ∧ (irqEnd.ring 0).irqPort ≤ 3 ∧ gives (.commandComplete 0 0) irqEnd (fun t => t.msix == [⟨0, 1, 3⟩] || t.pba == [⟨0, 1, 3⟩]) = true := by decide +kernel

-- ## Descriptors

/-- A TD_CREATE of an image at the start of region 0's memory. -/
def creating (image : Nat) : State :=
  { withCmd .started (0x01 + reg 0 * 2 ^ 256) with mem := Mem.writeNat [] (reg 0) image 128 }

def createCmd : Cmd := cmdOf .started (0x01 + reg 0 * 2 ^ 256)

theorem test_create_holds : (creating (img 0x02 1 0 16 0 0 0x1000 16)).cmd 0 0 = some createCmd ∧ createCmd.entry.toNat % 256 = 0x01 := by decide +kernel
theorem test_create_ok : (creating (img 0x02 1 0 16 0 0 0x1000 16)).tdCreateErr createCmd = none := by decide +kernel
theorem test_create_free : ((creating (img 0x02 1 0 16 0 0 0x1000 16)).tdEntry 65535).st = .free := by decide +kernel
-- an extent of 0 is refused with 0x0103
theorem test_create_refused : (creating (img 0x02 1 0 0 0 0 0x1000 16)).tdCreateErr createCmd = some { code := 0x0103, dkind := 8, detail := 8 } := by
  decide +kernel

/-- Every descriptor entry of die 0 is live. -/
@[irreducible] def fullTable : AMap TdEntry := (List.range 65536).map fun i => (i, { st := .live })

theorem find_range_map {α : Type} (v : α) (n i : Nat) (h : i < n) : AMap.find ((List.range n).map fun k => (k, v)) i = some v := by
  have key : ∀ l : List Nat, i ∈ l → AMap.find (l.map fun k => (k, v)) i = some v := by
    intro l
    induction l with
    | nil => intro hm; cases hm
    | cons a l ih =>
      intro hm
      rw [List.map_cons, AMap.find_cons]
      by_cases ha : a = i
      · simp [ha]
      · have : i ∈ l := by
          rcases List.mem_cons.mp hm with rfl | h'
          · exact absurd rfl ha
          · exact h'
        simp [ha, ih this]
  exact key _ (List.mem_range.mpr h)

def creatingFull : State := { creating (img 0x02 1 0 16 0 0 0x1000 16) with td := fullTable }

theorem find_full (i : Nat) (hi : i < 65536) : AMap.find fullTable i = some { st := .live } := by
  unfold fullTable
  exact find_range_map _ 65536 i hi

theorem tdEntry_find (s : State) (i : Nat) (e : TdEntry) (h : AMap.find s.td i = some e) : s.tdEntry i = e := by
  unfold State.tdEntry AMap.getD
  rw [h]
  rfl

theorem full_live (s : State) (i : Nat) (hs : s.td = fullTable) (hi : i < 65536) : (s.tdEntry (0 * 65536 + i)).st ≠ .free := by
  rw [Nat.zero_mul, Nat.zero_add, tdEntry_find s i { st := .live } (by rw [hs]; exact find_full i hi)]
  decide
theorem test_create_full (i : Nat) (hi : i < 65536) : (creatingFull.tdEntry (0 * 65536 + i)).st ≠ .free :=
  full_live creatingFull i (by unfold creatingFull; rfl) hi
theorem test_create_full_ok : creatingFull.tdCreateErr createCmd = none ∧ creatingFull.cmd 0 0 = some createCmd := by decide +kernel

/-- A TD_DESTROY of handle `h` of a table with one live entry, 1. -/
def destroying (ph : Phase) (h : Nat) : State := tensors [img 0x02 1 0 16 0 0 0x1000 16] (withCmd ph (0x02 + h * 2 ^ 256))

theorem test_destroy_live : ((destroying .started 1).tdEntry 1).st = .live ∧ ((destroying .started 1).tdEntry 1).gen = field 1 17 16
    ∧ ((destroying .started 1).tdEntry 1).part = 0 ∧ field (cmdOf .started (0x02 + 2 ^ 256)).entry.toNat 1023 276 = 0 := by decide +kernel
theorem test_destroy_stale : ((destroying .started 2).tdEntry 2).st ≠ .live ∧ (destroying .started 2).cmd 0 0 = some (cmdOf .started (0x02 + 2 * 2 ^ 256)) := by
  decide +kernel
theorem test_destroyDone_unused : (destroying .running 1).handleUsed 1 = false := by decide +kernel
/-- Another command that has started names the handle. -/
def destroyHeld : State := { destroying .running 1 with cmds := [cmdOf .running (0x02 + 2 ^ 256), { cmdOf .running (0x10 + 2 ^ 256) with p := 1 }] }
theorem test_destroyDone_used : destroyHeld.handleUsed 1 = true ∧ destroyHeld.cmd 0 0 = some (cmdOf .running (0x02 + 2 ^ 256)) := by decide +kernel

-- ## Work distribution

theorem test_grid_ok : gives (.workGrid 0 0) (withCmd .started (0x40 + 3 * 2 ^ 384 + 2 * 2 ^ 376 + 1 * 2 ^ 368))
    (fun t => (t.ring 0).grid == { cores := 3, gm := 2, gn := 1, steal := 0, order := 0, cool := false }) = true := by decide +kernel
-- GM × GN of 3 on two cores
theorem test_grid_refused : ((List.range 128).filter fun k => bitOf 3 k).length < 3 * 1 ∧
    gives (.workGrid 0 0) (withCmd .started (0x40 + 3 * 2 ^ 384 + 3 * 2 ^ 376 + 1 * 2 ^ 368)) (fun t => t.cmds.map (·.phase) == [.ended] && (t.ring 0).grid == {}) = true := by
  decide +kernel

theorem test_mm_valid : (mm .started 0).matmulErr (mmCmd .started 0) = none ∧ (mm .started pin1).matmulErr (mmCmd .started pin1) = none := by
  decide +kernel
theorem test_mm_begins : ((mm .started 0).holdInputs 0 0 ((mm .started 0).mmInputs (mmCmd .started 0) (Chain.none_ 0))).2 = true
    ∧ (mmCmd .started 0).pin = false ∧ (mmCmd .started 0).hasChain = false
    ∧ ∃ k ∈ (mm .started 0).gridCores 0 0, (mm .started 0).assigned k = true := by decide +kernel
theorem test_mm_chainless : (mm .started 0).almHeld 0 (Chain.none_ 0) = false ∧ (mm .started 0).almLost 0 (Chain.none_ 0) = none := by decide +kernel
theorem test_mm_op : gives (.matmul 0 0) (mm .started 0)
    (fun t => t.ops.map (fun o => (o.cores.length, o.gm, o.gn, o.blocks.map (·.size))) == [(128, 1, 1, [1])]) = true := by decide +kernel
theorem test_mm_pinned : (mmCmd .started pin1).pin = true ∧ (mm .started pin1).assigned (mmCmd .started pin1).pinCore = true
    ∧ gives (.matmul 0 0) (mm .started pin1) (fun t => t.ops.map (·.pinned) == [some 1]) = true := by decide +kernel
/-- The core of the pinned MATMUL is OFF. -/
def mmPinnedOff : State := (mm .started pin1).setFn .core 1 0
theorem test_mm_pinned_off : mmPinnedOff.coreOff (mmCmd .started pin1).pinCore = true ∧ mmPinnedOff.assigned (mmCmd .started pin1).pinCore = true
    ∧ gives (.matmul 0 0) mmPinnedOff (fun t => t.cmds.map (fun c => c.err.map (·.code)) == [some 0x0807] && t.ops == []) = true := by decide +kernel
/-- The chain block of a MATMUL stands in another package, as 0x2001 now has it, or in this one. -/
def chained (a : Nat) : Nat := a * 2 ^ 128
theorem test_mm_chain : let s := mm .started (chained (2 ^ 52 + reg 0x8000))
    let u := mm .started (chained (reg 0x8000))
    ((mmCmd .started (chained (2 ^ 52 + reg 0x8000))).hasChain = true ∧ (s.chainLost (2 ^ 52 + reg 0x8000)).map (·.code) = some 0x0304)
    ∧ u.chainLost (reg 0x8000) = none
    ∧ gives (.matmul 0 0) s (fun t => t.cmds.map (fun c => c.err.map (·.code)) == [some 0x0304] && t.ops == []) = true
    ∧ gives (.matmul 0 0) u (fun t => t.ops.length == 1) = true := by decide +kernel
/-- A grid of core 0 alone, which carries no number. -/
def mmUnassigned : State := { (mm .started 0).setLogical 0 15 with cmds := [{ mmCmd .started 0 with grid := { cores := 1 } }] }
theorem test_mm_unassigned : (∀ k ∈ mmUnassigned.gridCores 0 1, mmUnassigned.assigned k = false)
    ∧ gives (.matmul 0 0) mmUnassigned (fun t => t.cmds.map (fun c => c.err.map (·.code)) == [some 0x0807]) = true := by decide +kernel

/-- A BAROMETER of FP4 weights and FP8 activations of 1 × 1 with its marks. -/
def baroEntry : Nat := 0x11 + (1 + 2 * 2 ^ 20 + 3 * 2 ^ 60) * 2 ^ 256
def baro : State := tensors [img 0x10 2 0 1 1 16 0x1000 16, img 0x11 2 0 1 1 16 0x2000 16, img 0x04 2 0 1 1 16 0x3000 16] (withCmd .started baroEntry)
theorem test_baro_begins : baro.baroErr (cmdOf .started baroEntry) = none
    ∧ (baro.holdInputs 0 0 (baro.mmInputs (cmdOf .started baroEntry) (Chain.none_ 0))).2 = true
    ∧ gives (.barometer 0 0) baro (fun t => t.ops.map (fun o => (o.gm, o.gn)) == [(1, 1)]) = true := by decide +kernel

/-- The MATMUL running on a grid of cores 0 and 1 of which core 0 has the one block; its counter, the index next handed out, the block's size. -/
def mmOp (ctr : Option Nat) (next size : Nat) : Op :=
  { r := 0, p := 0, cores := [0, 1], gm := 1, gn := 1, tM := 1, tN := 1, blocks := [{ g := 0, region := 0, ctr := ctr, next := next, size := size }] }

def running (o : Op) (s : State) : State :=
  { (s.setCore 0 { shares := [{ r := 0, p := 0, s := 128, d := 2, units := 128 }] }).setCore 1
      { shares := [{ r := 0, p := 0, s := 128, d := 2, units := 128 }] } with ops := [o] }

theorem test_counter_free : (mm .running 0).op 0 0 = none ∧ (running (mmOp none 0 1) (mm .running 0)).op 0 0 = some (mmOp none 0 1)
    ∧ ((mmOp none 0 1).blocks.find? fun x => x.g == 0) = some { g := 0, region := 0, size := 1 }
    ∧ (0, 4095) ∉ (running (mmOp none 0 1) (mm .running 0)).counters := by decide +kernel
theorem test_counter_alloc : gives (.workCounterAlloc 0 0 0) (running (mmOp none 0 1) (mm .running 0))
    (fun t => t.counters.length == 1 && t.freeCtr == 1) = true := by decide +kernel

/-- The MATMUL running with no share on core 0 yet. -/
def unstaged (k : Core) : State := { (mm .running 0).setCore 0 k with ops := [mmOp (some 5) 0 1] }
theorem test_staging_hyps : (unstaged {}).coreOn 0 = true ∧ 0 ∈ (mmOp (some 5) 0 1).cores ∧ ∀ h ∈ ((unstaged {}).core 0).shares, ¬ (h.r = 0 ∧ h.p = 0) := by
  decide +kernel
-- need(128, 2) of an INT8 pair is 2 × (16,384 + 16,384) bytes, 256 units
theorem test_staging_share : gives (.stagingShareAlloc 0 0 0) (unstaged {})
    (fun t => (t.core 0).shares == [{ r := 0, p := 0, s := 128, d := 2, units := 256 }]) = true := by decide +kernel
/-- Another op holds all of the core's staging. -/
def fullStaging : Core := { shares := [{ r := 1, p := 0, s := 128, d := 2, units := 8192 }] }
theorem test_staging_none : ((unstaged fullStaging).core 0).stagingFree = 0
    ∧ becomes (.stagingShareAlloc 0 0 0) (unstaged fullStaging) (unstaged fullStaging) = true := by decide +kernel

/-- What a claim needs of the running MATMUL. -/
def claiming (o : Op) : State := running o (mm .running 0)
theorem test_claim_hyps : (claiming (mmOp (some 5) 0 1)).runningOp 0 0 = some (mmOp (some 5) 0 1) ∧ (claiming (mmOp (some 5) 0 1)).mayClaim 0 (mmOp (some 5) 0 1) = true
    ∧ (0, 0) ∉ ((claiming (mmOp (some 5) 0 1)).core 0).stealHold ∧ (mmOp (some 5) 0 1).homeOf 0 = some 0 := by decide +kernel
-- ticket: index 0, counter 5, region 0, epoch 0
theorem test_claim_new : gives (.tileClaim 0 0 0) (claiming (mmOp (some 5) 0 1))
    (fun t => t.tickets == [(0, 0, BitVec.ofNat 72 (5 * 2 ^ 48))] && (t.core 0).units.map (·.index) == [0]) = true := by decide +kernel
/-- The block has an index that a fence returned. -/
def mmReissue : Op := { mmOp (some 5) 1 1 with blocks := [{ g := 0, region := 0, ctr := some 5, next := 1, size := 1, reissue := [(0, 1)] }] }
theorem test_claim_reissue : (claiming mmReissue).runningOp 0 0 = some mmReissue ∧ (claiming mmReissue).mayClaim 0 mmReissue = true
    ∧ gives (.tileClaim 0 0 0) (claiming mmReissue) (fun t => t.tickets == [(0, 0, BitVec.ofNat 72 (5 * 2 ^ 48 + 2 ^ 64))]) = true := by decide +kernel

/-- Region 0 at 96 °C, above the hold temperature of 95 °C. -/
def hot (s : State) : State := s.setRegionPower 0 { temps := [(0, 96000)] }
/-- A running MATMUL whose one block is core 0's; core 1 may steal from it. -/
def stealable : Op := mmOp (some 5) 0 1
theorem test_steal_hot : (hot (claiming stealable)).runningOp 0 0 = some stealable ∧ (hot (claiming stealable)).stealOrder stealable 1 = [0]
    ∧ (hot (claiming stealable)).stealHot 1 = true ∧ (0, 0) ∉ ((hot (claiming stealable)).core 1).stealHold ∧ stealable.grid.cool = true
    ∧ gives (.tileClaim 1 0 0) (hot (claiming stealable)) (fun t => (t.core 1).stealHold == [(0, 0)] && (t.core 1).units == []) = true := by decide +kernel
/-- Core 1 has a block of its own, which is exhausted. -/
def exhausted : Op :=
  { mmOp (some 5) 0 1 with gm := 2, blocks := [{ g := 0, region := 0, ctr := some 5, size := 1 }, { g := 1, region := 0, ctr := some 6, next := 1, size := 1 }] }
theorem test_steal_own_empty : (hot (claiming exhausted)).runningOp 0 0 = some exhausted ∧ (hot (claiming exhausted)).mayClaim 1 exhausted = true
    ∧ exhausted.homeOf 1 = some 1 ∧ (hot (claiming exhausted)).stealOrder exhausted 1 = [0]
    ∧ (exhausted.blocks.find? fun x => x.g == 1) = some { g := 1, region := 0, ctr := some 6, next := 1, size := 1 } := by decide +kernel
/-- The hot core has waited. -/
def waited : State := let s := hot (claiming stealable); s.setCore 1 { s.core 1 with stealHold := [(0, 0)] }
theorem test_steal_expiry : waited.runningOp 0 0 = some stealable ∧ waited.mayClaim 1 stealable = true ∧ (0, 0) ∈ (waited.core 1).stealHold
    ∧ waited.stealOrder stealable 1 = [0]
    ∧ gives (.stealHoldExpiry 1 0 0) waited (fun t => (t.core 1).units.map (·.index) == [0] && t.odGet 0x5131 2 == 1) = true := by decide +kernel
/-- The MATMUL pinned to core 1. -/
def pinnedRun : Op := { r := 0, p := 0, cores := [1], tM := 1, tN := 1, blocks := [{ g := 0, region := 0, size := 1 }], pinned := some 1 }
theorem test_pinned_claim : (running pinnedRun (mm .running pin1)).runningOp 0 0 = some pinnedRun ∧ (running pinnedRun (mm .running pin1)).mayClaim 1 pinnedRun = true
    ∧ gives (.tileClaim 1 0 0) (running pinnedRun (mm .running pin1)) (fun t => (t.core 1).units.map (·.ticket) == [none] && t.tickets == []) = true := by
  decide +kernel

-- ## Ops that work in chunks

/-- A VCHAIN without stages over one FP32 element; its chain of zeros stands at 0x8000 of region 0's memory. -/
def vcEntry : Nat := 0x12 + (1 + 2 * 2 ^ 40 + reg 0x8000 * 2 ^ 192) * 2 ^ 256
def vc (ph : Phase) : State :=
  { tensors [img 0x15 1 0 1 0 0 0x1000 16, img 0x15 1 0 1 0 0 0x2000 16] (withCmd ph vcEntry) with mem := Mem.writeNat [] (reg 0x1000) 0x3F800000 4 }

/-- A GATHER, SCATTER or SCATTER_ADD of two FP32 elements by the indices 3 and 1; SRC at 0x1000, DST at 0x2000, IDX at 0x3000, TAG at 0x4000. -/
def gEntry (op rest : Nat) : Nat := op + (1 + 2 * 2 ^ 20 + 3 * 2 ^ 40 + rest) * 2 ^ 256
def gathering (ph : Phase) (op rest : Nat) : State :=
  let n (indexed : Bool) : Nat := if indexed then 4 else 2
  { tensors [img 0x15 1 0 (n (op == 0x20)) 0 0 0x1000 16, img 0x15 1 0 (n (op != 0x20)) 0 0 0x2000 16 + (if op == 0x22 then 2 ^ 17 else 0),
      img 0x04 1 0 2 0 0 0x3000 16, img 0x04 1 0 4 0 0 0x4000 16] (withCmd ph (gEntry op rest)) with
    mem := Mem.writeNat (Mem.writeNat [] (reg 0x1000) (0x3F800000 + 0x40000000 * 2 ^ 32) 8) (reg 0x3000) (3 + 1 * 2 ^ 32) 8 }
/-- TAG is handle 4. -/
def tag4 : Nat := 4 * 2 ^ 66

/-- A COMPRESS_STORE of one INT8 element; the record's place is tiled, its SRC at 0x1000. -/
def csEntry : Nat := 0x24 + (1 + 2 * 2 ^ 20 + 31 * 2 ^ 99) * 2 ^ 256
def compressing (ph : Phase) : State :=
  tensors [img 0x02 2 0 1 1 16 0x1000 16, img 0x02 2 1 1 1 0 0x10000 0x10000] (withCmd ph csEntry)

theorem test_vchain_valid : (vc .started).vchainErr (cmdOf .started vcEntry) = none := by decide +kernel
theorem test_vchain_begins : (vc .started).cmd 0 0 = some (cmdOf .started vcEntry) ∧ (vc .started).op 0 0 = none
    ∧ ((vc .started).holdInputs 0 0 ((vc .started).vInputs (cmdOf .started vcEntry) (Chain.of 0))).2 = true
    ∧ (vc .started).chainAt (cmdOf .started vcEntry).vChain = 0 ∧ (vc .started).almHeld 0 (Chain.of 0) = false
    ∧ (vc .started).almLost 0 (Chain.of 0) = none := by decide +kernel
theorem test_vchain_op : gives (.vchain 0 0 0) (vc .started) (fun t => t.ops.map (fun o => (o.tM, o.seq, o.blocks.length)) == [(1, true, 1)]) = true := by
  decide +kernel
theorem test_gather_begins : (gathering .started 0x20 0).gatherErr (cmdOf .started (gEntry 0x20 0)) = none
    ∧ ((gathering .started 0x20 0).holdInputs 0 0 ((gathering .started 0x20 0).gInputs (cmdOf .started (gEntry 0x20 0)))).2 = true
    ∧ (cmdOf .started (gEntry 0x20 0)).mergeOnly = false
    ∧ gives (.gather 0 0 0) (gathering .started 0x20 0) (fun t => t.ops.map (·.tM) == [1]) = true := by decide +kernel
theorem test_scatter_begins : (gathering .started 0x21 tag4).gatherErr (cmdOf .started (gEntry 0x21 tag4)) = none
    ∧ ((gathering .started 0x21 tag4).holdInputs 0 0 ((gathering .started 0x21 tag4).gInputs (cmdOf .started (gEntry 0x21 tag4)))).2 = true
    ∧ gives (.scatter 0 0 0) (gathering .started 0x21 tag4) (fun t => t.ops.map (·.tM) == [1]) = true := by decide +kernel
theorem test_scatterAdd_begins : (gathering .started 0x22 0).gatherErr (cmdOf .started (gEntry 0x22 0)) = none
    ∧ ((gathering .started 0x22 0).holdInputs 0 0 ((gathering .started 0x22 0).gInputs (cmdOf .started (gEntry 0x22 0)))).2 = true
    ∧ gives (.scatterAdd 0 0 0) (gathering .started 0x22 0) (fun t => t.ops.map (·.tM) == [1]) = true := by decide +kernel
theorem test_compress_begins : (compressing .started).compressErr (cmdOf .started csEntry) = none
    ∧ ((compressing .started).holdInputs 0 0 [tdDesc (compressing .started) 1]).2 = true
    ∧ gives (.compressStore 0 0 0) (compressing .started) (fun t => t.ops.map (·.tM) == [1]) = true := by decide +kernel

/-- A sequence op of one unit, which core 0 has claimed. -/
def seqOp : Op := { r := 0, p := 0, cores := [0, 1], tM := 1, blocks := [{ g := 0, region := 0, ctr := some 5, next := 1, size := 1 }], seq := true }
def chunking (s : State) : State := { s.setCore 0 { units := [chunk0], nextId := 1 } with ops := [seqOp], tickets := [(0, 0, 7)] }
def who0 : Who := ⟨0, 0, 0, 0⟩
/-- Whether a chunk computes, and all its records fit one part and the outbound queue of the core. -/
def computes (s : State) (x : Rd SlotOut) : Bool :=
  match x with | .ok x => (takePart 262144 (afterParts 0 x.recs)).2.isEmpty && (s.core 0).fits x.recs && !x.recs.isEmpty | .error _ => false

theorem test_chunk_held : (chunking (vc .running)).op 0 0 = some seqOp ∧ ((chunking (vc .running)).core 0).nextChunk 0 0 = some chunk0
    ∧ ((chunking (vc .running)).core 0).lastDrained = none ∧ (chunking (vc .running)).coreRuns 0 = true
    ∧ ((chunking (vc .running)).core 0).replayWaits chunk0 = false ∧ (chunking (vc .running)).odGet 0x3133 1 % 2 = 0 ∧ chunk0.rest = [] := by decide +kernel
theorem test_chunk_vchain : computes (chunking (vc .running)) ((chunking (vc .running)).vChunk (cmdOf .running vcEntry) seqOp chunk0 who0) = true := by
  decide +kernel
theorem test_chunk_gather : computes (chunking (gathering .running 0x20 0))
    ((chunking (gathering .running 0x20 0)).gatherChunk (cmdOf .running (gEntry 0x20 0)) seqOp chunk0 who0) = true := by decide +kernel
theorem test_chunk_scatter : computes (chunking (gathering .running 0x21 tag4))
    ((chunking (gathering .running 0x21 tag4)).scatterChunk (cmdOf .running (gEntry 0x21 tag4)) seqOp chunk0 who0) = true
    ∧ (chunking (gathering .running 0x21 tag4)).opQuiet seqOp = false := by decide +kernel
theorem test_chunk_scatterAdd : computes (chunking (gathering .running 0x22 0))
    ((chunking (gathering .running 0x22 0)).scatterAddChunk (cmdOf .running (gEntry 0x22 0)) seqOp chunk0 who0) = true := by decide +kernel
theorem test_chunk_compress : computes (chunking (compressing .running))
    ((chunking (compressing .running)).compressTile (cmdOf .running csEntry) seqOp chunk0 who0) = true := by decide +kernel
-- the record of the one element 1.0 goes to DST at 0x2000
theorem test_vchain_record : gives (.vchain 0 0 0) (chunking (vc .running)) (fun t => (t.core 0).outq.map (·.dest)
    == [.store (reg 0x2000) (line 0x3F800000) (BitVec.ofNat 128 0xFF)]) = true := by decide +kernel
-- positions 0 and 1 get elements 3 and 1 of SRC: 0 and 2.0
theorem test_gather_record : gives (.gather 0 0 0) (chunking (gathering .running 0x20 0)) (fun t => (t.core 0).outq.map (·.dest)
    == [.store (reg 0x2000) (line (0x40000000 * 2 ^ 32)) (BitVec.ofNat 128 0xFFFF)]) = true := by decide +kernel

-- a part that begins at position 1 moves that position alone, and is the chunk's last
theorem test_gather_part : (match (chunking (gathering .running 0x20 0)).gatherChunk (cmdOf .running (gEntry 0x20 0)) seqOp { chunk0 with sub := 1 } who0 with
    | .ok x => x.next == 0 && x.recs == [.store (reg 0x2000) (line (0x40000000 * 2 ^ 32)) (BitVec.ofNat 128 0xFF00)] | .error _ => false) = true := by
  decide +kernel

/-- The outbound queue of core 0 is full: 512 KiB in 256-byte entries of a PUSH. -/
def fullOut : State :=
  let s := chunking (vc .running)
  s.setCore 0 { s.core 0 with outq := List.replicate 2048 { unit := 9, r := 0, p := 0, dest := .push 0 0 } }
theorem test_chunk_full : (fullOut.core 0).fits [.store (reg 0x2000) (line 0x3F800000) (BitVec.ofNat 128 0xFF)] = false
    ∧ gives (.vchain 0 0 0) fullOut (fun t => (t.core 0).units == [chunk0] && t.odGet 0x5142 1 == 1) = true := by decide +kernel
/-- A SCATTER_ADD that only merges. -/
def mergeEntry : Nat := 0x22 + (2 ^ 64 + 2 ^ 670) * 2 ^ 256
theorem test_mergeOnly : (cmdOf .started mergeEntry).mergeOnly = true
    ∧ gives (.scatterAdd 0 0 0) (withCmd .started mergeEntry) (fun t => t.ops.map (fun o => (o.tM, o.blocks.map (·.size))) == [(0, [])]) = true := by decide +kernel
/-- A chunk of which a part has landed: its next record waits to be committed. -/
def part1 : WorkUnit := { chunk0 with part := 1, rest := [.store (reg 0x2000) (line 5) 0xFF] }
def chunkLeft : State := { (vc .running).setCore 0 { units := [part1], nextId := 1 } with ops := [seqOp], tickets := [(0, 0, 7)] }
theorem test_chunk_part : (chunkLeft.core 0).nextChunk 0 0 = some part1 ∧ part1.rest ≠ [] ∧ (chunkLeft.core 0).replayWaits part1 = false
    ∧ gives (.vchain 0 0 0) chunkLeft (fun t => (t.core 0).outq.map (·.dest) == [.store (reg 0x2000) (line 5) 0xFF]) = true := by decide +kernel

-- ## COPY, SIGNAL and WAIT

/-- A COPY of 16 bytes from 0x1000 to 0x2000 of region 0's memory by region 0's DMA. -/
def copyEntry (locs src dst : Nat) : Nat := 0x23 + (locs + 16 * 2 ^ 48 + src * 2 ^ 128 + dst * 2 ^ 192) * 2 ^ 256
def copying (locs src dst : Nat) : State :=
  { withCmd .started (copyEntry locs src dst) with mem := Mem.writeNat [] (reg 0x1000) 0x1234 2, host0 := [(0x500, 7)] }

theorem test_copy_valid : (copying 0 (reg 0x1000) (reg 0x2000)).copyErr (cmdOf .started (copyEntry 0 (reg 0x1000) (reg 0x2000))) = none
    ∧ (copying 0 (reg 0x1000) (reg 0x2000)).memWf = true ∧ (copying 0 (reg 0x1000) (reg 0x2000)).fnState .region 0 = 2 := by decide +kernel
theorem test_copy_free : let s := copying 0 (reg 0x1000) (reg 0x2000)
    (memKey (reg 0x1000)) % 2 ^ 48 + 16 ≤ 2 ^ 48 ∧ s.badIn (memKey (reg 0x1000)) 16 = none ∧ s.clearingIn (memKey (reg 0x1000)) 16 = false
    ∧ s.clearingIn (memKey (reg 0x2000)) 16 = false
    ∧ (s.sbIssue 0 0 [⟨reg 0x1000, 16, false⟩, ⟨reg 0x2000, 16, true⟩]).2 = true := by decide +kernel
theorem test_copy_moves : gives (.copy 0 0) (copying 0 (reg 0x1000) (reg 0x2000)) (fun t => Mem.readNat t.mem (reg 0x2000) 16 == 0x1234) = true := by decide +kernel
theorem test_copy_host : gives (.copy 0 0) (copying 1 0x500 (reg 0x2000)) (fun t => Mem.readNat t.mem (reg 0x2000) 16 == 7) = true
    ∧ gives (.copy 0 0) (copying 4 (reg 0x1000) 0x600) (fun t => Mem.readNat t.host0 0x600 16 == 0x1234) = true := by decide +kernel

/-- A COPY from or into a window of package 1, slot 9. -/
def copyFar (locs src dst : Nat) : State := routed0 (copying locs src dst)
theorem test_copy_reads_far : (copyFar 3 (2 ^ 52 + 9 * 2 ^ 32) (reg 0x2000)).copyErr (cmdOf .started (copyEntry 3 (2 ^ 52 + 9 * 2 ^ 32) (reg 0x2000))) = none
    ∧ ((copyFar 3 (2 ^ 52 + 9 * 2 ^ 32) (reg 0x2000)).sbIssue 0 0 [⟨reg 0x2000, 16, true⟩]).2 = true
    ∧ gives (.copy 0 0) (copyFar 3 (2 ^ 52 + 9 * 2 ^ 32) (reg 0x2000))
      (fun t => t.txns.map (fun x => (x.kind, x.pkg, x.die, x.slot, x.off, x.len)) == [(.read, 1, 0, 9, 0, 16)]) = true := by decide +kernel
-- a longer one reads 4,080 bytes first
theorem test_copy_reads_first : let e := 0x23 + (3 + 4096 * 2 ^ 48 + (2 ^ 52 + 9 * 2 ^ 32) * 2 ^ 128 + reg 0x2000 * 2 ^ 192) * 2 ^ 256
    gives (.copy 0 0) (routed0 (withCmd .started e)) (fun t => t.txns.map (fun x => (x.kind, x.off, x.len)) == [(.read, 0, 4080)]) = true := by
  decide +kernel
theorem test_copy_writes_far : (copyFar 12 (reg 0x1000) (2 ^ 52 + 9 * 2 ^ 32)).copyErr (cmdOf .started (copyEntry 12 (reg 0x1000) (2 ^ 52 + 9 * 2 ^ 32))) = none
    ∧ ((copyFar 12 (reg 0x1000) (2 ^ 52 + 9 * 2 ^ 32)).sbIssue 0 0 [⟨reg 0x1000, 16, false⟩]).2 = true
    ∧ gives (.copy 0 0) (copyFar 12 (reg 0x1000) (2 ^ 52 + 9 * 2 ^ 32))
      (fun t => t.txns.map (fun x => (x.kind, x.pkg, x.slot, x.off, x.len)) == [(.write, 1, 9, 0, 16)]) = true := by decide +kernel

/-- A SIGNAL or WAIT on the word at 0x1000, which holds 0x1234. -/
def sigEntry (op timeout v addr rmt : Nat) : Nat := op + (addr + v * 2 ^ 64 + timeout * 2 ^ 160 + rmt * 2 ^ 192) * 2 ^ 256
def signalling (ph : Phase) (op timeout v addr rmt : Nat) : State :=
  { withCmd ph (sigEntry op timeout v addr rmt) with mem := Mem.writeNat [] (reg 0x1000) 0x1234 2 }

theorem test_signal_valid : (signalling .started 0x41 0 1 (reg 0x1000) 0).signalErr (cmdOf .started (sigEntry 0x41 0 1 (reg 0x1000) 0)) = none
    ∧ (signalling .started 0x41 0 1 (reg 0x1000) 0).badIn (reg 0x1000) 8 = none := by decide +kernel
theorem test_signal_adds : gives (.signal 0 0) (signalling .started 0x41 0 1 (reg 0x1000) 0)
    (fun t => Mem.readNat t.mem (reg 0x1000) 8 == 0x1235 && t.cmds.map (·.result) == [0x1234]) = true := by decide +kernel
theorem test_signal_saturates : gives (.signal 0 0) (signalling .started 0x41 0 (2 ^ 64 - 1) (reg 0x1000) 0)
    (fun t => Mem.readNat t.mem (reg 0x1000) 8 == 2 ^ 64 - 1 && t.cmds.map (·.flags) == [2 ^ 8]) = true := by decide +kernel
/-- A window of package 1, die 0, slot 9. -/
def farWord : Nat := 1 * 2 ^ 52 + 9 * 2 ^ 32 + 64
theorem test_signal_remote : let s := routed0 (signalling .started 0x41 0 1 farWord 1)
    s.signalErr (cmdOf .started (sigEntry 0x41 0 1 farWord 1)) = none ∧ s.routeErr 0 1 = none ∧ s.memWf = true
    ∧ (match s.wordEnd (cmdOf .started (sigEntry 0x41 0 1 farWord 1)) 2 with | .ok (.remote 1 0 9 64) => true | _ => false) = true := by decide +kernel
theorem test_wait_starts : (signalling .started 0x42 5 0x1234 (reg 0x1000) 0).signalErr (cmdOf .started (sigEntry 0x42 5 0x1234 (reg 0x1000) 0)) = none
    ∧ gives (.wait 0 0) (signalling .started 0x42 5 0x1234 (reg 0x1000) 0) (fun t => t.cmds.map (·.phase) == [.running]) = true := by decide +kernel
theorem test_wait_target : gives (.waitPoll 0 0) (signalling .running 0x42 5 0x1234 (reg 0x1000) 0) (fun t => t.cmds.map (·.result) == [0x1234]) = true
    ∧ gives (.waitPoll 0 0) (signalling .running 0x42 5 0x1235 (reg 0x1000) 0) (fun t => t.cmds.map (·.phase) == [.running]) = true := by decide +kernel
theorem test_wait_far : let s := routed0 (signalling .running 0x42 5 1 farWord 1)
    (match s.wordEnd (cmdOf .running (sigEntry 0x42 5 1 farWord 1)) 0 with | .ok (.remote 1 0 9 64) => true | _ => false) = true ∧ s.txns = []
    ∧ gives (.waitPoll 0 0) s (fun t => t.txns.map (fun x => (x.kind, x.slot, x.off, x.len)) == [(.waitRead, 9, 64, 16)]) = true := by decide +kernel
theorem test_wait_timeout : field (cmdOf .running (sigEntry 0x42 5 1 (reg 0x1000) 0)).entry.toNat 447 416 ≠ 0
    ∧ gives (.waitTimeout 0 0) (signalling .running 0x42 5 0x1235 (reg 0x1000) 0) (fun t => t.cmds.map (fun c => c.err.map (·.code)) == [some 0x0506]) = true
    ∧ gives (.waitTimeout 0 0) (signalling .running 0x42 0 0x1235 (reg 0x1000) 0) (fun t => t.cmds.map (·.err) == [none]) = true := by decide +kernel

-- ## Bank engines

/-- A line at 0x1000 of region 0's memory whose first words are 1 and 2. -/
def lined : State := { up with mem := Mem.writeNat [] (reg 0x1000) (1 + 2 * 2 ^ 32) 8, groups := [(reg 0x1000, 3)] }
def eng : Src := .eng 0 0 (some 7)

theorem test_lined_stale : lined.stale = [] := by decide +kernel
theorem test_fresh : field (reg 0x1000) 49 48 ≠ 3 ∧ (∀ k, some (7 : Ticket) = some k → k ∉ lined.stale) ∧ lined.memWf = true :=
  ⟨by decide, fun k _ => by rw [test_lined_stale]; exact List.not_mem_nil, by decide +kernel⟩
theorem test_fresh_place : lined.accessErr (reg 0x1000) 1 (some 7) = none ∧ lined.clearingIn (memKey (reg 0x1000) / 64 * 64) 64 = false := by decide +kernel
-- nibble 0 of byte 0 alone is written
theorem test_bankWrite : gives (.bankWrite eng (reg 0x1000) (line 0xFF) 1) lined (fun t => Mem.readNat t.mem (reg 0x1000) 8 == 15 + 2 * 2 ^ 32
    && t.groups == []) = true := by decide +kernel
theorem test_bankAdd : gives (.bankAdd eng (reg 0x1000) 0x04 2 (line (5 * 2 ^ 32 + 9))) lined
    (fun t => Mem.readNat t.mem (reg 0x1000) 8 == 1 + 7 * 2 ^ 32 && t.cmds == []) = true := by decide +kernel
-- INT32 2^31 − 1 and 1 saturate; the op is flagged
theorem test_bankAdd_saturates : gives (.bankAdd eng (reg 0x1000) 0x04 1 (line (2 ^ 31 - 1))) { lined with cmds := [cmdOf .running 0x22] }
    (fun t => Mem.readNat t.mem (reg 0x1000) 4 == 2 ^ 31 - 1 && t.cmds.map (·.flags) == [2 ^ 8]) = true := by decide +kernel
theorem test_bankMax : gives (.bankMaxMin eng (reg 0x1000) true 0x04 3 (line (0xFFFFFFFF + 3 * 2 ^ 32))) lined
    (fun t => Mem.readNat t.mem (reg 0x1000) 8 == 1 + 3 * 2 ^ 32) = true := by decide +kernel
-- a lane that holds a signalling NaN keeps it, quieted; a greater lane beside it is kept
theorem test_bankMax_nan : let s : State := { up with mem := Mem.writeNat [] (reg 0x1000) (0x7F800001 + 0x40000000 * 2 ^ 32) 8 }
    gives (.bankMaxMin eng (reg 0x1000) true 0x15 3 (line (0x3F800000 + 0x3F800000 * 2 ^ 32))) s
      (fun t => Mem.readNat t.mem (reg 0x1000) 8 == 0x7FC00001 + 0x40000000 * 2 ^ 32) = true
    ∧ (decodeVal (fmtD 0x15) 0x7F800001).isNan = true ∧ (decodeVal (fmtD 0x15) 0x3F800000).isNan = false := by decide +kernel
-- equal values: the lower index wins
theorem test_bankMaxIndex : gives (.bankMaxMinIndex eng (reg 0x1000) true 0x04 1 (line (1 + 1 * 2 ^ 32))) lined
    (fun t => Mem.readNat t.mem (reg 0x1000) 8 == 1 + 1 * 2 ^ 32) = true := by decide +kernel
theorem test_bankFetchAdd : gives (.bankFetchAdd eng (reg 0x1000) (BitVec.ofNat 64 (2 ^ 64 - 1))) lined
    (fun t => Mem.readNat t.mem (reg 0x1000) 8 == 2 ^ 64 - 1) = true := by decide +kernel
theorem test_bankRead_joins : AMap.getD lined.groups (reg 0x1000) 0 = 3 ∧ reg 0x1000 / 2 ^ 48 % 4 = 1
    ∧ gives (.bankRead eng (reg 0x1000)) lined (fun t => t.groups == [(reg 0x1000, 4)] && t.odGet 0x5207 1 == 1) = true := by decide +kernel
theorem test_bankRead_opens : AMap.getD lined.groups (reg 0x2000) 0 = 0
    ∧ gives (.bankRead eng (reg 0x2000)) lined (fun t => AMap.getD t.groups (reg 0x2000) 0 == 1) = true := by decide +kernel
theorem test_bankRead_full : gives (.bankRead eng (reg 0x1000)) { lined with groups := [(reg 0x1000, 64)] } (fun t => t.groups == [(reg 0x1000, 1)]) = true := by
  decide +kernel
-- the sum goes beyond 2^64 − 1: the op is flagged
theorem test_bankFetchAdd_flag : gives (.bankFetchAdd eng (reg 0x1000) (BitVec.ofNat 64 (2 ^ 64 - 1))) { lined with cmds := [cmdOf .running 0x22] }
    (fun t => t.cmds.map (·.flags) == [2 ^ 8]) = true
    ∧ gives (.bankFetchAdd eng (reg 0x1000) 5) { lined with cmds := [cmdOf .running 0x22] } (fun t => t.cmds.map (·.flags) == [0]) = true := by decide +kernel
/-- A line of core 3's scratchpad, which another op fills. -/
def pad3 : Nat := 2 ^ 49 + 3 * 2 ^ 23 + 2 ^ 22 + 2 ^ 16
def filled3 : State := up.setCore 3 { sb := [{ r := 9, p := 9, lo := 66560, hi := 66561, wr := true, st := .fill }] }
theorem test_bankRead_filling : filled3.filling 0 0 (memKey pad3 / 64 * 64) 64 = true ∧ becomes (.bankRead eng pad3) filled3 filled3 = true
    ∧ up.filling 0 0 (memKey pad3 / 64 * 64) 64 = false := by decide +kernel
-- an offset that region memory does not have, and a stack that is OFF
theorem test_no_memory : let gone : State := { lined with cmds := [cmdOf .running 0x22] }
    let off := gone.setFn .stack 0 0
    (gone.validAt (reg 0x6000000) 1 = false ∧ off.validAt 0x40 1 = true ∧ off.serves 0x40 = false)
    ∧ gives (.bankAdd eng (reg 0x6000000) 0x04 1 (line 1)) gone
      (fun t => t.mem == lined.mem && t.cmds.map (·.err) == [some { code := 0x0303, dkind := 6, detail := reg 0x6000000 }]) = true
    ∧ gives (.bankRead eng 0x40) off (fun t => t.cmds.map (·.err) == [some (ticketErr 0x0A01 (some 7))]) = true := by decide +kernel
-- package 1 is another package
theorem test_foreign : field (2 ^ 52 + reg 0x1000) 63 52 ≠ lined.odGet 0x2001 0 % 4096
    ∧ gives (.bankAdd eng (2 ^ 52 + reg 0x1000) 0x04 1 (line 1)) { lined with cmds := [cmdOf .running 0x22] }
      (fun t => t.mem == lined.mem && t.cmds.map (fun c => c.err.map (·.code)) == [some 0x0304]) = true := by decide +kernel
theorem test_bank_clearing : ({ lined with clearing := [0] } : State).clearingIn (memKey 0x1000 / 64 * 64) 64 = true
    ∧ becomes (.bankAdd eng 0x1000 0x04 1 (line 1)) { lined with clearing := [0] } { lined with clearing := [0] } = true := by decide +kernel
theorem test_stale_drop : (7 : Ticket) ∈ ({ lined with stale := [7] } : State).stale
    ∧ lined.accessErr (reg 0x1000) 1 (some 7) = none
    ∧ gives (.bankAdd eng (reg 0x1000) 0x04 1 (line 1)) { lined with stale := [7] }
      (fun t => t.mem == lined.mem && t.odGet 0x5206 1 == 1 && t.odGet 0x4200 1 == 4) = true := by decide +kernel

/-- The header of a message. -/
def hdrOf (type len slot off arg : Nat) : BitVec 256 :=
  Hdr.bits { type := type, len := len, req := 0, tag := 3, spart := 0, spkg := 1, dpkg := 0, ddie := 0, slot := slot, off := off, arg := arg }

/-- A request of another package that slot 9 of die 0 has accepted, for the line at 0x1000. -/
def acceptedReq (type len arg : Nat) (data : List Byte) : State :=
  { routed0 lined with accepted := [{ id := 4, die := 0, slot := 9, addr := reg 0x1000, ogen := 0, msg := { hdr := hdrOf type len 9 0 arg, data := data } }]
                       slots := [(9, { st := .opened, inflight := 1, acl := 2 ^ 64 - 1, perm := 7, len := 0x10000 })] }
theorem test_accepted_write : gives (.bankWrite (.win 4) (reg 0x1000) 0 0) (acceptedReq 0x02 1 0 (List.replicate 16 9))
    (fun t => t.accepted.length == 0 && (t.slot 9).inflight == 0 && Mem.read t.mem (reg 0x100F) == 9) = true := by decide +kernel
-- a WR that carries the low nibbles of its bytes alone
theorem test_accepted_nibbles : let s := acceptedReq 0x02 1 0 (List.replicate 16 9)
    gives (.bankWrite (.win 4) (reg 0x1000) 0 0) { s with accepted := s.accepted.map fun a => { a with msg := { a.msg with mask := some 1 } } }
      (fun t => Mem.read t.mem (reg 0x1000) == 9 && Mem.read t.mem (reg 0x1001) == 0 && Mem.read t.mem (reg 0x1004) == 2) = true
    ∧ (s.sbWrite 513 4 (reg 0x1000) 16).2 = true ∧ s.clearingIn (reg 0x1000) 16 = false := by decide +kernel
/-- An accepted AT with an operation code, on lane 0. -/
def acceptedAt (code : Nat) : Accepted :=
  { id := 4, die := 0, slot := 9, addr := reg 0x1000, ogen := 0, msg := { hdr := hdrOf 0x08 4 9 0 (code + 0x100), data := List.replicate 64 1 } }
theorem accepted_code : ∀ k : Fin 256, (acceptedAt k.val).msg.arg % 256 = k.val := by decide +kernel
-- the code of an INT32 add
theorem test_accepted_add : ((acceptedAt (Config.atCode 2 0x04).toNat).bankArgs.map fun x => (x.op, x.fmt)) = some (2, 0x04) := by
  have h := accepted_code ⟨(Config.atCode 2 0x04).toNat, (Config.atCode 2 0x04).isLt⟩
  unfold Accepted.bankArgs atKinds
  rw [h, List.find?_cons_of_pos (by simp)]
  simp
theorem test_accepted_fetchAdd : (acceptedReq 0x08 4 0 (List.replicate 64 0)).memWf = true
    ∧ ((acceptedReq 0x08 4 0 (List.replicate 64 0)).accepted.find? fun b => b.id == 4).map (fun a => (a.msg.type, a.addr)) = some (0x08, reg 0x1000) := by decide +kernel
theorem test_accepted_read : ((acceptedReq 0x01 1 0 []).accepted.find? fun b => b.id == 4).map (fun a => (a.msg.type, a.addr)) = some (0x01, reg 0x1000)
    ∧ (acceptedReq 0x01 1 0 []).badIn (reg 0x1000) 16 = none
    ∧ gives (.bankRead (.win 4) (reg 0x1000)) (acceptedReq 0x01 1 0 []) (fun t => t.accepted.length == 0) = true := by decide +kernel

-- ## Scatter accumulators

/-- Context 2 of region 0 with its block at 0x8000, FP32 sums into handle 1, and one resident entry of key 5. -/
def ctx2 (merging : Bool) (finals : List (Nat × Nat)) : SacCtx :=
  { num := 2, block := reg 0x8000, part := 0, dest := 1, pstore := 0, spillq := 0, splits := 0, merging := merging, finals := finals }
def sacOf (merging : Bool) (finals : List (Nat × Nat)) : State :=
  tensors [img 0x04 2 0 16 8 64 0x1000 512 + 2 ^ 17] (up.setSac 0
    { entries := [{ set := sacSet 2 5 0, way := 0, ctx := 2, key := 5, split := 0, value := 40, stamp := 1 }], ctxs := [ctx2 merging finals], stamp := 2 })

theorem test_sac_place : (sacOf false []).accessErr (reg 0x8000) 64 (some 7) = none ∧ (sacOf false []).ctxWaits (memKey (reg 0x8000)) = false
    ∧ (sacOf false []).ctxForeign (ctx2 false []) = none ∧ (sacOf false []).ops = [] := by decide +kernel
theorem test_sac_hyps : blockRegion (memKey (reg 0x8000)) = some 0
    ∧ (((sacOf false []).sac 0).ctxs.find? fun x => x.block == memKey (reg 0x8000)) = some (ctx2 false []) := by decide +kernel
theorem test_sac_updates : gives (.sacRecord eng (reg 0x8000) 5 0 (line 2)) (sacOf false [])
    (fun t => (t.sac 0).entries.map (·.value) == [line 42] && t.odGet 0x5200 1 == 1) = true := by decide +kernel
theorem test_sac_installs : (((sacOf false []).sac 0).entries.find? fun e => e.set == sacSet 2 6 0 && e.ctx == 2 && e.key == 6 && e.split == 0) = none
    ∧ gives (.sacRecord eng (reg 0x8000) 6 0 (line 2)) (sacOf false []) (fun t => (t.sac 0).entries.length == 2 && t.odGet 0x5201 1 == 1) = true := by
  decide +kernel
theorem test_sac_mergeBegins : gives (.sacMerge 0 2) (sacOf false [(0, 0)]) (fun t => (t.sac 0).ctxs.map (·.merging) == [true]) = true := by decide +kernel
/-- A KP that slot 9 has accepted for the context's block. -/
def kpWaits : State := { sacOf false [(0, 0)] with accepted := [{ id := 4, die := 0, slot := 9, addr := memKey (reg 0x8000), ogen := 0, msg := { hdr := hdrOf 0x09 5 9 0 0, data := [] } }] }
theorem test_sac_waits : (∃ a ∈ kpWaits.accepted, a.msg.type = 0x09 ∧ a.addr = (ctx2 false []).block) ∧ becomes (.sacMerge 0 2) kpWaits kpWaits = true := by
  decide +kernel
/-- The same context in ordered mode, with one split; nothing of PSTORE is filled. -/
def sacOrdered : State :=
  let s := sacOf true [(0, 0)]
  s.setSac 0 { s.sac 0 with ctxs := [{ ctx2 true [(0, 0)] with splits := 1, pstore := 1 }] }
theorem test_sac_ordered : sacOrdered.ctxForeign { ctx2 true [(0, 0)] with splits := 1, pstore := 1 } = none
    ∧ gives (.sacMerge 0 2) sacOrdered (fun t => (t.sac 0).ctxs == [] && t.queues == [] && t.mem == (sacOrdered.mergeOrdered 0 { ctx2 true [(0, 0)] with splits := 1, pstore := 1 }).s.mem) = true := by
  decide +kernel
-- key 5 of a row of 16 lanes is row 5, at 0x1000 + 5 × 64
theorem test_sac_merges : ((sacOf true [(0, 0)]).queue 0).en = false
    ∧ gives (.sacMerge 0 2) (sacOf true [(0, 0)]) (fun t => (t.sac 0).ctxs == [] && (t.sac 0).entries == [] && Mem.readNat t.mem (reg 0x1140) 4 == 40) = true := by
  decide +kernel

-- ## The outbound queue and the scratchpad

/-- A released unit of core 0 with one record, and another unit's record behind it where asked. -/
def outgoing (d : Dest) (more : List OutRec) : State :=
  { (mm .running 0).setCore 0 { units := [{ chunk0 with st := .released }], outq := { unit := 0, r := 0, p := 0, ticket := some 7, dest := d } :: more } with
    ops := [mmOp (some 5) 1 1], tickets := [(0, 0, 7)] }
theorem test_send_hyps : (outgoing (.store (reg 0x3000) (line 5) 0xFF) []).accessErr (reg 0x3000) 64 (some 7) = none
    ∧ (outgoing (.store (reg 0x3000) (line 5) 0xFF) []).clearingIn (memKey (reg 0x3000)) 64 = false
    ∧ ((outgoing (.store (reg 0x3000) (line 5) 0xFF) []).sbWrite 0 0 (memKey (reg 0x3000)) 64).2 = true
    ∧ ((outgoing (.store (reg 0x3000) (line 5) 0xFF) []).unit 0 0).map (·.st) = some .released := by decide +kernel
theorem test_send_store : gives (.outboundSend 0 false) (outgoing (.store (reg 0x3000) (line 5) 0xFF) [])
    (fun t => Mem.readNat t.mem (reg 0x3000) 4 == 5 && (t.core 0).units == [] && t.tickets == [] && t.ops.map (·.landed) == [1]) = true := by decide +kernel
theorem test_send_add : gives (.outboundSend 0 false) (outgoing (.add (reg 0x3000) 0x04 1 (line 5)) [{ unit := 0, r := 0, p := 0, ticket := some 7, dest := .add (reg 0x3000) 0x04 1 (line 5) }])
    (fun t => Mem.readNat t.mem (reg 0x3000) 4 == 5 && (t.core 0).outq.length == 1 && t.tickets.length == 1) = true := by decide +kernel
theorem test_send_extremum : gives (.outboundSend 0 false) (outgoing (.extremum (reg 0x3000) true 0x04 1 (line 5)) [])
    (fun t => Mem.readNat t.mem (reg 0x3000) 4 == 5) = true := by decide +kernel
/-- A record for slot 9 of package 1, whose route is port 0. -/
def outFar : State := routed0 (outgoing (.window [(1, 0, 9)] 0 (line 5) 0xFF) [])
theorem test_send_far : outFar.egressPort 0 1 = some 0 ∧ outFar.fnState .link 0 = 2 ∧ outFar.portBusy 0 = false
    ∧ gives (.outboundSend 0 false) outFar (fun t => t.txns.map (·.unit) == [some 0] && (t.core 0).outq == [] && (t.core 0).units.length == 1) = true := by
  decide +kernel
/-- A message waits at port 0. -/
def outFarBusy : State := { outFar with egress := [{ pp := 0, via := none, msg := { hdr := hdrOf 0x01 1 9 0 0, data := [] } }] }
theorem test_send_busy : outFarBusy.portBusy 0 = true
    ∧ gives (.outboundSend 0 false) outFarBusy (fun t => (t.core 0).outq.length == 1 && t.odGet 0x5143 1 == 1) = true := by decide +kernel
theorem test_send_replays : (outgoing (.store (reg 0x3000) (line 5) 0xFF) []).coreRuns 0 = true
    ∧ gives (.outboundSend 0 true) (outgoing (.store (reg 0x3000) (line 5) 0xFF) [])
      (fun t => (t.core 0).outq == [] && (t.core 0).units.map (fun u => (u.st, u.replay)) == [(.held, 1)]) = true := by decide +kernel
theorem test_split_idle : ((withCmd .taken 0x40).core 5).units = [] ∧ gives (.scratchpadSplitApply 5) (up.odSet 0x3130 6 40)
    (fun t => (t.core 5).split == (40, 16, 16)) = true := by decide +kernel
/-- A POP waits on core 5 to fill its scratchpad. -/
def popHeld : State := (up.odSet 0x3130 6 40).setQueue 7 { headCore := 5, pops := [{ r := 0, p := 0, want := 1, addr := 0 }] }
theorem test_split_pop : becomes (.scratchpadSplitApply 5) popHeld popHeld = true := by decide +kernel
theorem test_split_busy : ¬ (((outgoing (.store (reg 0x3000) (line 5) 0xFF) []).core 0).units = []) := by decide +kernel

-- ## Stream queues and locks

/-- Queue 0 of die 0 from core 0 to core 1 with `n` entries, of which the first `rd` are read. -/
def queued (q : Queue) (s : State) : State := s.setQueue 0 { q with headCore := 1, en := true }
def qEntry (op count addr : Nat) : Nat := op + (count * 2 ^ 40 + addr * 2 ^ 64) * 2 ^ 256
def three : Queue := { wr := 3, rd := 1, mark := 1, held := [(0, 1), (1, 2), (2, 3)] }
def queueing (ph : Phase) (op count addr : Nat) (q : Queue) : State := queued q (withCmd ph (qEntry op count addr))

theorem test_push_hyps : (queueing .started 0x30 2 (reg 0x1000) {}).queueErr (cmdOf .started (qEntry 0x30 2 (reg 0x1000))) true = none
    ∧ (queueing .started 0x30 2 (reg 0x1000) {}).coreOn 0 = true ∧ (queueing .started 0x30 2 (reg 0x1000) {}).badIn (memKey (reg 0x1000)) 512 = none
    ∧ ((queueing .started 0x30 2 (reg 0x1000) {}).sbIssue 0 0 [⟨reg 0x1000, 512, false⟩]).2 = true
    ∧ ((queueing .started 0x30 2 (reg 0x1000) {}).core 0).fits ((queueing .started 0x30 2 (reg 0x1000) {}).pushEntries (cmdOf .started (qEntry 0x30 2 (reg 0x1000)))) = true := by
  decide +kernel
/-- A PUSH of one entry from core 3's scratchpad, which another op fills; the same with the tail core OFF. -/
def pushStalls : State := { queueing .started 0x30 1 pad3 {} with cores := filled3.cores }
theorem test_push_stalls : pushStalls.queueErr (cmdOf .started (qEntry 0x30 1 pad3)) true = none ∧ pushStalls.coreOn 0 = true
    ∧ (pushStalls.sbIssue 0 0 [⟨memKey pad3, 256, false⟩]).2 = false
    ∧ gives (.queuePush 0 0) pushStalls (fun t => t.cmds == pushStalls.cmds && (t.core 0).outq == []) = true
    ∧ gives (.queuePush 0 0) (pushStalls.setFn .core 0 0) (fun t => t.cmds.map (fun c => c.err.map (·.code)) == [some 0x0807]) = true := by decide +kernel
theorem test_push : gives (.queuePush 0 0) { queueing .started 0x30 2 (reg 0x1000) {} with mem := Mem.writeNat [] (reg 0x1100) 7 1 }
    (fun t => (t.core 0).outq.map (·.dest) == [.push 0 0, .push 0 7] && t.cmds.map (·.phase) == [.running]) = true := by decide +kernel
-- the pushed entry lands in its queue as the queue's head core takes it
theorem test_pushed : gives (.outboundSend 0 false) (({ queueing .running 0x30 1 (reg 0x1000) {} with mem := [] }).setCore 0
      { nextId := 1, units := [{ chunk0 with ticket := none, st := .released }]
        outq := [{ unit := 0, r := 0, p := 0, dest := .push 0 9 }] })
    (fun t => (t.queue 0).wr == 1 && (t.queue 0).held == [(0, 9)] && (t.core 0).outq == [] && (t.core 0).units == []) = true := by decide +kernel
theorem test_pop_hyps : (queueing .started 0x31 2 (reg 0x1000) three).queueErr (cmdOf .started (qEntry 0x31 2 (reg 0x1000))) true = none
    ∧ (queueing .started 0x31 2 (reg 0x1000) three).coreOn 1 = true ∧ (queueing .started 0x31 2 (reg 0x1000) three).memWf = true
    ∧ ((queueing .started 0x31 2 (reg 0x1000) three).sbIssue 0 0 [⟨reg 0x1000, 512, true⟩]).2 = true
    ∧ ((queueing .started 0x31 2 (reg 0x1000) three).queueEntry three 1).2 = false := by decide +kernel
theorem test_pop : gives (.queuePop 0 0) (queueing .started 0x31 2 (reg 0x1000) three) (fun t => Mem.readNat t.mem (reg 0x1000) 512 == 2 + 3 * 2 ^ 2048
    && (t.queue 0).rd == 3 && t.cmds.map (fun c => (c.phase, c.result)) == [(.ended, 2)]) = true := by decide +kernel
theorem test_pop_noticed : gives (.queuePop 0 0) (queueing .started 0x31 8 (reg 0x1000) { three with notice := true })
    (fun t => (t.queue 0).rd == 3 && !(t.queue 0).notice && t.cmds.map (·.result) == [2]) = true := by decide +kernel
theorem test_pop_waits : gives (.queuePop 0 0) (queueing .started 0x31 8 (reg 0x1000) three)
    (fun t => (t.queue 0).pops == [{ r := 0, p := 0, want := 8, addr := reg 0x1000 }] && t.mem == [] && t.cmds.map (·.phase) == [.running]) = true := by
  decide +kernel
theorem test_pop_served : (queueing .started 0x31 2 (reg 0x1000) three).accessErr (reg 0x1000) 512 none = none := by decide +kernel
/-- A POP whose destination another op fills, and one behind another that waits, which waits with its COUNT. -/
def popStalls : State := { queueing .started 0x31 1 pad3 three with cores := filled3.cores }
theorem test_pop_stalls : popStalls.queueErr (cmdOf .started (qEntry 0x31 1 pad3)) true = none ∧ (popStalls.sbIssue 0 0 [⟨memKey pad3, 256, true⟩]).2 = false
    ∧ gives (.queuePop 0 0) popStalls (fun t => t.cmds == popStalls.cmds && t.queues == popStalls.queues) = true := by decide +kernel
theorem test_pop_behind : gives (.queuePop 0 0) (queueing .started 0x31 1 (reg 0x1000) { three with pops := [{ r := 9, p := 9, want := 64, addr := reg 0x9000 }] })
    (fun t => (t.queue 0).pops.map (fun w => (w.r, w.want)) == [(9, 64), (0, 1)] && (t.queue 0).rd == 1) = true := by decide +kernel
-- REL + 64 − RD = 0: nothing may be taken before a RELEASE
theorem test_pop_none : gives (.queuePop 0 0) (queueing .started 0x31 1 (reg 0x1000) { wr := 64, rd := 64 })
    (fun t => t.cmds.map (fun c => c.err.map (·.code)) == [some 0x0503]) = true := by decide +kernel
theorem test_mark_hyps : (queueing .started 0x32 0 0 three).queueErr (cmdOf .started (qEntry 0x32 0 0)) false = none := by decide +kernel
theorem test_mark : gives (.queueMark 0 0) (queueing .started 0x32 0 0 { three with mark := 0 }) (fun t => (t.queue 0).mark == 1) = true := by decide +kernel
theorem test_rewind : gives (.queueRewind 0 0) (queueing .started 0x33 0 0 { three with mark := 0 }) (fun t => (t.queue 0).rd == 0) = true := by decide +kernel
theorem test_release : gives (.queueRelease 0 0) (queueing .started 0x34 0 0 { three with badEntries := [0, 2] })
    (fun t => (t.queue 0).rel == 1 && (t.queue 0).held == [(1, 2), (2, 3)] && (t.queue 0).badEntries == [2]) = true := by decide +kernel

/-- A POP of another ring waits for three entries; a REWIND gives it those from MARK on. -/
def rewinding : State := queueing .started 0x33 0 0 { three with mark := 0, pops := [{ r := 9, p := 9, want := 3, addr := reg 0x9000 }] }
theorem test_rewind_pop : rewinding.queueErr (cmdOf .started (qEntry 0x33 0 0)) false = none ∧ rewinding.accessErr (reg 0x9000) 768 none = none
    ∧ rewinding.sbReady 9 9 ⟨memKey (reg 0x9000), 768, true⟩ = true
    ∧ gives (.queueRewind 0 0) rewinding (fun t => (t.queue 0).rd == 3 && (t.queue 0).pops == [] && Mem.readNat t.mem (reg 0x9000) 1 == 1) = true := by
  decide +kernel
/-- A queue whose ring of 256 entries lies in unit 0 of die 0; a RELEASE up to entry 70 moves entry 64 and its like to the head window. -/
def ringed : Queue := { wr := 200, rd := 70, mark := 70, ringLog2 := 8 }
def releasing (clear : List Nat) : State := { queueing .started 0x34 0 0 ringed with clearing := clear }
theorem test_release_ring : ringed.refills 70 ≠ [] ∧ (releasing [0]).ringClearing ringed = true ∧ becomes (.queueRelease 0 0) (releasing [0]) (releasing [0]) = true
    ∧ ((releasing [1]).ringClearing ringed = false ∧ ∀ i ∈ ringed.refills 70, (releasing [1]).badIn (ringed.ringKey i) 256 = none)
    ∧ gives (.queueRelease 0 0) (releasing [1]) (fun t => (t.queue 0).rel == 70 && t.cmds.map (·.phase) == [.ended]) = true := by decide +kernel

/-- A control block that enables: from core 0 to core 1, window slots 2 and 3. -/
def qCb : Nat := 2 ^ 136 * 0 + 1 * 2 ^ 162 + 2 * 2 ^ 151 + 3 * 2 ^ 145 + 100 * 2 ^ 172
theorem test_queueEnable : gives (.queueEnable (.core 5) 0 7 (BitVec.ofNat 512 qCb)) up
    (fun t => (t.queue 7).en && (t.queue 7).headCore == 1 && (t.queue 7).stale == 100 && (t.queue 7).cfgErr == 0) = true := by decide +kernel
-- window slot 63 lies in a split of 16 units, 64 does not
theorem test_queueEnable_window : gives (.queueEnable .dmp 0 7 (BitVec.ofNat 512 (qCb + 61 * 2 ^ 151))) up (fun t => (t.queue 7).cfgErr == 0) = true
    ∧ gives (.queueEnable .dmp 0 7 (BitVec.ofNat 512 (qCb + 61 * 2 ^ 151))) (up.setCore 1 { split := (33, 16, 15) }) (fun t => (t.queue 7).cfgErr == 1) = true := by decide +kernel
theorem test_queueEnable_used : gives (.queueEnable .dmp 0 7 (BitVec.ofNat 512 qCb)) (up.setQueue 3 { en := true, tailCore := 1, tailWin := 2, headCore := 4 })
    (fun t => (t.queue 7).cfgErr == 2 && !(t.queue 7).en) = true := by decide +kernel
-- a spill ring of 2^6 entries at an address off its alignment; of 2^5 entries
theorem test_queueEnable_ring : gives (.queueEnable .dmp 0 7 (BitVec.ofNat 512 (qCb + 6 * 2 ^ 167 + reg 0x80 * 2 ^ 192))) up (fun t => (t.queue 7).cfgErr == 3) = true
    ∧ gives (.queueEnable .dmp 0 7 (BitVec.ofNat 512 (qCb + 5 * 2 ^ 167 + 0x100 * 2 ^ 192))) up (fun t => (t.queue 7).cfgErr == 5) = true := by decide +kernel
theorem test_queueEnable_away : gives (.queueEnable (.host 0 5) 0 7 (BitVec.ofNat 512 qCb)) up
    (fun t => (t.queue 7).cfgErr == 4 && (t.queue 7).part == 5) = true := by decide +kernel
theorem test_queueEnable_on : becomes (.queueEnable .dmp 0 0 0) (queued {} up) (queued {} up) = true := by decide +kernel
theorem test_queueDisable : gives (.queueDisable .dmp 0 0 0) (queueing .running 0x31 8 (reg 0x1000) { three with pops := [{ r := 0, p := 0, want := 8, addr := reg 0x1000 }] })
    (fun t => !(t.queue 0).en && (t.queue 0).held == [] && t.cmds.map (fun c => (c.phase, c.err.map (·.code))) == [(.ended, some 0x0504)]) = true := by decide +kernel
theorem test_queueDisable_denied : ¬ (Requester.host 0 3 = .dmp ∨ (queued {} up).requesterPart (.host 0 3) = some ((queued {} up).queue 0).part)
    ∧ becomes (.queueDisable (.host 0 3) 0 0 0) (queued {} up) (queued {} up) = true := by decide +kernel
theorem test_queueBlock_notice : gives (.queueControlBlockWrite (.host 1 0) 0 0 (BitVec.ofNat 512 (2 ^ 141 + 2 ^ 192))) (queued { notice := true } up)
    (fun t => !(t.queue 0).notice && (t.queue 0).ringBase == 0) = true := by decide +kernel
theorem test_queueBlock_off : gives (.queueControlBlockWrite (.host 1 4) 0 9 (BitVec.ofNat 512 (5 * 2 ^ 192))) up
    (fun t => (t.queue 9).ringBase == 5 && (t.queue 9).part == 4) = true := by decide +kernel
theorem test_notice : gives (.staleTailNotice 0 0) (queued { three with stale := 1 } up) (fun t => (t.queue 0).notice) = true := by decide +kernel
theorem test_notice_served : gives (.staleTailNotice 0 0) (queueing .running 0x31 8 (reg 0x1000)
      { three with stale := 1, pops := [{ r := 0, p := 0, want := 8, addr := reg 0x1000 }] })
    (fun t => (t.queue 0).rd == 3 && (t.queue 0).pops == [] && t.odGet 0x5305 1 == 1 && t.cmds.map (·.result) == [2]) = true := by decide +kernel

-- a POP that waits for 40 entries where REL + 64 − RD = 4 gets four of the forty there are
theorem test_notice_bound : let q : Queue := { wr := 100, rd := 60, stale := 1, pops := [{ r := 0, p := 0, want := 40, addr := reg 0x1000 }] }
    (queueing .running 0x31 40 (reg 0x1000) q).accessErr (reg 0x1000) 1024 none = none
    ∧ gives (.staleTailNotice 0 0) (queueing .running 0x31 40 (reg 0x1000) q) (fun t => (t.queue 0).rd == 64 && t.cmds.map (·.result) == [4]) = true := by
  decide +kernel

def locked (owner epoch : Nat) : State := (up.setLock 5 { st := .held, owner := owner, epoch := epoch }).advanceEpoch 3
-- a FREE cell: granted to core 2 at its epoch 0; STATE before it is 0
theorem test_lock_free : gives (.lockAcquire (.core 2) 0 5) up (fun t => t.lock 5 == { st := .held, owner := 2, epoch := 0 }
    && t.lockReply == (1 + 2 * 2 ^ 32, 0)) = true := by decide +kernel
-- the epoch of core 3 has advanced: its cell is ABANDONED, and goes to a function of host port 1
theorem test_lock_abandoned : gives (.lockAcquire (.host 1 0) 0 5) (locked 3 0) (fun t => t.lock 5 == { st := .held, owner := 0x81, epoch := 0 }
    && t.odGet 0x5209 1 == 1 && t.lockReply.1 % 16 == 3 + 2 * 4) = true := by decide +kernel
theorem test_lock_held : gives (.lockAcquire (.core 2) 0 5) (locked 3 1) (fun t => t.lock 5 == { st := .held, owner := 3, epoch := 1 }
    && t.lockReply.1 % 16 == 4) = true := by decide +kernel
theorem test_lock_away : gives (.lockAcquire (.host 1 5) 0 5) up (fun t => t.locks == [] && t.lockReply == (0, 0)) = true := by decide +kernel
theorem test_lock_test : gives (.lockTest .dmp 0 5) (locked 3 0) (fun t => t.lock 5 == { st := .held, owner := 3, epoch := 0 } && t.lockReply.1 % 16 == 8) = true := by
  decide +kernel
theorem test_lock_release : gives (.lockRelease (.core 3) 0 5) (locked 3 1) (fun t => (t.lock 5).st == .free) = true
    ∧ (locked 3 1).releaseBehind (.core 3) = none ∧ (locked 3 1).requesterPart (.core 3) = (locked 3 1).regionPart 0 := by decide +kernel
theorem test_lock_releaseOther : gives (.lockRelease (.core 2) 0 5) (locked 3 1) (fun t => (t.lock 5).st == .held && t.odGet 0x520A 1 == 1
    && bitOf (t.odGet 0x4200 1) 3) = true := by decide +kernel
/-- Core 0 owns cell 5, and a record of its own is on its way. -/
def lockBehind : State :=
  let s := (outgoing (.store (reg 0x3000) (line 5) 0xFF) []).setLock 5 { st := .held, owner := 0, epoch := 0 }
  s.setCore 0 { s.core 0 with nextRec := 1 }
-- the core holds the RELEASE behind that record, and it reaches the cell once the record has been accepted
theorem test_lock_releaseHeld : lockBehind.releaseBehind (.core 0) = some 1 ∧ lockBehind.mayLock (.core 0) 0 = true
    ∧ gives (.lockRelease (.core 0) 0 5) lockBehind (fun t => (t.lock 5).st == .held && (t.core 0).releases == [{ region := 0, cell := 5, seq := 1 }]
      && gives (.outboundSend 0 false) t (fun v => (v.lock 5).st == .free && (v.core 0).releases == [])) = true := by decide +kernel
-- a cell that fails its check is granted as an ABANDONED one
theorem test_lock_bad : gives (.lockAcquire (.core 2) 0 5) (up.setLock 5 { st := .held, owner := 9, bad := true })
    (fun t => t.lock 5 == { st := .held, owner := 2, epoch := 0 } && t.lockReply.1 % 4 == 3) = true := by decide +kernel
theorem test_lock_misuse : gives (.lockMisuseWrite .dmp 15 4095) up (fun t => t.odGet 0x520A 16 == 1 && t.locks == []) = true := by decide +kernel

-- ## Windows and remote requests

/-- The body of a window command on slot 7 of die 0: RD and WR, LEN 0x100 at 0x4000 of region 0, its tag 0 is set. -/
def wEntry (op any : Nat) : Nat := op + (7 + 3 * 2 ^ 20 + any * 2 ^ 23 + reg 0x4000 * 2 ^ 128 + 0x100 * 2 ^ 208 + 0xFFFF * 2 ^ 256) * 2 ^ 256
def wAny : Nat := 0x50 + (3 * 2 ^ 20 + 2 ^ 23 + reg 0x4000 * 2 ^ 128 + 0x100 * 2 ^ 208 + 0xFFFF * 2 ^ 256) * 2 ^ 256
def cEntry : Nat := 0x51 + 7 * 2 ^ 256
def opened (n : Nat) : Slot := { st := .opened, gen := 5, ogen := 4, inflight := n, acl := 0x8008, perm := 7, len := 0x1000, base := reg 0x1000 }

theorem test_window_hyps : (withCmd .started (wEntry 0x50 0)).windowErr (cmdOf .started (wEntry 0x50 0)) = none
    ∧ (withCmd .started wAny).windowErr (cmdOf .started wAny) = none
    ∧ (withCmd .started (wEntry 0x52 0)).windowErr (cmdOf .started (wEntry 0x52 0)) = none ∧ field cEntry 1023 275 = 0 := by decide +kernel
theorem test_windowOpen : gives (.windowOpen 0 0) ((withCmd .started (wEntry 0x50 0)).setSlot 7 { gen := 3 })
    (fun t => (t.slot 7).st == .opened && (t.slot 7).ogen == 3 && (t.slot 7).base == reg 0x4000 && t.cmds.map (·.result) == [7 + 3 * 2 ^ 17 + 3 * 2 ^ 33]) = true := by
  decide +kernel
theorem test_windowOpen_taken : gives (.windowOpen 0 0) ((withCmd .started (wEntry 0x50 0)).setSlot 7 (opened 0))
    (fun t => t.slot 7 == opened 0 && t.cmds.map (fun c => c.err.map (·.code)) == [some 0x0408]) = true := by decide +kernel
theorem test_windowOpen_any : gives (.windowOpen 0 0) ((withCmd .started wAny).setSlot 0 (opened 0)) (fun t => (t.slot 1).st == .opened) = true := by decide +kernel
theorem test_windowClose_free : gives (.windowClose 0 0) (withCmd .started cEntry) (fun t => t.cmds.map (fun c => (c.phase, c.result)) == [(.ended, 7)]) = true := by decide +kernel
theorem test_windowClose_other : gives (.windowClose 0 0) ((withCmd .started cEntry).setSlot 7 { opened 0 with owner := 1 })
    (fun t => t.cmds.map (fun c => c.err.map (·.code)) == [some 0x0403]) = true := by decide +kernel
theorem test_windowClose : gives (.windowClose 0 0) ((withCmd .started cEntry).setSlot 7 (opened 1))
    (fun t => (t.slot 7).st == .closing && (t.slot 7).closers == [(0, 0)] && t.cmds.map (·.phase) == [.running]) = true := by decide +kernel
/-- A PENDING slot at which a request of core 3's own waits; another ring's SLOT_WRITE rewrites it. -/
def pending7 (n : Nat) : Slot := { opened n with st := .pending, writer := some (1, 5), shBase := reg 0x4000, shLen := 0x100, shPerm := 3, shAcl := 0xFFFF }
def ownHeld (s : State) : State := s.setCore 3 { atSlots := [{ r := 2, p := 2, slot := 7, off := 0, len := 16, bit := 0 }] }
def closePending : State :=
  let s := ownHeld ((withCmd .started cEntry).setSlot 7 (pending7 2))
  { s with cmds := s.cmds ++ [{ cmdOf .running (wEntry 0x52 0) with r := 1, p := 5 }] }
theorem test_windowClose_pending : (closePending.slot 7).st = .pending ∧ (∀ d ∈ closePending.cmds, d.r = 1 → d.p = 5 → d.err = none)
    ∧ gives (.windowClose 0 0) closePending (fun t => (t.slot 7).st == .closing && (t.slot 7).inflight == 2
      && (t.core 3).atSlots.map (·.verdict) == [some (some 0x0401)]
      && t.cmds.map (fun c => (c.phase, c.err.map (·.code))) == [(.running, none), (.ended, some 0x0401)]) = true := by decide +kernel
theorem test_windowClose_again : gives (.windowClose 0 0) ((withCmd .started cEntry).setSlot 7 { opened 1 with st := .closing, closers := [(3, 3)] })
    (fun t => (t.slot 7).closers == [(3, 3), (0, 0)]) = true := by decide +kernel
theorem test_windowCloseDone : gives (.windowCloseDone 0 7) ((withCmd .running cEntry).setSlot 7 { opened 0 with st := .closing, closers := [(0, 0)], gen := 65535 })
    (fun t => (t.slot 7).st == .free && (t.slot 7).gen == 0 && t.cmds.map (·.phase) == [.ended]) = true
    ∧ becomes (.windowCloseDone 0 7) (up.setSlot 7 { opened 1 with st := .closing }) (up.setSlot 7 { opened 1 with st := .closing }) = true := by decide +kernel
theorem test_slotWrite_now : gives (.slotWrite 0 0) ((withCmd .started (wEntry 0x52 0)).setSlot 7 (opened 0))
    (fun t => (t.slot 7).gen == 6 && (t.slot 7).ogen == 4 && (t.slot 7).len == 0x100 && t.cmds.map (·.phase) == [.ended]) = true := by decide +kernel
theorem test_slotWrite_later : gives (.slotWrite 0 0) ((withCmd .started (wEntry 0x52 0)).setSlot 7 (opened 2))
    (fun t => (t.slot 7).st == .pending && (t.slot 7).shLen == 0x100 && (t.slot 7).len == 0x1000 && (t.slot 7).writer == some (0, 0)) = true := by decide +kernel
theorem test_slotWrite_codes : gives (.slotWrite 0 0) (withCmd .started (wEntry 0x52 0)) (fun t => t.cmds.map (fun c => c.err.map (·.code)) == [some 0x0401]) = true
    ∧ gives (.slotWrite 0 0) ((withCmd .started (wEntry 0x52 0)).setSlot 7 { opened 0 with owner := 2 })
        (fun t => t.cmds.map (fun c => c.err.map (·.code)) == [some 0x0403]) = true
    ∧ gives (.slotWrite 0 0) ((withCmd .started (wEntry 0x52 0)).setSlot 7 { opened 1 with st := .pending })
        (fun t => t.cmds.map (fun c => c.err.map (·.code)) == [some 0x040A]) = true := by decide +kernel
def rewriting (n : Nat) : State :=
  (withCmd .running (wEntry 0x52 0)).setSlot 7 { opened n with st := .pending, writer := some (0, 0), shBase := reg 0x4000, shLen := 0x100, shPerm := 3, shAcl := 0xFFFF }
theorem test_rewriteApply : gives (.slotRewriteApply 0 7) (rewriting 0) (fun t => (t.slot 7).st == .opened && (t.slot 7).base == reg 0x4000 && (t.slot 7).gen == 6
    && t.cmds.map (·.phase) == [.ended]) = true := by decide +kernel
-- the core's own held request is accepted under the new mapping, and is in flight
theorem test_rewriteApply_own : gives (.slotRewriteApply 0 7) (ownHeld ((rewriting 0).setSlot 7 { pending7 0 with writer := some (0, 0), shAcl := 0x8000 })) (fun t => (t.slot 7).inflight == 1 && (t.core 3).atSlots.map (·.verdict) == [some none]) = true := by
  decide +kernel
theorem test_rewriteTimeout : gives (.slotRewriteTimeout 0 7) (rewriting 1) (fun t => (t.slot 7).st == .opened && (t.slot 7).base == reg 0x1000
    && bitOf (t.odGet 0x4300 1) 3 && t.cmds.map (fun c => c.err.map (·.code)) == [some 0x0409]) = true := by decide +kernel

/-- A request of package 1 on slot 7 of die 0. -/
def rq (type len off : Nat) : Msg := { hdr := hdrOf type len 7 off 0, data := [] }
def slot7 (g : Slot) : State := (routed0 up).setSlot 7 g
theorem test_request_type : (rq 0x01 16 0).type = 0x01 ∧ (rq 0x01 16 0).dpkg = (slot7 (opened 0)).pkg ∧ (rq 0x01 16 0).isBound = false := by decide +kernel
-- LEN 16 × 16 bytes from 0xF00 end at the extent 0x1000; from 0xF10 they pass it
theorem test_request_in : gives (.linkRd (rq 0x01 16 0xF00)) (slot7 (opened 0))
    (fun t => (t.slot 7).inflight == 1 && t.accepted.map (fun a => (a.addr, a.ogen)) == [(reg 0x1F00, 4)]) = true := by decide +kernel
theorem test_request_out : gives (.linkRd (rq 0x01 16 0xF10)) (slot7 (opened 0)) (fun t => t.accepted == [] && t.odGet 0x5310 1 == 1 && t.slot 7 == opened 0) = true := by
  decide +kernel
theorem test_request_closed : gives (.linkWr (rq 0x02 1 0)) (slot7 {}) (fun t => t.odGet 0x5310 1 == 1) = true := by decide +kernel
theorem test_request_denied : gives (.linkAt (rq 0x08 4 0)) (slot7 { opened 0 with perm := 3 }) (fun t => t.odGet 0x5310 1 == 1 && t.accepted == []) = true
    ∧ gives (.linkKp (rq 0x09 5 0)) (slot7 (opened 0)) (fun t => t.accepted.length == 1) = true := by decide +kernel
/-- The same request behind another of its port, channel and class; the buffer of held requests of die 0 full. -/
def behind : State := { slot7 (opened 0) with rx := [(0, rq 0x02 1 0x10), (0, rq 0x02 1 0)] }
theorem test_request_behind : behind.isFront (rq 0x02 1 0) = false ∧ behind.isFront (rq 0x02 1 0x10) = true ∧ becomes (.linkWr (rq 0x02 1 0)) behind behind = true := by
  decide +kernel
def heldFull : State := { slot7 { opened 1 with st := .pending } with heldReqs := List.replicate 256 (0, 7, rq 0x02 1 0x20) }
theorem test_request_full : heldFull.heldCount 0 = 256 ∧ heldFull.isFront (rq 0x02 1 0) = true
    ∧ gives (.linkWr (rq 0x02 1 0)) heldFull (fun t => t.accepted == [] && t.heldReqs.length == 256) = true := by decide +kernel
theorem test_request_held : gives (.linkWr (rq 0x02 1 0)) (slot7 { opened 1 with st := .pending }) (fun t => t.heldReqs == [(0, 7, rq 0x02 1 0)] && t.odGet 0x5311 1 == 1) = true := by
  decide +kernel

/-- A response to tag 3 from slot 9, and a state that waits for it. -/
def rs (type status : Nat) (data : List Byte) : Msg :=
  { hdr := Hdr.bits { type := type, len := data.length / 16, tag := 3, spkg := 1, slot := 9, gen := 6, status := status }, data := data }
def txn3 (k : TxnKind) : Txn := { tag := 3, r := 0, p := 0, core := 0, kind := k, pkg := 1, die := 0, slot := 9, off := 0, len := 16 }
def awaiting (k : TxnKind) : State := { mm .running 0 with txns := [txn3 k] }
def eight (v : Nat) : List Byte := bytesOf v 16
theorem test_response_late : gives (.wack (rs 0x11 0 [])) up (fun t => t.odGet 0x5312 1 == 1) = true ∧ (rs 0x11 0 []).dpkg = up.pkg := by decide +kernel
theorem test_response_found : ((awaiting .read).txns.find? fun y => y.tag == (rs 0x10 0 (eight 0)).tag) = some (txn3 .read)
    ∧ (awaiting .read).bound ⟨0, 0, 0, 0⟩ 1 0 9 = none := by decide +kernel
theorem test_rdata : gives (.rdata (rs 0x10 0 (eight 5))) (awaiting .read) (fun t => t.txns == [] && t.arrived.map (·.data) == [eight 5] && t.bound ⟨0, 0, 0, 0⟩ 1 0 9 == some 6) = true := by
  decide +kernel
theorem test_wack : gives (.wack (rs 0x11 0 [])) (awaiting .write) (fun t => t.txns == [] && t.cmds.map (·.err) == [none]) = true := by decide +kernel
theorem test_wack_rebound : (((awaiting .write).bindWindow ⟨0, 0, 0, 0⟩ 1 0 9 2).bound ⟨0, 0, 0, 0⟩ 1 0 9) = some 2
    ∧ gives (.wack (rs 0x11 0 [])) ((awaiting .write).bindWindow ⟨0, 0, 0, 0⟩ 1 0 9 2) (fun t => t.cmds.map (fun c => c.err.map (·.code)) == [some 0x0405]) = true := by decide +kernel
theorem test_adata : gives (.adata (rs 0x12 0 (eight (5 + 2 ^ 64)))) (awaiting .signalAdd) (fun t => t.cmds.map (fun c => (c.phase, c.result)) == [(.ended, 5)]) = true := by
  decide +kernel
-- the old value and VALUE pass 2^64 − 1
theorem test_adata_saturates : let s := { signalling .running 0x41 0 1 farWord 1 with txns := [txn3 .signalAdd] }
    gives (.adata (rs 0x12 0 (eight (2 ^ 64 - 1)))) s (fun t => t.cmds.map (fun c => (c.phase, c.result, c.flags)) == [(.ended, 2 ^ 64 - 1, 2 ^ 8)]) = true := by decide +kernel
theorem test_rdata_wait : let s := { signalling .running 0x42 0 5 farWord 1 with txns := [txn3 .waitRead] }
    gives (.rdata (rs 0x10 0 (eight 5))) s (fun t => t.cmds.map (fun c => (c.phase, c.result)) == [(.ended, 5)] && t.txns == []) = true
    ∧ gives (.rdata (rs 0x10 0 (eight 4))) s (fun t => t.cmds.map (·.phase) == [.running] && t.txns == []) = true := by decide +kernel
theorem test_response_behind : let s := { awaiting .write with rx := [(0, rs 0x11 0 (eight 1)), (0, rs 0x11 0 [])] }
    s.isFront (rs 0x11 0 []) = false ∧ becomes (.wack (rs 0x11 0 [])) s s = true := by decide +kernel
theorem test_refuse : gives (.refuse (rs 0x13 0x0402 [])) (awaiting .read) (fun t => t.cmds.map (fun c => c.err.map (·.code)) == [some 0x0402]
    && t.arrived.map (·.err) == [0x0402]) = true := by decide +kernel
theorem test_refuse_signal : gives (.refuse (rs 0x13 0x0402 [])) (awaiting .signalAdd) (fun t => t.cmds.map (·.phase) == [.ended]) = true := by decide +kernel
theorem test_remoteTimeout : gives (.remoteTimeout 3) (awaiting .write) (fun t => t.txns == [] && t.cmds.map (fun c => c.err.map (·.code)) == [some 0x0407]) = true := by
  decide +kernel
theorem test_remoteTimeout_wait : gives (.remoteTimeout 3) (awaiting .waitRead) (fun t => t.cmds.map (·.phase) == [.ended]) = true := by decide +kernel

/-- A released unit of core 0 whose records have left, the last of them awaiting its answer. -/
def lastAnswer : State :=
  { (mm .running 0).setCore 0 { units := [{ chunk0 with st := .released }] } with
    txns := [{ txn3 .write with unit := some 0 }], ops := [mmOp (some 5) 1 1], tickets := [(0, 0, 7)] }
theorem test_wack_ends : (lastAnswer.unit 0 0).map (·.st) = some .released
    ∧ gives (.wack (rs 0x11 0 [])) lastAnswer (fun t => (t.core 0).units == [] && t.ops.map (·.landed) == [1] && t.tickets == []) = true := by decide +kernel
theorem test_portStalled : (slot7 (opened 0)).portStalled (rq 0x01 16 0) = false ∧ (slot7 (opened 0)).heldCount 0 < 256 := by decide +kernel

/-- A message for package 1, and one of management for this package. -/
def away1 : Msg := { hdr := Hdr.bits { type := 0x01, len := 4, spkg := 2, dpkg := 1 }, data := [] }
def mgmt0 : Msg := { hdr := Hdr.bits { type := 0x20, spkg := 1 }, data := [] }
theorem test_transit_routes : (routed0 up).egressPort 0 1 = some 0 ∧ (routed0 up).linkOn 0 = true ∧ up.egressPort 0 1 = none ∧ ¬ away1.dpkg = up.pkg := by decide +kernel
theorem test_transit_behind : let s := { routed0 up with rx := [(3, rq 0x01 16 0), (3, away1)] }
    s.isFront away1 = false ∧ becomes (.transitMessage 3 away1) s s = true ∧ (routed0 up).diesFenced.contains 1 = false
    ∧ (routed0 up).isFront away1 = true ∧ (routed0 up).portStalled away1 = false := by decide +kernel
theorem test_transit_lost : gives (.transitMessage 3 away1) up (fun t => t.odGet 0x5312 1 == 1 && t.egress == []) = true := by decide +kernel
theorem test_transit_waits : gives (.transitMessage 3 away1) ((routed0 up).setPort 0 { retraining := true }) (fun t => t.egress.map (·.pp) == [0]) = true := by decide +kernel
theorem test_transit_leaves : gives (.transitMessage 3 away1) (routed0 up) (fun t => t.egress == [] && (t.port 0).retry.length == 1 && t.odGet 0x5400 1 == 1
    && (t.port 0).credits.getD 0 0 == 767) = true := by decide +kernel
-- a message that arrived at die 1 asks at the egress arbiter of port 0, as requester 32
theorem test_transit_crosses : let s := { (routed0 up).setPort 0 { retraining := true } with routes := [(4096 + 1, 0x8000)] }
    s.egressPort 1 1 = some 0 ∧ vcOf away1.type ≠ some 1 ∧ gives (.transitMessage 11 away1) s
      (fun t => t.egress == [] && (t.arbiter (.egress 0)).committed.map (·.via) == [some 11] && (t.arbiter (.egress 0)).owner == some 32) = true := by
  decide +kernel
theorem test_transit_own : becomes (.transitMessage 3 mgmt0) up up = true ∧ gives (.mgmt mgmt0) up (fun t => t.mgmtIn == [mgmt0]) = true := by decide +kernel

-- ## The Almanac

/-- A save or load of entries 3 and 4 of die 1, at 0x1000 of region 0. -/
def aEntry (op : Nat) : Nat := op + (reg 0x1000 + 3 * 2 ^ 97 + 2 * 2 ^ 111 + 1 * 2 ^ 126) * 2 ^ 256
def alm1 : Alm := { hist := 0x3F800000 :: List.replicate 15 0, valid := true, head := 1, count := 1, use := -2, next := 3, fmt := 0x11, owner := some 0 }
/-- The image of an entry, bit by bit: history slot 0, VALID, HEAD, COUNT, MARGIN 1, E_USE 0xFE, E_NEXT 3, FMT. -/
def almImg : Nat := 0x3F800000 + 2 ^ 576 + 1 * 2 ^ 604 + 1 * 2 ^ 608 + 1 * 2 ^ 613 + 0xFE * 2 ^ 616 + 3 * 2 ^ 624 + 0x11 * 2 ^ 632
def saving : State := ((withCmd .started (aEntry 0x60)).setAlm (16384 + 3) alm1).setAlm (16384 + 4) { alm1 with valid := false }
def loading (img : Nat) : State := { withCmd .started (aEntry 0x61) with mem := Mem.writeNat [] (reg 0x1000) (almImg + img * 2 ^ 768) 192 }
theorem test_save_hyps : saving.almErr (cmdOf .started (aEntry 0x60)) true = none ∧ saving.memWf = true ∧ saving.clearingIn (reg 0x1000) 192 = false
    ∧ (saving.almEntry (almIndex 1 4)).bad = false := by decide +kernel
theorem test_save : gives (.almanacSave 0 0) saving (fun t => Mem.readNat t.mem (reg 0x1000) 192 == almImg + (almImg - 2 ^ 576) * 2 ^ 768
    && t.cmds.map (·.phase) == [.ended]) = true := by decide +kernel
theorem test_load_hyps : (loading 0).almErr (cmdOf .started (aEntry 0x61)) false = none ∧ (loading 0).snapshotHeld 1 3 2 = false
    ∧ (loading 0).badIn (reg 0x1000) 192 = none := by decide +kernel
theorem test_load : gives (.almanacLoad 0 0) (loading 0) (fun t => t.almEntry (16384 + 3) == alm1 && t.almEntry (16384 + 4) == Alm.ofBits 0 (some 0)
    && t.cmds.map (·.phase) == [.ended]) = true := by decide +kernel
-- the same in package 1
def loadingIn1 : State :=
  { (withCmd .started (aEntry 0x61 + 2 ^ 52 * 2 ^ 256)).odSet 0x2001 0 1 with mem := Mem.writeNat [] (reg 0x1000) almImg 192 }
theorem test_load_package1 : (loading 0).placeErr (reg 0x1000) 192 = none
    ∧ loadingIn1.almErr (cmdOf .started (aEntry 0x61 + 2 ^ 52 * 2 ^ 256)) false = none ∧ loadingIn1.placeErr (2 ^ 52 + reg 0x1000) 192 = none
    ∧ gives (.almanacLoad 0 0) loadingIn1 (fun t => t.almEntry (16384 + 3) == alm1 && t.cmds.map (·.err) == [none]) = true := by decide +kernel
-- COUNT 17 in the second image
theorem test_load_bad : almImageBad (17 * 2 ^ 608) = true ∧ gives (.almanacLoad 0 0) (loading (17 * 2 ^ 608))
    (fun t => t.alm == [] && t.cmds.map (·.err) == [some { code := 0x0112, dkind := 5, detail := 4 }]) = true := by decide +kernel

/-- The MATMUL's pre-pass on entry 3 has found the maximum 448. -/
def seeding : Op :=
  { mmOp (some 5) 1 1 with maxima := [(3, 0x43E00000)], landed := 1, snaps := [{ entry := 3, use := 0, next := 0, seeding := true }] }
theorem test_seed_hyps : ((running seeding (mm .running 0)).runningOp 0 0) = some seeding ∧ seeding.seedEntry = some 3
    ∧ (running seeding (mm .running 0)).opQuiet seeding = true := by decide +kernel
theorem test_seed : gives (.almanacSeed 0 0) (running seeding (mm .running 0)) (fun t => (t.almEntry 3).valid && (t.almEntry 3).count == 1
    && (t.almEntry 3).hist.head? == some 0x43E00000 && t.odGet 0x5301 1 == 1 && t.ops.map (fun o => o.blocks.map (·.next)) == [[0]]) = true := by decide +kernel
-- 448 into E4M3 with MARGIN 1: ceil(log2(448 / 448)) + 1; 449 needs one more
theorem test_seed_scale : (({} : Alm).seed 0x43E00000 0x11).next = 1 ∧ (({} : Alm).seed 0x43E08000 0x11).next = 2 := by decide +kernel

-- ## Arbitration

def idle0 : Arbiter := { owner := some 3 }
def reqBy (n bytes : Nat) : ArbReq := { req := n, kind := .demand, total := bytes, left := bytes, latest := 0, since := 0 }
def arbState (v : Arbiter) : State := up.setArbiter (.egress 0) v
theorem test_arb_mask : (arbState idle0).arbMasked (.egress 0) 3 = false ∧ (arbState idle0).arbMasked (.egress 0) 30 = true ∧ (arbState idle0).gentle (.egress 0) = false := by
  decide +kernel
theorem test_arb_masked : becomes (.arbiterRequest (.egress 0) 0 30 .outbound 512) (arbState idle0) (arbState idle0) = true := by decide +kernel
theorem test_arb_parked : gives (.arbiterRequest (.egress 0) 0 3 .outbound 512) (arbState idle0) (fun t => (t.arbiter (.egress 0)).cur.map (·.req) == some 3
    && (AMap.getD (t.arbiter (.egress 0)).recs 3 {}).grants == 1) = true := by decide +kernel
theorem test_arb_outranks : outranks (.egress 0) (some 3) (reqBy 5 512) (reqBy 3 512) = true ∧ outranks (.egress 0) (some 3) (reqBy 2 512) (reqBy 3 512) = false
    ∧ gives (.arbiterRequest (.egress 0) 0 5 .outbound 512) (arbState { idle0 with cur := some { reqBy 3 512 with left := 128 } })
      (fun t => (t.arbiter (.egress 0)).cur == none && (t.arbiter (.egress 0)).waiting.map (fun x => (x.req, x.left)) == [(3, 512), (5, 512)]) = true := by decide +kernel
-- with an earlier request of its own waiting, a requester takes no grant away
theorem test_arb_behind : gives (.arbiterRequest (.egress 0) 0 5 .outbound 512) (arbState { idle0 with cur := some (reqBy 3 512), waiting := [reqBy 5 256] })
    (fun t => (t.arbiter (.egress 0)).cur == some (reqBy 3 512) && (t.arbiter (.egress 0)).waiting.map (·.total) == [256, 512]) = true := by decide +kernel
-- a grant does not stay parked on a requester that is masked
theorem test_arb_unpark : gives (.arbiterRequest (.egress 0) 0 30 .outbound 512) (arbState { owner := some 30 })
    (fun t => (t.arbiter (.egress 0)).owner != some 30 && (t.arbiter (.egress 0)).waiting == []) = true := by decide +kernel
theorem test_arb_waits : gives (.arbiterRequest (.egress 0) 0 2 .outbound 512) (arbState { idle0 with cur := some (reqBy 3 512) })
    (fun t => (t.arbiter (.egress 0)).cur == some (reqBy 3 512) && (t.arbiter (.egress 0)).waiting.map (·.req) == [2]) = true := by decide +kernel
-- 128 bytes a cycle: the transfer ends in its fourth cycle and the waiting requester takes the fifth
theorem test_arb_runs : gives (.arbiterRequest (.egress 0) 5 3 .outbound 0) (arbState { idle0 with cur := some (reqBy 3 512), waiting := [reqBy 2 256, reqBy 4 256] })
    (fun t => (t.arbiter (.egress 0)).cur.map (fun c => (c.req, c.granted)) == some (4, 5)) = true := by decide +kernel
theorem test_arb_egress : ({ idle0 with waiting := [reqBy 2 256, reqBy 4 256] } : Arbiter).cur = none ∧
    ((({ idle0 with waiting := [reqBy 2 256, reqBy 4 256] } : Arbiter).tick (.egress 0) false).cur.map (·.req)) = some 4 := by decide +kernel
-- the earlier latest-service time is granted, whichever asked first
def timed (n latest : Nat) : ArbReq := { req := n, kind := .demand, total := 256, left := 256, latest := latest, since := 0 }
theorem test_arb_region : 0 < (((timed 2 20).latest : Int) - (timed 5 10).latest) % 2 ^ 24 ∧ (((timed 2 20).latest : Int) - (timed 5 10).latest) % 2 ^ 24 < 2 ^ 23
    ∧ ((({ waiting := [timed 2 20, timed 5 10] } : Arbiter).tick (.region 0) false).cur.map (·.req)) = some 5
    ∧ ((({ waiting := [timed 5 10, timed 2 20] } : Arbiter).tick (.region 0) false).cur.map (·.req)) = some 5 := by decide +kernel
theorem test_arb_clear : gives (.arbiterCountersClear 0) (arbState { idle0 with recs := [(3, { grants := 7 })] }) (fun t => t.arbiter (.egress 0) == idle0) = true
    ∧ (arbState idle0).serving = true := by decide +kernel

-- ## The matrix array

/-- The MATMUL running on core 0 with its one tile, at A = 3 and B = −5. -/
def tiled (u : WorkUnit) (k : Core) : State :=
  let s := (claiming (mmOp (some 5) 1 1)).odSet 0x3170 0 3
  { s.setCore 0 { k with units := u :: k.units, shares := (s.core 0).shares, nextId := 8 } with
    mem := Mem.writeNat (Mem.writeNat [] (reg 0x1000) 3 1) (reg 0x2000) 0xFB 1, tickets := [(0, 0, 7)] }
def openU : WorkUnit := { chunk0 with st := .open_, contribs := [(0, 0, BitVec.ofNat 1024 (mmEntry 0))] }
/-- The tile when its K is through, in the shadow set, drained. -/
def doneU : WorkUnit := { openU with st := .finished, ci := 1, ran := 1, acc := [(0, { tot := 2 ^ 32 - 15 })] }

theorem test_kStep_hyps : (tiled openU {}).unit 0 0 = some openU ∧ (tiled openU {}).coreRuns 0 = true ∧ (openU.contributor.map fun c => (c.r, c.p, c.actEn, c.shape, c.mode)) = some (0, 0, false, 0, 0)
    ∧ ((openU.contributor.bind fun c => ((tiled openU {}).stepIn 0 openU c none 0).toOption).map (·.route)) = some .dense
    ∧ (openU.contributor.bind fun c => ((tiled openU {}).stepIn 0 openU c none 0).toOption.bind fun x =>
        ((tiled openU {}).stepDeal 0 openU c [x]).toOption).isSome = true
    ∧ (tiled openU {}).odGet 0x3133 1 % 2 = 0 := by decide +kernel
-- 3 × −5
theorem test_kStep : gives (.kStep 0 0 none) (tiled openU {}) (fun t => ((t.core 0).units.map fun u => ((AMap.getD u.acc 0 {}).tot, u.st)) == [(2 ^ 32 - 15, .finished)]) = true := by
  decide +kernel
theorem test_kStep_saturates : gives (.kStep 0 0 none) (tiled { openU with acc := [(0, { tot := 2 ^ 31 + 14 })] } {})
    (fun t => ((t.core 0).units.map fun u => ((AMap.getD u.acc 0 {}).tot, (AMap.getD u.acc 0 {}).sat)) == [(2 ^ 31, true)]) = true := by decide +kernel

/-- The op leaves its tile open (END = 0): the flags that the tile has earned are its own as its K ends. -/
def openOp : State :=
  let e := BitVec.ofNat 1024 (mmEntry 0 - 2 ^ 357)
  let s := tiled { openU with contribs := [(0, 0, e)], flags := 2 ^ flagMETA_DROP } {}
  { s with cmds := [{ cmdOf .running 0 with entry := e }] }
theorem test_kStep_open : (cmdOf .running (mmEntry 0 - 2 ^ 357)).ends = false ∧ (cmdOf .running (mmEntry 0)).ends = true
    ∧ gives (.kStep 0 0 none) openOp (fun t => t.cmds.map (·.flags) == [2 ^ flagMETA_DROP] && (t.core 0).units.map (·.st) == [.finished]) = true := by decide +kernel

/-- A range of 128 bits for 32-bit sums; another tile holds the upper half. -/
def otherU : WorkUnit := { openU with id := 1, lo := 128, atid := 4, r := 1 }
theorem test_range_hyps : ((tiled { chunk0 with ticket := some 7 } {}).core 0).nextHeld 0 0 = some { chunk0 with ticket := some 7 }
    ∧ ((tiled { chunk0 with ticket := some 7 } {}).core 0).replayWaits { chunk0 with ticket := some 7 } = false
    ∧ rangeBits 0 0 ≤ 128 ∧ (otherU.active = true) ∧ (otherU.lo + otherU.bits ≤ 256) := by decide +kernel

theorem test_swap_hyps : (tiled doneU {}).mayEnd doneU = true ∧ (tiled doneU {}).unit 0 0 = some doneU := by decide +kernel
theorem test_swap : gives (.tileSwap 0 0) (tiled doneU {}) (fun t => (t.core 0).shadow == [0] && (t.core 0).units.map (·.st) == [.shadow]) = true := by decide +kernel
theorem test_swap_waits : gives (.tileSwap 0 0) (tiled doneU { shadow := [1], units := [{ doneU with id := 1, st := .shadow }] })
    (fun t => (t.core 0).shadow == [1] && t.odGet 0x5118 1 == 1) = true := by decide +kernel
theorem test_swap_unnoticed : gives (.tileSwap 0 0) (tiled doneU { shadow := [1], units := [{ doneU with id := 1, st := .shadow }, { openU with id := 2, lo := 64 }] })
    (fun t => (t.core 0).shadow == [1] && t.odGet 0x5118 1 == 0) = true := by decide +kernel
-- STEP 16: from 0, a window of 37,152 needs no idle cycle, and one of 74,304 needs 16
theorem test_pacing : gives (.pacingWindow 0 37152) (up.odSet 0x3114 1 16) (fun t => (t.core 0).activity == 37152 && t.odGet 0x5119 1 == 0) = true
    ∧ gives (.pacingWindow 0 74304) (up.odSet 0x3114 1 16) (fun t => (t.core 0).activity == 37152 && t.odGet 0x5119 1 == 16) = true := by decide +kernel

def shadowU : WorkUnit := { doneU with st := .shadow }
def draining : State := tiled shadowU { shadow := [0] }
theorem test_drain_hyps : (draining.core 0).lastDrained = none ∧ (draining.core 0).shadow.head?.bind (draining.unit 0) = some shadowU
    ∧ shadowU.contribs.getLast?.map contribCmd = some (cmdOf .running (mmEntry 0)) ∧ (cmdOf .running (mmEntry 0)).hStat = 0
    ∧ ((draining.drainSlot (draining.drainEnv 0 shadowU (cmdOf .running (mmEntry 0)) (mmOp (some 5) 1 1) []) shadowU).toOption.map fun o => o.recs.length) = some 1 := by
  decide +kernel
def drained (u : WorkUnit) : State := tiled u { lastDrained := some 0, outq := [{ unit := 0, r := 0, p := 0, ticket := some 7, dest := .store (reg 0x3000) (line 5) 0xFF }] }
theorem test_verdict_hyps : ((drained { doneU with st := .drained }).core 0).lastDrained.bind ((drained { doneU with st := .drained }).unit 0) = some { doneU with st := .drained }
    ∧ (mmOp (some 5) 1 1).training (cmdOf .running (mmEntry 0)) = false := by decide +kernel
theorem test_verdict_passes : gives (.tileVerdict 0 false) (drained { doneU with st := .drained }) (fun t => (t.core 0).units.map (·.st) == [.released]
    && (t.core 0).outq.length == 1 && (t.core 0).lastDrained == none) = true := by decide +kernel
theorem test_verdict_fails : gives (.tileVerdict 0 true) (drained { doneU with st := .drained })
    (fun t => (t.core 0).units.map (fun u => (u.st, u.replay, u.acc)) == [(.held, 1, [])] && (t.core 0).outq == [] && (t.core 0).failTimes == [0]) = true := by decide +kernel
-- FENCE_LIM of 1 is reached by the first failure: the unit waits for the fence as it is
theorem test_verdict_fences : let s := (drained { doneU with st := .drained }).odSet 0x3170 0 1
    (s.odGet 0x3170 0 ≤ ((s.core 0).failTimes.filter fun x => s.timeUs < x + 1000000).length + 1)
    ∧ gives (.tileVerdict 0 true) s (fun t => (t.core 0).units.map (fun u => { u with fail := none }) == [{ doneU with st := .drained }] && (t.core 0).outq.length == 1
      && (t.core 0).lastFail == some { kind := .parity }) = true := by decide +kernel
/-- A chunk whose next part begins at its position 5. -/
def partDone : State :=
  let s := chunking (gathering .running 0x20 0)
  s.setCore 0 { s.core 0 with units := [{ chunk0 with st := .drained, next := 5 }], lastDrained := some 0
                              outq := [{ unit := 0, r := 0, p := 0, ticket := some 7, dest := .store (reg 0x2000) (line 5) 0xFF }] }
theorem test_verdict_part : ({ chunk0 with next := 5 } : WorkUnit).isLast = false ∧ seqOp.training (cmdOf .running (gEntry 0x20 0)) = false
    ∧ gives (.tileVerdict 0 false) partDone (fun t => (t.core 0).units.map (fun u => (u.id, u.st, u.sub, u.next)) == [(0, .released, 0, 5), (1, .held, 5, 0)]
      && t.tickets == [(0, 1, 7)]) = true := by decide +kernel
theorem test_verdict_data : gives (.tileVerdict 0 false) (drained { doneU with st := .drained, replay := 1, fail := some { kind := .input, addr := reg 0x1000 }, last := some { kind := .input, addr := reg 0x1000 } })
    (fun t => t.cmds.map (fun c => c.err.map (·.code)) == [some 0x0701]) = true := by decide +kernel

-- ## Links below the message

/-- A flit that carries one RD of package 1, its sequence number and NAK; its FCRC, computed apart by the CRC-32 of IEEE 802.3, for the flit with
number 0 and no NAK. -/
def rdHdr : Nat := 0x01 + 4 * 2 ^ 8 + 3 * 2 ^ 28 + 2 ^ 47
def flit0 : BitVec 2048 := BitVec.ofNat 2048 (rdHdr * 2 ^ 128 + 0x938C150B * 2 ^ 96)
/-- The same with another sequence number: its FCRC is wrong, as the one of flit 0 stands in it; `mkFlit` gives the right one. -/
def flit1 : BitVec 2048 := mkFlit 1 0 false 0 [0, 0, 0, 0, 0, 0, 0, 0] (bytesOf rdHdr 240)
theorem test_flit_crc : field flit0.toNat 127 96 = flitCrc flit0 ∧ mkFlit 0 0 false 0 [0, 0, 0, 0, 0, 0, 0, 0] (bytesOf rdHdr 240) = flit0
    ∧ ¬ field (flit0.toNat + 2 ^ 84) 127 96 = flitCrc (BitVec.ofNat 2048 (flit0.toNat + 2 ^ 84)) := by decide +kernel
theorem test_flit_hyps : up.fnState .link 0 = 2 ∧ (up.port 0).retraining = false ∧ field flit0.toNat 95 84 = (up.port 0).rxSeq ∧ field flit1.toNat 95 84 ≠ (up.port 0).rxSeq
    ∧ field flit1.toNat 127 96 = flitCrc flit1 ∧ flit0.toNat / 2 ^ 384 = 0 ∧ field flit0.toNat 133 128 = 0x01 := by decide +kernel
theorem test_flit_in : gives (.flitReceive 0 true 0 flit0) (up.setPort 0 { retry := [(0, 0), (4090, 0), (5, 0)] })
    (fun t => t.rx == [(0, { hdr := BitVec.ofNat 256 rdHdr, data := [] })] && (t.port 0).rxSeq == 1 && (t.port 0).retry.map (·.1) == [5] && t.odGet 0x5401 1 == 1) = true := by decide +kernel
theorem test_flit_nak : gives (.flitReceive 0 false 0 flit0) up (fun t => (t.port 0).txSeq == 1 && (t.port 0).rxSeq == 0 && t.odGet 0x5404 1 == 1 && t.rx == []
    && (t.port 0).retry.map (fun f => bitOf f.2.toNat 71) == [true]) = true := by decide +kernel
theorem test_flit_full : gives (.flitReceive 0 false 0 flit0) (up.setPort 0 { retry := List.replicate 512 (0, 0) })
    (fun t => (t.port 0).nak && (t.port 0).retry.length == 512) = true := by decide +kernel
theorem test_flit_out : gives (.flitReceive 0 true 0 flit1) up (fun t => (t.port 0).rxSeq == 0 && t.rx == [] && t.odGet 0x5401 1 == 1) = true := by decide +kernel
theorem test_d2d : gives (.d2dFlitReceive 5 true true 0 [7]) up (fun t => AMap.find t.d2d 11 == some { expect := 1, received := [[7]] }) = true
    ∧ becomes (.d2dFlitReceive 5 true false 0 [7]) up up = true ∧ becomes (.d2dFlitReceive 5 false true 1 [7]) up up = true := by decide +kernel

-- lanes 0 to 3 are whole without lane 6; with 6, 0, 2 and 4 gone no pair is left
theorem test_lane_minWidth : field (up.odGet 0x3141 1) 5 4 = 2 ∧ widthOf [6] = (1, [0, 1, 2, 3]) ∧ widthOf [6, 0, 2, 4] = (3, []) := by decide +kernel
theorem test_lane_lost : gives (.laneLossOfLock 0 6) up (fun t => (t.port 0).removed == [6] && (t.port 0).retraining && t.fnState .link 0 == 2) = true := by decide +kernel
theorem test_lane_last : gives (.laneLossOfLock 0 4) (up.setPort 0 { removed := [6, 0, 2] }) (fun t => t.fnState .link 0 == 4 && (t.port 0).removed == [6, 0, 2, 4]) = true := by
  decide +kernel
-- 2.125 × 10^5 corrected symbols are allowed, one more is not
theorem test_lane_fec : becomes (.laneFecWindow 0 1 212500) up up = true ∧ gives (.laneFecWindow 0 1 212501) up (fun t => (t.port 0).removed == [1]) = true := by decide +kernel
theorem test_retrain_fails : gives (.linkRetrain 0 {} false) (up.setPort 0 { retraining := true, retry := [(0, 0)] })
    (fun t => t.fnState .link 0 == 4 && (t.port 0).retry == []) = true := by decide +kernel
-- the far end has removed every lane but the pair of 2 and 3
theorem test_retrain_far : gives (.linkRetrain 0 { far := 0xF3 } true) (up.setPort 0 { removed := [6] })
    (fun t => field (t.odGet 0x4140 1) 6 5 == 2 && field (t.odGet 0x4140 1) 14 7 == 0xC && t.odGet 0x5405 1 == 1) = true
    ∧ gives (.linkRetrain 0 { far := 0xF5 } true) (up.setPort 0 { removed := [1, 3] }) (fun t => t.fnState .link 0 == 4) = true := by decide +kernel
-- a STOPPING port ends its retraining as well, and loses lanes
theorem test_retrain_stopping : let s := (up.setFn .link 0 3).setPort 0 { retraining := true, retry := [(0, 0)] }
    gives (.linkRetrain 0 {} true) s (fun t => t.fnState .link 0 == 3 && !(t.port 0).retraining && (t.port 0).retry.length == 1 && t.odGet 0x5402 1 == 1) = true
    ∧ gives (.linkRetrain 0 {} false) s (fun t => t.fnState .link 0 == 4) = true
    ∧ gives (.laneLossOfLock 0 6) (up.setFn .link 0 3) (fun t => (t.port 0).retraining && t.fnState .link 0 == 3) = true
    ∧ gives (.flitReceive 0 true 0 flit0) (up.setFn .link 0 3) (fun t => t.rx.length == 1) = true := by decide +kernel
theorem test_retrain : gives (.linkRetrain 0 {} true) (up.setPort 0 { retraining := true, removed := [6], retry := [(0, 0)], resent := [(0, 16)] })
    (fun t => field (t.odGet 0x4140 1) 6 5 == 1 && t.odGet 0x5402 1 == 1 && t.odGet 0x4141 1 == 3 && (t.port 0).narrowed && !(t.port 0).retraining) = true := by decide +kernel

-- ## The object dictionary and its channels

/-- A frame of R374. -/
def oap (cmd seq index sub ty len off : Nat) (data : List Byte) : List Byte :=
  bytesOf (cmd + seq * 2 ^ 8 + index * 2 ^ 16 + sub * 2 ^ 32 + ty * 2 ^ 40 + len * 2 ^ 64 + off * 2 ^ 96) 16 ++ data
def node5 : State := up.odSet 0x1100 0 5
theorem test_oap_hears : node5.hears .can (oap 1 0 0x1101 0 3 0 0 []) = true ∧ up.hears .can (oap 1 0 0x1101 0 3 0 0 []) = false
    ∧ up.hears .mb0 (oap 1 0 0x1101 0 3 0 0 []) = true ∧ (node5.channel .can).xfer = none
    ∧ (node5.odEntry 0x1101 0).isSome = true ∧ node5.odEntry 0x1FFF 0 = none := by decide +kernel
-- 0x1101.00 reads 100 after reset, in 2 bytes
theorem test_oapRead : gives (.oapRead .can (oap 1 9 0x1101 0 3 0 0 [])) node5
    (fun t => t.canTx == [⟨false, 0x505, oap 0x81 9 0x1101 0 3 2 0 [100, 0, 0, 0]⟩]) = true := by decide +kernel
theorem test_oapRead_absent : gives (.oapRead .mb1 (oap 1 9 0x1FFF 0 3 0 0 [])) (up.setFn .host 1 2)
    (fun t => t.mb1.rsp == oap (0x81) 9 0x1FFF 0 (3 + 0x0901 * 2 ^ 8) 0 0 [] && t.mb1.done && t.msix == [⟨1, 0, 0⟩]) = true := by decide +kernel
theorem test_oapRead_len : node5.odEntry 0x1101 0 ≠ none ∧ gives (.oapRead .can (oap 1 9 0x1101 0 3 2 0 [])) node5
    (fun t => t.canTx.map (·.data) == [oap 0x81 9 0x1101 0 (3 + 0x0904 * 2 ^ 8) 2 0 []] && t.can.xfer == none) = true := by decide +kernel
theorem test_oapRead_type : gives (.oapRead .can (oap 1 9 0x1101 0 4 0 0 [])) node5
    (fun t => t.canTx.map (·.data) == [oap 0x81 9 0x1101 0 (4 + 0x0904 * 2 ^ 8) 0 0 []]) = true := by decide +kernel
def reading (n : Nat) : Xfer := { write := false, index := 0x6002, sub := 0, ty := 9, len := 0, nextOff := n, nextSeq := 4, data := List.replicate 60 7 }
def midRead : State := { node5 with can := { xfer := some (reading 48) } }
theorem test_oapRead_more : gives (.oapRead .can (oap 1 4 0x6002 0 9 0 48 [])) midRead
    (fun t => t.canTx.map (·.data) == [oap 0x81 4 0x6002 0 9 60 48 (List.replicate 12 7 ++ [0, 0, 0, 0])] && t.can.xfer == none) = true := by decide +kernel
theorem test_oapAbort : gives (.oapAbort .can (oap 3 4 0x6002 0 9 0 0 [])) midRead
    (fun t => t.can.xfer == none && t.canTx.map (·.data) == [oap 0x83 4 0x6002 0 9 0 0 []]) = true := by decide +kernel
theorem test_oapUnknown : gives (.oapUnknownCommand .can (oap 4 4 0x6002 0 9 0 0 [])) midRead
    (fun t => t.can.xfer == some (reading 48) && t.canTx.map (·.data) == [oap 0x84 4 0x6002 0 (9 + 0x0904 * 2 ^ 8) 0 0 []]) = true := by decide +kernel
theorem test_oapTimeout : gives (.oapTransferTimeout .can) midRead (fun t => t.can.xfer == none && t.canTx == []) = true := by decide +kernel
theorem test_heartbeat : gives .heartbeat { node5 with timeUs := 3999999 } (fun t => t.canTx.map (fun f => (f.id, f.data.drop 4)) == [(0x705, [3, 0, 0, 0])]) = true
    ∧ node5.node ≠ 0 ∧ node5.odGet 0x1101 0 ≠ 0 := by decide +kernel
theorem test_oapWrite : gives (.oapWrite .can (oap 2 1 0x1101 0 3 2 0 [0xF4, 1])) node5
    (fun t => t.odGet 0x1101 0 == 500 && AMap.find t.retained (0x1101 * 256) == some 500 && t.canTx.map (·.data) == [oap 0x82 1 0x1101 0 3 2 0 []]) = true := by decide +kernel
theorem test_oapWrite_range : gives (.oapWrite .can (oap 2 1 0x1101 0 3 2 0 [0x11, 0x27])) node5
    (fun t => t.odGet 0x1101 0 == 100 && t.canTx.map (·.data) == [oap 0x82 1 0x1101 0 (3 + 0x0903 * 2 ^ 8) 2 0 []]) = true := by decide +kernel
-- 10,000 is the last value of its range; a value of the reset leaves nothing to retain
theorem test_registerWrite : gives (.registerWrite 0x1101 0 [0x10, 0x27]) up (fun t => t.odGet 0x1101 0 == 10000) = true
    ∧ gives (.registerWrite 0x1101 0 [100, 0]) { up with retained := [(0x1101 * 256, 7)] } (fun t => t.retained == []) = true
    ∧ becomes (.registerWrite 0x1101 0 [0x11, 0x27]) up up = true ∧ becomes (.registerWrite 0x1101 0 [1]) up up = true := by decide +kernel
theorem test_registerWrite_w1c : gives (.registerWrite 0x4200 3 [0xF, 0, 0, 0]) ((up.setBit 0x4200 3 3).setBit 0x4200 3 2) (fun t => t.odGet 0x4200 3 == 0) = true
    ∧ gives (.registerWrite 0x4400 0 [2, 0, 0, 0]) ((up.setBit 0x4400 0 1).setBit 0x4400 0 2) (fun t => t.odGet 0x4400 0 == 4) = true := by decide +kernel
theorem test_registerWrite_rows : (odRow 0x1101).isSome = true ∧ (∀ row ∈ odRow 0x4105, odHolds row 128 = true) ∧ (∀ row ∈ odRow 0x4200, odHolds row 16 = true)
    ∧ (∀ row ∈ odRow 0x3180, odHolds row 0 = true ∧ row.size = 2) := by decide +kernel
-- port 1 writes into its own mailbox and clears its DONE; the other mailbox is not its own
theorem test_mailbox : let s := { up.setFn .host 1 2 with mb1 := { done := true } }
    s.portUp 1 = true ∧ gives (.registerWrite (0x10000 + 0x4004) 1 [7, 8]) s (fun t => (t.mb1.req.drop 4).take 2 == [7, 8] && t.mb1.req.length == 4096) = true
    ∧ gives (.registerWrite (0x10000 + 0x6008) 1 [2, 0, 0, 0]) s (fun t => !t.mb1.done) = true
    ∧ becomes (.registerWrite (0x10000 + 4) 1 [7, 8]) s s = true := by decide +kernel
-- MB_DB submits the zeros that REQ reads as, which is a request of CMD 0
theorem test_mailbox_db : gives (.registerWrite (0x10000 + 0x6000) 1 [1, 0, 0, 0]) (up.setFn .host 1 2)
    (fun t => t.mb1.done && t.mb1.rsp == oap 0x80 0 0 0 (0x0904 * 2 ^ 8) 0 0 []) = true
    ∧ becomes (.registerWrite (0x10000 + 0x6000) 1 [2, 0, 0, 0]) (up.setFn .host 1 2) (up.setFn .host 1 2) = true := by decide +kernel
-- region 0 is to be stopped and started: once its die's DMP runs again, or as soon as it has started
theorem test_partitionMap_bounce : gives (.partitionConfigWrite 0x2010 0 [0xF1, 0x0F, 0, 0, 0, 0, 0, 0]) { up with fw := { dmpDown := [0] } }
    (fun t => t.fnState .region 0 == 2 && t.bounce.contains (.region, 0)) = true
    ∧ gives (.partitionConfigWrite 0x2010 0 [0xF1, 0x0F, 0, 0, 0, 0, 0, 0]) (up.setFn .region 0 1)
      (fun t => t.fnState .region 0 == 1 && t.bounce.contains (.region, 0)) = true := by decide +kernel
-- region 0 goes from partition 0 to partition 1, regions 1 and 2 to none
theorem test_partitionMap : gives (.partitionConfigWrite 0x2010 0 [0xF1, 0x0F, 0, 0, 0, 0, 0, 0]) up
    (fun t => t.odGet 0x2010 0 == 0xFF1 && t.fnState .region 0 == 3 && t.fnState .region 3 == up.fnState .region 3) = true := by decide +kernel
theorem test_partitionMap_illegal : becomes (.partitionConfigWrite 0x2010 0 [8, 0, 0, 0, 0, 0, 0, 0]) up up = true
    ∧ becomes (.partitionConfigWrite 0x2010 0 [1, 0, 0, 0, 0, 0, 0, 0]) (up.setRing 0 ringUp) (up.setRing 0 ringUp) = true := by decide +kernel
theorem test_faultRingClear : gives (.faultRingClear 1) { up with log := { ring := [{}], copy := [{}], nextSeq := 4 } } (fun t => t.log.ring == [] && t.log.copy == [] && t.log.nextSeq == 4) = true
    ∧ becomes (.faultRingClear 2) up up = true := by decide +kernel

-- ## Functions, settings and firmware

theorem test_fn_states : up.fnStatus .stack 2 = 0 ∧ up.fnStatus .link 0 = 2 ∧ fnDie .link 0 = 0 := by decide +kernel
theorem test_enable_off : gives (.functionEnableWrite .stack 2 true) up (fun t => t.fnStatus .stack 2 == 1 && t.fnEnabled .stack 2) = true
    ∧ gives (.functionEnableWrite .stack 2 false) up (fun t => t.fnStatus .stack 2 == 0) = true := by decide +kernel
theorem test_enable_on : gives (.functionEnableWrite .link 0 false) up (fun t => t.fnStatus .link 0 == 3 && !t.fnEnabled .link 0) = true := by decide +kernel
-- the wish of the other direction is remembered: bit 4 while STARTING, bit 3 while STOPPING
theorem test_enable_wish : gives (.functionEnableWrite .link 0 false) (up.setFn .link 0 1) (fun t => t.fnStatus .link 0 == 17) = true
    ∧ gives (.functionEnableWrite .link 0 true) (up.setFn .link 0 3) (fun t => t.fnStatus .link 0 == 11) = true := by decide +kernel
theorem test_enable_faulted : gives (.functionEnableWrite .link 0 false) (up.setFn .link 0 4) (fun t => t.fnStatus .link 0 == 0) = true
    ∧ gives (.functionEnableWrite .core 3 false) ((up.setFn .core 3 4).setBit 0x8002 1 3) (fun t => t.fnStatus .core 3 == 4) = true
    ∧ ((up.setFn .core 3 4).setBit 0x8002 1 3).isRetired 3 = true := by decide +kernel
theorem test_enable_latched : gives (.functionEnableWrite .link 0 false) { up with fw := { dmpDown := [0] } }
    (fun t => t.fw.latched == [(.link, 0, false)] && t.fnStatus .link 0 == 2) = true := by decide +kernel
theorem test_startDone : gives (.functionStartDone .stack 2 true) (up.setFn .stack 2 1) (fun t => t.fnStatus .stack 2 == 2) = true
    ∧ gives (.functionStartDone .region 3 false) (up.setFn .region 3 1) (fun t => t.fnStatus .region 3 == 4) = true := by decide +kernel
-- a region that has changed hands stops as soon as it has started, unless its die's DMP is down
theorem test_startDone_bounce : let s : State := { up.setFn .region 0 1 with bounce := [(.region, 0)] }
    gives (.functionStartDone .region 0 true) s (fun t => t.fnStatus .region 0 == 11) = true ∧ s.fnEnabled .region 0 = true
    ∧ gives (.functionStartDone .region 0 true) { s with fw := { dmpDown := [0] } } (fun t => t.fnStatus .region 0 == 2) = true := by decide +kernel
theorem test_startDone_perst : becomes (.functionStartDone .host 1 true) ({ up with pins := { up.pins with perst1 := true } }.setFn .host 1 1)
    ({ up with pins := { up.pins with perst1 := true } }.setFn .host 1 1) = true := by decide +kernel
theorem test_stopDone : (up.setFn .region 3 3).stopReady .region 3 = true ∧ gives (.functionStopDone .region 3) { up.setFn .region 3 3 with
      mem := Mem.writeNat [] (2 ^ 48 + 3 * 2 ^ 30 + 0x5FFFFFF) 9 1 } (fun t => t.fnStatus .region 3 == 0 && t.mem == []) = true := by decide +kernel
theorem test_stopDone_core : (up.setFn .core 8 3).stopReady .core 8 = true ∧ (up.setFn .core 8 3).logicalOf 8 = none
    ∧ gives (.functionStopDone .core 8) (up.setFn .core 8 3) (fun t => t.fnStatus .core 8 == 0) = true := by decide +kernel
theorem test_stopDone_waits : ((up.setFn .region 0 3).stopReady .region 0) = false ∧ becomes (.functionStopDone .region 0) (up.setFn .region 0 3) (up.setFn .region 0 3) = true := by
  decide +kernel
theorem test_unitClear : gives (.hbmUnitClearDone 0 251) { up with clearing := [251, 7] } (fun t => t.clearing == [7] && t.odGet 0x5306 1 == 1) = true
    ∧ becomes (.hbmUnitClearDone 1 251) { up with clearing := [256 + 251] } { up with clearing := [256 + 251] } = true := by decide +kernel

theorem test_commit_hyps : up.serving = true ∧ AMap.find up.otp 1 = none ∧ (up.cpRecords.map fun r => 8 + (r.vlen + 7) / 8 * 8).sum ≤ 2032 ∧ AMap.wf up.otp = true := by
  decide +kernel
-- 500 is a value to keep: generation 1 holds it under SEQ 2
theorem test_commit : gives (.otpCommit 0xA5) (up.odSet 0x1101 0 500)
    (fun t => t.commit == some 1 && (AMap.find t.otp 1).map (fun g => (g.lead.seq, g.standby.recs.map (fun r => (r.index, r.value)), g.valid)) == some (2, [(0x1101, 500)], false)) = true := by
  decide +kernel
def fullOtp : State := { up with otp := (List.range 6).map fun g => (g, ⟨OtpCopy.of (g + 1) [], OtpCopy.of (g + 1) []⟩) }
theorem test_commit_full : (∀ g ∈ [1, 2, 3, 4, 5], AMap.find fullOtp.otp g ≠ none) ∧ becomes (.otpCommit 0xA5) fullOtp fullOtp = true := by decide +kernel
theorem test_commit_refused : becomes (.otpCommit 0xA6) up up = true ∧ becomes (.otpCommit 0xA5) { up with commit := some 1 } { up with commit := some 1 } = true := by
  decide +kernel
/-- Generation 1 in programming, with its readback to come. -/
def committing : State :=
  let x := (OtpCopy.of 2 [⟨0x1101, 0, 0, 3, 2, 500⟩]).torn
  { up with commit := some 1, otp := up.otp ++ [(1, { lead := x, standby := x })] }
theorem test_commitDone : (AMap.find committing.otp 1).map (·.valid) = some false ∧ gives (.otpCommitDone true) committing (fun t => (AMap.find t.otp 1).map (·.valid) == some true && t.commit == none) = true
    ∧ gives (.otpCommitDone false) committing (fun t => t.commit == none && bitOf (t.odGet 0xF001 0) 9) = true := by decide +kernel

/-- A whole image, signed with a test key: its magic, product, key slot 1, security version 3, version 7, a body of one byte. -/
def image : List Byte :=
  leBytes (0x1000000070003010451464a4e + (
    0x1da773e578e6f10463cd6094904c73115c7173cf041d91305c7639868aa1ab22fcfbc26ee45394f3bd7fbf228a9deab91760b4038640e825 +
    0x8bb46595a413fe3236c0a5a9f5d88956bad3118eeed4a3b3f756e305c49f43dfae5e7c472b1b8b53d2e9161af790924ee1e5e1794d24c34f <<< 448 +
    0x240fb47b7e5b25caf24c09b7bc4dd65610a40f9388d06a0b1d127d9f2cac58afe9e98046ebf3a67db72341300f4f7ccac72dcd7deccacd2c <<< 896 +
    0xa6c1c0395db1ceea52486ed7d47ecc9d0b5481a6383b0c45772d99e7ccf1081ab409fff2a887b42dc525f5d522994266c47dd3cc35d0ad50 <<< 1344 +
    0x67bc1bd182162198b95b3c040493639aac <<< 1792) <<< 2168) 512 ++ [0xEE]
/-- The SHA-384 of that key. -/
def keyHash : BitVec 384 := 0x45df28d9361f0ed47d97c61c72f7554aab9b8639e61e934a78ca23bb097444b7fd5f700384ff965b0f3ad978d7e8c9d9#384
def fwIn (u : Upd) : State := { up with fw := { upd := u, imageB := image, imageKeys := [(1, keyHash)] } }
theorem test_image_slot : up.odGet 0x1001 4 % 2 = 0 ∧ (fwIn .idle).imageOf 1 = image := by decide +kernel
theorem test_image_first : gives (.firmwareImageWrite 0 3 [1, 2]) (fwIn .rejected) (fun t => t.fw.imageB == [1, 2] && t.fw.upd == .idle && t.fw.incomingTotal == 3) = true := by decide +kernel
theorem test_image_last : gives (.firmwareImageWrite 2 3 [3]) { up with fw := { imageB := [1, 2], incomingTotal := 3 } }
    (fun t => t.fw.imageB == [1, 2, 3] && t.fw.upd == .received) = true := by decide +kernel
theorem test_image_refused : becomes (.firmwareImageWrite 0 3 [1]) (fwIn .trial) (fwIn .trial) = true := by decide +kernel
theorem test_verify : gives .fwVerify (fwIn .received) (fun t => t.fw.upd == .verifying) = true ∧ becomes .fwVerify (fwIn .idle) (fwIn .idle) = true := by decide +kernel
/-- The same with fields of the firmware's state changed. -/
def fwWith (f : Firmware → Firmware) : State := { fwIn .verifying with fw := f (fwIn .verifying).fw }
theorem test_verifyDone : gives (.fwVerifyDone none) (fwIn .verifying) (fun t => t.fw.upd == .verified) = true := by decide +kernel
-- a bit of the signature, a bit of the body, a revoked slot, a fourth security bit: each refuses the image
theorem test_verifyDone_refused : gives (.fwVerifyDone none) (fwWith fun f => { f with imageB := image.set 416 0 }) (fun t => t.fw.upd == .rejected) = true
    ∧ gives (.fwVerifyDone none) (fwWith fun f => { f with imageB := image.set 512 0xEF }) (fun t => t.fw.upd == .rejected) = true
    ∧ gives (.fwVerifyDone none) (fwWith fun f => { f with keyRevoked := [1] }) (fun t => t.fw.upd == .rejected) = true
    ∧ gives (.fwVerifyDone none) (fwWith fun f => { f with secField := 0x8103 }) (fun t => t.fw.upd == .rejected) = true := by decide +kernel
-- dies 1, 3, 2, 0 in turn
theorem test_activate : gives .fwActivate (fwIn .verified) (fun t => t.fw.upd == .activating && t.fw.dmpDown == [1] && t.epoch 0x82 == 0 && t.fw.target == 1) = true := by
  decide +kernel
def restarting (u : Upd) (done down : List Nat) : State :=
  { up with fw := { upd := u, restarted := done, dmpDown := down, target := 1, imageB := image, imageKeys := [(1, keyHash)] } }
theorem test_restart_next : gives (.dmpRestartDone 1) (restarting .activating [] [1]) (fun t => t.fw.dmpDown == [3] && t.fw.restarted == [1] && t.fw.upd == .activating) = true := by
  decide +kernel
-- the lead's DMP is the last to restart, and loses its locks
theorem test_restart_lead : (restarting .activating [1, 3] [2]).lead = 0 ∧ (restarting .activating [1, 3] [2]).fw.home = 0
    ∧ gives (.dmpRestartDone 2) (restarting .activating [1, 3] [2]) (fun t => t.fw.dmpDown == [0] && t.epoch 0x82 == 1) = true := by decide +kernel
theorem test_restart_last : gives (.dmpRestartDone 0) (restarting .activating [1, 3, 2] [0]) (fun t => t.fw.dmpDown == [] && t.odGet 0x1001 4 == 1 && t.fw.upd == .trial) = true := by
  decide +kernel
theorem test_restart_other : gives (.dmpRestartDone 2) (restarting .idle [] [2]) (fun t => t.fw.dmpDown == [] && t.fw.upd == .idle) = true := by decide +kernel
def trial : State := { (restarting .trial [] []).odSet 0x1001 4 1 with log := {} }
theorem test_confirm : gives .fwConfirm trial (fun t => t.fw.upd == .idle && t.odGet 0x1001 3 == 1 && t.fw.secMin == 3 && t.fw.keyRevoked == [0]) = true
    ∧ becomes .fwConfirm up up = true := by decide +kernel
theorem test_revert : gives .fwRevert trial (fun t => t.fw.upd == .reverting && t.fw.target == 0 && t.fw.dmpDown == [1]) = true
    ∧ gives .trialTimeout trial (fun t => t.fw.upd == .reverting) = true ∧ becomes .trialTimeout up up = true := by decide +kernel
theorem test_dmpReturn : becomes (.dmpReturnTimeout 3) (restarting .activating [] [1]) (restarting .activating [] [1]) = true
    ∧ 1 ∈ (restarting .activating [] [1]).fw.dmpDown ∧ 2 ∈ (restarting .idle [] [2]).fw.dmpDown := by decide +kernel
-- ## Debug

/-- A slot that reads otherwise than it was written does not pass (R439, R448). -/
theorem test_verifyDone_reads : gives (.fwVerifyDone (some [])) (fwIn .verifying) (fun t => t.fw.upd == .rejected && t.fw.imageB == []) = true := by decide +kernel

theorem test_challenge : gives .debugChallenge up (fun t => t.dbg.nonce.isSome && t.freeCtr == 1) = true := by decide +kernel
/-- A token for the serial and the nonce 77, signed with the same key. -/
def token : BitVec 1928 := BitVec.ofNat 1928 (77 + (
    0x36c0a5a9f5d88956bad3118eeed4a3b3f756e305c49f43dfae5e7c472b1b8b53d2e9161af790924ee1e5e1794d24c34f1da773e578e6f104 +
    0x778547505254f0639db4263eab174a0b1d127d9f2cac58afe9e98046ebf3a67db72341300f4f7ccac72dcd7deccacd2c8bb46595a413fe32 <<< 448 +
    0xbcc6b2007533a8d87af2484cd90021db2c4dedac4e541bf4039fe294d2f8c3d83d1f8448553547e03ac2f6bc04f506b27aa6ccb4502d912e <<< 896 +
    0xdcf8887c5a5bc52913c934ca6ca578cc597036ea111dd3481a <<< 1344) <<< 384)
def challenged : State :=
  { up with dbg := { nonce := some 77, lastTry := some 0 }, fw := { debugKeys := [(0, 0), (1, keyHash)] }, timeUs := 1000000
            mem := Mem.writeNat (Mem.writeNat [] (reg 4) 9 1) 4 9 1 }
theorem test_token_hyps : field token.toNat 383 320 = 0 ∧ challenged.rings = [] ∧ 0 ∉ challenged.fw.debugRevoked := by decide +kernel
theorem test_token_ok : challenged.tokenPasses token.toNat = true ∧ challenged.zeroSram.mem.map (·.1) = [4] := by decide +kernel
theorem test_token_refused : gives (.debugToken (token.extractLsb' 0 1160) (token.extractLsb' 1160 768)) { challenged with fw := { debugKeys := [(0, 0), (1, keyHash)], debugRevoked := [1] } }
    (fun t => !t.dbg.unlocked && t.dbg.nonce == none && field (t.odGet 0xF012 0) 15 8 == 1) = true := by decide +kernel
theorem test_token_early : gives (.debugToken (token.extractLsb' 0 1160) (token.extractLsb' 1160 768)) { challenged with timeUs := 999999 }
    (fun t => !t.dbg.unlocked && t.dbg.nonce == some 77 && t.dbg.lastTry == some 0 && field (t.odGet 0xF012 0) 15 8 == 1) = true := by decide +kernel

-- ## Faults and spares

/-- Core 3 holds a unit and a released one; region 0's spare is physical core 8, OFF. -/
def failing (spareOn : Bool) : State :=
  let s := (mm .running 0).setCore 3 { units := [{ chunk0 with ticket := some 7 }, { chunk0 with id := 1, st := .released, ticket := some 9 }], lastFail := some { kind := .check } }
  { s.setFn .core 8 (if spareOn then 2 else 0) with ops := [mmOp (some 5) 1 1], tickets := [(3, 0, 7), (3, 1, 9)], timeUs := 50 }
theorem test_fence_hyps : (failing false).fnState .core 3 = 2 ∧ (failing false).logicalOf 3 = some 3 ∧ (failing false).odGet 0x8001 1 = 8
    ∧ (failing false).fnStatus .core 8 = 0 ∧ (failing false).fnEnabled .core 8 = true ∧ (failing false).isRetired 8 = false ∧ (failing false).fnState .region 0 = 2 := by decide +kernel
theorem test_fence : gives (.coreFence 3 .verdict) (failing false) (fun t => t.fnStatus .core 3 == 4 && t.epoch 3 == 1 && t.odGet 0x5151 4 == 1
    && (t.core 3).units.map (fun u => (u.id, u.r, u.ticket)) == [(1, 512, none)] && t.tickets == [] && t.stale == [7, 9] && AMap.find t.retest 3 == some 50
    && t.fnStatus .core 8 == 1 && t.copyingWindows == [(8, 3)]) = true := by decide +kernel
theorem test_fence_unassigned : gives (.progressBeatTimeout 3) (failing true) (fun t => t.fnStatus .core 3 == 4 && !t.assigned 3) = true := by decide +kernel
theorem test_fence_selfTest : becomes (.coreFence 3 .selfTest) (failing true) (failing true) = true := by decide +kernel
-- a tile whose record has landed ends its op in error, and so does a pinned one, which has no ticket
def failingWith (u : WorkUnit) : State := let s := failing false; { s.setCore 3 { units := [u], lastFail := some { kind := .check } } with tickets := [(3, 0, 7)] }
theorem test_fence_landed : ((failingWith { chunk0 with st := .released, sent := 1 }).core 3).someLanded 7 = true
    ∧ gives (.progressBeatTimeout 3) (failingWith { chunk0 with st := .released, sent := 1 }) (fun t => t.cmds.all fun c => c.err.isSome) = true
    ∧ gives (.progressBeatTimeout 3) (failingWith { chunk0 with ticket := none }) (fun t => t.cmds.all fun c => c.err.isSome) = true := by decide +kernel
-- the other causes: FENCE_LIM of 3 failures, a start that its self-test fails, the fence of its die
theorem test_fence_causes : let f (k : Core) : State := ((failing false).odSet 0x3170 0 3).setCore 3 k
    gives (.coreFence 3 .failures) (f { failTimes := [1, 2, 3] }) (fun t => t.fnStatus .core 3 == 4) = true
    ∧ gives (.coreFence 3 .failures) (f { failTimes := [1] }) (fun t => t.fnStatus .core 3 == 2) = true
    ∧ gives (.coreFence 3 .selfTest) ((failing false).setFn .core 3 1) (fun t => t.fnStatus .core 3 == 4) = true
    ∧ gives (.coreFence 3 .dieFence) { failing false with diesFenced := [0] } (fun t => t.fnStatus .core 3 == 4) = true := by decide +kernel
def copied : State := { (up.setFn .core 3 4).setFn .core 8 2 with copyingWindows := [(8, 3)], mem := Mem.writeNat [] (2 * 2 ^ 48 + 3 * 2 ^ 23) 9 1 }
theorem test_windowCopy : gives (.queueWindowCopyDone 0) copied (fun t => t.physOf 3 == some 8 && t.copyingWindows == [] && t.mem == [] && t.epoch 3 == 1) = true
    ∧ becomes (.queueWindowCopyDone 1) copied copied = true := by decide +kernel
def retested (n : Nat) : State := { up.setFn .core 3 4 with fences := List.replicate n 3, retest := [(3, 0)] }
theorem test_retest : gives (.fenceRetest 3 true) (retested 1) (fun t => t.fnStatus .core 3 == 0 && t.odGet 0x8001 1 == 3 && t.retest == []) = true
    ∧ gives (.fenceRetest 3 true) (retested 2) (fun t => t.fnStatus .core 3 == 4 && t.isRetired 3 && t.log.retired == [(3, 3)]) = true
    ∧ gives (.fenceRetest 3 false) (retested 1) (fun t => t.isRetired 3) = true ∧ becomes (.fenceRetest 4 true) (retested 1) (retested 1) = true := by decide +kernel

def mirrored : State := { up with mem := Mem.writeNat [] (2 ^ 50 + 0x40) 9 1, bad := [0x40] }
theorem test_mirror : gives (.mirrorRepair 0x40 (2 ^ 50 + 0x40) true) mirrored (fun t => t.bad == [] && Mem.readNat t.mem 0x40 64 == 9 && t.odGet 0x5303 1 == 1) = true
    ∧ gives (.mirrorRepair 0x40 (2 ^ 50 + 0x40) false) mirrored (fun t => t.bad == [0x40] && (t.stack (channelOf 0x40).1).copying == some (channelOf 0x40).2) = true
    ∧ mirrored.memWf = true := by decide +kernel
theorem test_copyDone : gives (.retireCopyDone (channelOf 0x40).1) ({ up with bad := [0x40] }.setStack (channelOf 0x40).1 { copying := some (channelOf 0x40).2 })
    (fun t => (t.stack (channelOf 0x40).1).reserveUsed == some (channelOf 0x40).2 && t.odGet 0x5320 ((channelOf 0x40).1 + 1) == 1) = true
    ∧ becomes (.retireCopyDone 0) up up = true := by decide +kernel
-- a sector that is poisoned already is counted once
theorem test_copyDone_once : gives (.retireCopyDone (channelOf 0x40).1) ({ up with bad := [0x40], poisoned := [0x40] }.setStack (channelOf 0x40).1 { copying := some (channelOf 0x40).2 })
    (fun t => t.poisoned == [0x40] && t.odGet 0x5320 ((channelOf 0x40).1 + 1) == 0) = true := by decide +kernel
theorem test_hbmRetrain : becomes (.hbmRetrain 0 62 true) up up = true ∧ gives (.hbmRetrain 7 62 false) up (fun t => (t.stack 7).copying == some 62 && t.log.retired == [(5, 510)] && t.odGet 0x5321 8 == 1) = true := by
  decide +kernel
theorem test_module : gives (.d2dModuleDisable 5 7) up (fun t => (AMap.getD t.d2d 10 {}).disabled == [7] && (AMap.getD t.d2d 11 {}).disabled == [7]) = true
    ∧ becomes (.d2dModuleDisable 0 1) { up with d2d := [(0, { disabled := [1] })] } { up with d2d := [(0, { disabled := [1] })] } = true := by decide +kernel
theorem test_phase_third : AMap.getD (AMap.set ([] : AMap Nat) 5 2) 5 0 = 2 ∧ gives (.phaseFailure 5) { up with boot := .booting, power := { phases := [(5, 2)] } }
    (fun t => bitOf (t.odGet 0x4400 0) 3 && t.power.phases == [(5, 3)]) = true := by decide +kernel
theorem test_phase : gives (.phaseFailure 27) up (fun t => bitOf (t.odGet 0x4400 0) 3 && AMap.getD t.power.phases 27 0 == 1 && t.regions == []) = true := by decide +kernel
theorem test_beat : gives (.dmpHeartbeat 3) { up with timeUs := 6 } (fun t => AMap.find t.dmpBeats 3 == some 6) = true := by decide +kernel
theorem test_lead : up.lead ≠ 2 ∧ gives .leadTakeover { up with mb1 := { xfer := some (reading 0) }, mbOther := ({ done := true }, {}) }
      (fun t => t.lead == 2 && t.epoch 0x82 == 1 && t.fw.dmpDown == [0] && t.mb1.xfer == none && t.mb0.done && t.mbOther == ({}, {})) = true := by
  decide +kernel
-- while the role moves no request is heard
theorem test_lead_moving : becomes (.oapRead .can (oap 1 0 0x1101 0 3 0 0 [])) { node5 with fw := { leadUntil := 5 } } { node5 with fw := { leadUntil := 5 } } = true := by
  decide +kernel
theorem test_net : gives (.onDieNetworkTransfer 1 false) { up with netFails := [(1, 14)] } (fun t => AMap.getD t.netFails 1 0 == 15 && t.diesFenced == []) = true
    ∧ gives (.onDieNetworkTransfer 1 true) { up with netFails := [(1, 14)] } (fun t => t.netFails == []) = true
    ∧ AMap.getD ({ up with netFails := [(1, 15)] } : State).netFails 1 0 = 15 := by decide +kernel
-- ## Power, clocks and cooling

theorem test_power_boot : up.boot ≠ .noPower ∧ up.boot ≠ .tripped := by decide +kernel
theorem test_brake : gives .powerBrakeAssert up (fun t => t.pins.brake && bitOf (t.odGet 0x4400 0) 0 && t.regionMHz 15 == 800) = true
    ∧ gives .powerBrakeRelease { up with pins := { up.pins with brake := true } } (fun t => !t.pins.brake) = true
    ∧ becomes .powerBrakeAssert { up with pins := { up.pins with storm := [.brake] } } { up with pins := { up.pins with storm := [.brake] } } = true := by decide +kernel
theorem test_brakeStep : gives .brakeReleaseStep (up.setRegionPower 2 { rampCeil := 2240 }) (fun t => (t.regionPower 2).rampCeil == 2250) = true
    ∧ gives .brakeReleaseStep ({ up with pins := { up.pins with brake := true }, power := { brakeIn := true } }.setRegionPower 2 { rampCeil := 800 })
      (fun t => (t.regionPower 2).rampCeil == 800) = true := by decide +kernel
-- 2.3 kW at 55 V is the allowance; one microwatt more applies the brake
theorem test_sample : gives (.powerSample 50000 46000) up (fun t => t.timeUs == 1 && t.power.samples == [2300000000] && !t.power.brakePower && t.power.runAbove == 1) = true
    ∧ gives (.powerSample 50000 46001) up (fun t => t.power.brakePower && t.regionMHz 3 == 800 && t.odGet 0x7030 0 == 1) = true := by decide +kernel
theorem test_sample_run : gives (.powerSample 50000 40000) { up with power := { runAbove := 9999 } } (fun t => t.power.brakePower && t.power.runAbove == 10000) = true := by decide +kernel
-- PLIM is 1,900 W after reset
theorem test_loop : gives .powerLoopStep { up with power := { samples := [1900000001] } } (fun t => (t.regionPower 0).powerCeil == 2225 && (t.regionPower 1).powerCeil == 2250) = true
    ∧ gives .powerLoopStep { up with power := { samples := [1900000001], avgAbove := 50 } } (fun t => (t.regionPower 0).powerCeil == 2150) = true
    ∧ gives .powerLoopStep ({ up with power := { samples := [1842999999] } }.setRegionPower 0 { powerCeil := 1000 }) (fun t => (t.regionPower 0).powerCeil == 1025) = true
    ∧ gives .powerLoopStep ({ up with power := { samples := [1843000000] } }.setRegionPower 0 { powerCeil := 1000 }) (fun t => (t.regionPower 0).powerCeil == 1000) = true := by
  decide +kernel
-- a region at 800 MHz is not lowered, and sets nothing
theorem test_loop_least : let s := { up with power := { samples := [1900000001] } }.setRegionPower 0 { powerCeil := 800 }
    s.loopCeil 0 = 800 ∧ up.loopCeil 0 = 2250
    ∧ gives .powerLoopStep s (fun t => t.regionPower 0 == s.regionPower 0 && !bitOf (t.odGet 0x4400 0) 1) = true := by decide +kernel
theorem test_inputLost : gives .inputOutOfRange { up with retained := [(1, 1)], mem := Mem.writeNat [] 0 1 1, fw := { imageB := image } }
    (fun t => t.boot == .noPower && t.retained == [] && t.mem == [] && t.fw.imageB == image && t.fnState .link 0 == 0) = true := by decide +kernel

theorem test_heat_trip : gives (.thermalSample [.region 0 0 115000]) up (fun t => t.boot == .tripped) = true ∧ gives (.thermalSample [.stack 7 105000]) up (fun t => t.boot == .tripped) = true
    ∧ gives (.thermalSample [.stack 7 104999]) up (fun t => t.boot == .ready) = true := by decide +kernel
theorem test_heat_brake : gives (.thermalSample [.region 0 0 105000]) up (fun t => t.power.brakeThermal && t.boot == .ready) = true
    ∧ gives (.thermalSample [.region 0 0 104999]) up (fun t => !t.power.brakeThermal) = true
    ∧ gives (.thermalSample [.region 0 0 100000]) { up with power := { brakeThermal := true } } (fun t => !t.power.brakeThermal) = true := by decide +kernel
def heated (t : Int) : State := up.setRegionPower 0 { temps := [(0, t)], thermalCeil := 2000 }
theorem test_heat_loop : gives .thermalLoopStep (heated 100000) (fun t => (t.regionPower 0).thermalCeil == 1975 && bitOf (t.odGet 0x4400 0) 2) = true
    ∧ gives .thermalLoopStep (heated 98000) (fun t => (t.regionPower 0).thermalCeil == 2025) = true
    ∧ gives .thermalLoopStep (heated 98001) (fun t => (t.regionPower 0).thermalCeil == 2000) = true := by decide +kernel
theorem test_voltage : gives (.adaptiveVoltageStep 3 true) (up.setRegionPower 3 { millivolts := 898 }) (fun t => (t.regionPower 3).millivolts == 900) = true
    ∧ gives (.adaptiveVoltageStep 3 false) (up.setRegionPower 3 { millivolts := 552 }) (fun t => (t.regionPower 3).millivolts == 550) = true := by decide +kernel
theorem test_droop : gives (.droopStretch 5 1) up (fun t => t.runningMHz 5 == up.regionMHz 5 / 2 && t.odGet 0x5330 6 == 1) = true
    ∧ gives (.droopStretchEnd 5) (up.setRegionPower 5 { droop := 64 }) (fun t => t.runningMHz 5 == t.regionMHz 5) = true := by decide +kernel
theorem test_reference : gives (.referenceLoss .a) up (fun t => t.power.lostA && t.power.useB && bitOf (t.odGet 0x4400 0) 4) = true
    ∧ gives (.referenceLoss .b) { up with power := { useB := true } } (fun t => t.power.lostB && !t.power.useB) = true
    ∧ gives (.referenceLoss .link) up (fun t => t.power.lostLink && bitOf (t.odGet 0x4400 0) 5) = true := by decide +kernel
theorem test_holdover : gives .referenceHoldoverExpiry { up with power := { lostA := true, lostB := true } } (fun t => t.boot == .tripped) = true
    ∧ becomes .referenceHoldoverExpiry { up with power := { lostA := true } } { up with power := { lostA := true } } = true := by decide +kernel

-- ## Signals, resets and the start

theorem test_sysReset : gives .sysResetAssert { (up.setRing 0 ringUp) with retained := [(1, 1)], host0 := Mem.writeNat [] 0 1 1, mem := Mem.writeNat [] 0 1 1, fw := { imageA := image } }
    (fun t => t.boot == .standby && t.rings == [] && t.mem == [] && t.retained == [(1, 1)] && t.host0 == Mem.writeNat [] 0 1 1 && t.fw.imageA == image
      && t.pins.sysReset && !t.pins.ready && t.fnStatus .region 0 == 0) = true := by decide +kernel
-- an image that is being received is cut off
theorem test_reset_image : gives .warmReset { up with fw := { imageA := image, imageB := [1, 2], incomingTotal := 9 } }
    (fun t => t.fw.imageA == image && t.fw.imageB == [] && t.fw.incomingTotal == 0) = true := by decide +kernel
theorem test_warmReset : gives .warmReset up (fun t => t.boot == .standby && t.pins.warm) = true ∧ up.serving = true := by decide +kernel
def warmed : State := { State.reset with pins := { sysReset := false, warm := true, nodeId := 9, cold := false }, retained := [(0x1101 * 256, 7)] }
theorem test_warmRelease : gives .warmResetRelease warmed (fun t => t.boot == .booting && !t.pins.warm && t.odGet 0x1100 0 == 9 && t.retained == [(0x1101 * 256, 7)]) = true := by
  decide +kernel
theorem test_sysReset_release : gives (.sysResetRelease 127) State.reset (fun t => t.boot == .booting && t.odGet 0x1100 0 == 127 && !t.pins.sysReset) = true := by decide +kernel
-- PWR_BRAKE_N that is held, or a storm that holds it, brakes the package from its start
theorem test_release_brake : let f (p : Pins) (t : State) : Bool := t.boot == .booting && t.power.brakeIn && bitOf (t.odGet 0x4400 0) 0 && t.regionMHz 0 == 800 && t.pins.storm == p.storm
    gives (.sysResetRelease 3) { State.reset with pins := { brake := true } } (f { brake := true }) = true
    ∧ gives (.sysResetRelease 3) { State.reset with pins := { storm := [.brake] } } (f { storm := [.brake] }) = true := by decide +kernel
-- a latched trip clears at 80 °C
theorem test_release_trip : gives (.sysResetRelease 3) { State.reset with boot := .tripped, power := { tripped := true, alwaysOn := 80000 } } (fun t => t.boot == .booting && !t.power.tripped) = true
    ∧ gives (.sysResetRelease 3) { State.reset with boot := .tripped, power := { tripped := true, alwaysOn := 80001 } } (fun t => t.boot == .tripped) = true := by decide +kernel
theorem test_inputPower : gives .inputPowerApplied { State.reset with boot := .noPower, timeUs := 8 } (fun t => t.boot == .standby && t.log.boots == 1 && t.timeUs == 0) = true
    ∧ gives .inputRestored { State.reset with boot := .noPower, pins := { sysReset := false }, log := { boots := 7, life := [{ boots := 5, bad := true }, { boots := 65535 }] } } (fun t => t.boot == .booting && t.log.boots == 0) = true
    ∧ becomes .inputPowerApplied up up = true := by decide +kernel
-- a trip outlasts the loss of its supply until SYS_RESET_N is released after it, without power as well
theorem test_inputPower_tripped : let off (l : Bool) : State := { State.reset with boot := .noPower, pins := { sysReset := false, late := l }, power := { tripped := true, alwaysOn := 25000 } }
    gives .inputPowerApplied (off false) (fun t => t.boot == .tripped && t.power.tripped) = true
    ∧ gives .inputPowerApplied (off true) (fun t => t.boot == .booting && !t.power.tripped) = true := by decide +kernel

def booting (cold : Bool) (a b : List Byte) : State :=
  { State.reset with boot := .booting, pins := { sysReset := false, cold := cold }, fw := { imageA := a, imageB := b, imageKeys := [(1, keyHash)] }
                     retained := if cold then [] else [(0x1101 * 256, 7)], otp := [(0, ⟨OtpCopy.of 1 [], OtpCopy.of 1 []⟩), (1, ⟨OtpCopy.of 2 [⟨0x1101, 0, 0, 3, 2, 500⟩], OtpCopy.of 2 [⟨0x1101, 0, 0, 3, 2, 500⟩]⟩)] }
theorem test_boot_hyps : (booting true image []).settingsWf = true ∧ (booting true image []).imagePasses image = true
    ∧ (booting true image []).imagePasses [] = false ∧ (booting true image []).odGet 0x1001 3 % 2 = 0 := by decide +kernel
-- a cold start restores from generation 1, a warm one from the retained store
theorem test_boot_cold : (booting true image []).restore.odGet 0x1101 0 = 500 ∧ field ((booting true image []).restore.odGet 0x4000 0) 15 10 = 1 + 1 * 4 := by decide +kernel
theorem test_boot_warm : (booting false image []).restore.odGet 0x1101 0 = 7 ∧ field ((booting false image []).restore.odGet 0x4000 0) 11 10 = 2 := by decide +kernel
-- a store that fails its check sets RS_LOST; after a reset in a commit the generation is taken
theorem test_boot_lost : let s := { booting false image [] with retainedBad := [3] }
    bitOf (s.restore.odGet 0xF001 0) 10 = true ∧ field (s.restore.odGet 0x4000 0) 11 10 = 2
    ∧ field ({ s with retainedBad := [0, 1, 2, 3] }.restore.odGet 0x4000 0) 15 10 = 1 + 1 * 4 := by decide +kernel
theorem test_boot_fromOtp : let s := booting false image []
    field ({ s with pins := { s.pins with fromOtp := true } }.restore.odGet 0x4000 0) 15 10 = 1 + 1 * 4 := by decide +kernel
theorem test_boot_stacks : (booting true image []).fnStatus .stack 0 = 0 ∧ (booting true image []).fnEnabled .stack 0 = true ∧ (booting true image []).diesFenced = [] := by
  decide +kernel
theorem test_boot_other : (booting true [] image).imagePasses ((booting true [] image).imageOf 0) = false ∧ (booting true [] image).imagePasses ((booting true [] image).imageOf 1) = true := by
  decide +kernel
theorem test_boot_recovery : gives (.bootImageCheck none none) (booting true (image.take 512) []) (fun t => t.boot == .recovery && !t.pins.faultN && t.odGet 0x4402 0 % 8 == 7) = true := by
  decide +kernel
/-- Every function that may leave OFF is ON, but for core 0 of region 0. -/
def restored (core0 : Nat) : State :=
  let on (k : FnKind) (f : Nat → Nat) : AMap Nat := (List.range (fnCount k)).map fun n => (fnIndex k * 256 + n + 1, f n)
  { State.reset with boot := .restored, od := on .core (fun n => if n = 0 then core0 else if n % 9 = 8 then 0 else 2) ++ on .region (fun _ => 2) ++ on .stack fun _ => 2 }
theorem test_ready : gives .startupComplete (restored 4) (fun t => t.boot == .ready && t.pins.ready) = true ∧ (restored 0).settled = false := by
  decide +kernel

/-- A ring of partition 0 and one of partition 1 in the memory of host port 0, one in package memory, and a command. -/
def hosted : State := { ((mm .running 0).setRing 0 { ringUp with loc := 1 }).setRing 64 { ringUp with loc := 1 } with routes := [] }
theorem test_perst : gives (.perstAssert 0) (hosted.setRing 1 ringUp) (fun t => (t.ring 0).err == 8 && (t.ring 64).st == .error && (t.ring 1).st == .running
    && t.epoch 0x80 == 1 && t.fnStatus .host 0 == 0 && t.cmds.map (·.cut) == [[0]] && t.pins.perst0) = true := by decide +kernel
theorem test_perst_release : gives (.perstRelease 1) up (fun t => !t.pins.perst1) = true
    ∧ gives (.perstRelease 0) { (up.setFn .host 0 0) with pins := { up.pins with perst0 := true } } (fun t => t.fnStatus .host 0 == 1) = true
    ∧ (up.setFn .host 0 0).fnEnabled .host 0 = true := by decide +kernel
theorem test_flr : gives (.functionLevelReset 0 1) hosted (fun t => (t.ring 0).st == .running && (t.ring 64).st == .error && t.epochs == [] && t.fnStatus .host 0 == 2) = true := by
  decide +kernel
theorem test_flr_pba : gives (.functionLevelReset 0 1) { hosted with pba := [⟨0, 2, 3⟩, ⟨0, 1, 4⟩] } (fun t => t.pba == [⟨0, 1, 4⟩]) = true := by decide +kernel
theorem test_storm : gives (.inputStorm .perst1) up (fun t => t.pins.storm == [.perst1] && t.odGet 0x4401 0 == 4) = true
    ∧ gives (.stormQuietEnd .perst1 false) { up with pins := { up.pins with storm := [.perst1, .brake] } } (fun t => t.pins.storm == [.brake] && t.pins.perst1) = true
    ∧ becomes (.stormQuietEnd .brake true) up up = true
    ∧ becomes (.perstAssert 1) { up with pins := { up.pins with storm := [.perst1] } } { up with pins := { up.pins with storm := [.perst1] } } = true := by decide +kernel

-- ## What every step keeps

theorem test_forms : (mm .running 0).memWf = true ∧ (mm .running 0).settingsWf = true ∧ (queueing .started 0x31 2 (reg 0x1000) three).queuesWf = true := by decide +kernel
/-- A retirement and a revoked key outlast a reset, and the step that does it is one of `step`. -/
theorem test_outlast : (match step { up with pending := [.warmReset], log := { retired := [(3, 7)], nextSeq := 5 }, fw := { keyRevoked := [0], secField := 6 } } with
    | .next t => t.log.retired == [(3, 7)] && t.fw.keyRevoked == [0] && t.fw.secMin == 2 && 5 ≤ t.log.nextSeq && t.pending == [] | _ => false) = true := by decide +kernel

-- ## What waits, what finds no memory, what is held

/-- A MATMUL and a VCHAIN with their chain block at 0x8000 of die 0's memory, whose unit 0 is being cleared. -/
def chainCmd (ph : Phase) (entry : Nat) : State :=
  { mm ph 0 with cmds := [cmdOf ph entry], clearing := [0] }
def mmChained : Nat := mmEntry (0x8000 * 2 ^ 128)
def vcChained : Nat := 0x12 + (1 + 2 * 2 ^ 40 + 0x8000 * 2 ^ 192) * 2 ^ 256
theorem test_chain_waits : (chainCmd .taken vcChained).startWaits (cmdOf .taken vcChained) = true ∧ (cmdOf .started mmChained).hasChain = true
    ∧ becomes (.commandStart 0 0) (chainCmd .taken vcChained) (chainCmd .taken vcChained) = true
    ∧ becomes (.vchain 0 0 0) (chainCmd .started vcChained) (chainCmd .started vcChained) = true
    ∧ becomes (.matmul 0 0) (chainCmd .started mmChained) (chainCmd .started mmChained) = true
    ∧ (withCmd .taken 0x40).startWaits (cmdOf .taken 0x40) = false ∧ (vc .started).chainWaits (cmdOf .started vcEntry) = false := by decide +kernel
-- core 3 of CORES has no number any more
theorem test_grid_lost : gives (.workGrid 0 0) ((withCmd .started (0x40 + 2 ^ 3 * 2 ^ 384)).setLogical 3 15) (fun t => t.cmds.map (fun c => c.err.map (·.code)) == [some 0x0807]
    && (t.ring 0).grid == {}) = true := by decide +kernel
-- a completion ring in another package's memory, and one whose stack is OFF: the record is discarded
theorem test_complete_lost : let s := (withCmd .ended 0x40).setRing 0 { ringUp with head := 1, tail := 1, cplBase := 2 ^ 52 + 0x200000 }
    let u := (withCmd .ended 0x40).setFn .stack 0 0
    (s.accessErr (2 ^ 52 + 0x200000) 32 none ≠ none ∧ u.accessErr 0x200000 32 none ≠ none ∧ (withCmd .ended 0x40).accessErr 0x200000 32 none = none)
    ∧ gives (.commandComplete 0 0) s (fun t => t.mem == [] && (t.ring 0).cplTail == 1 && t.cmds == []) = true
    ∧ gives (.commandComplete 0 0) u (fun t => t.mem == [] && (t.ring 0).cplTail == 1 && t.cmds == []) = true := by decide +kernel
-- the word of a SIGNAL or WAIT in a unit that is being cleared, and in a scratchpad that another op fills
theorem test_word_waits : let s (op : Nat) (ph : Phase) : State :=
      { (signalling ph op 0 5 (7 * 2 ^ 32) 1).setSlot 7 { opened 0 with acl := 0x8000, base := 0x1000 } with clearing := [0] }
    (s 0x41 .started).signalErr (cmdOf .started (sigEntry 0x41 0 5 (7 * 2 ^ 32) 1)) = none
    ∧ (match (s 0x41 .started).wordEnd (cmdOf .started (sigEntry 0x41 0 5 (7 * 2 ^ 32) 1)) 2 with | .ok (.key k) => (s 0x41 .started).clearingIn k 8 | _ => false) = true
    ∧ becomes (.signal 0 0) (s 0x41 .started) (s 0x41 .started) = true ∧ becomes (.waitPoll 0 0) (s 0x42 .running) (s 0x42 .running) = true
    ∧ ((signalling .started 0x41 0 1 (reg 0x1000) 0).sbWrite 0 0 (reg 0x1000) 8).2 = true
    ∧ (let w := { signalling .running 0x42 0 0 pad3 0 with cores := filled3.cores }
      w.filling 0 0 (memKey pad3) 8 = true ∧ becomes (.waitPoll 0 0) w w = true) := by decide +kernel
-- the 8 old bytes of a fetch-add fail their check
theorem test_fetchAdd_bad : let s := { (signalling .running 0x42 5 0x1234 (reg 0x1000) 0) with bad := [reg 0x1000] }
    s.badIn (reg 0x1000) 8 = some (reg 0x1000)
    ∧ gives (.bankFetchAdd (.eng 0 0 none) (reg 0x1000) 1) s (fun t => t.cmds.map (fun c => c.err.map (·.code)) == [some 0x0701]) = true := by decide +kernel
-- the memory of an accepted request is OFF: it ends, and its slot is served
theorem test_accepted_off : let s := (acceptedReq 0x02 1 0 (List.replicate 16 9)).setFn .region 0 0
    s.accessErr (reg 0x1000) 1 none ≠ none
    ∧ gives (.bankWrite (.win 4) (reg 0x1000) 0 0) s (fun t => t.accepted.length == 0 && (t.slot 9).inflight == 0 && t.mem == s.mem) = true := by decide +kernel
-- an OPEN slot whose BASE is no memory of the package
theorem test_request_unplaced : let s := slot7 { opened 0 with base := 2 ^ 52 + reg 0x1000 }
    s.placeErr (2 ^ 52 + reg 0x1000 + 0xF00) 256 ≠ none ∧ s.placeErr (reg 0x1000 + 0xF00) 256 = none
    ∧ gives (.linkRd (rq 0x01 16 0xF00)) s (fun t => t.accepted == [] && t.odGet 0x5310 1 == 1) = true := by decide +kernel
-- the ring of a queue lies in a stack that is OFF
theorem test_release_off : let s := (releasing [1]).setFn .stack 0 0
    (∃ i ∈ ringed.refills 70, s.ringErr ringed i ≠ none) ∧ (∀ i ∈ ringed.refills 70, (releasing [1]).ringErr ringed i = none)
    ∧ gives (.queueRelease 0 0) s (fun t => (t.queue 0).rel == 0 && t.cmds.map (fun c => c.err.map (·.code)) == [some 0x0A01]) = true := by decide +kernel
-- the second passing verdict of a part queues no second next part
theorem test_verdict_again : let s := partDone.setCore 0 { partDone.core 0 with units := [{ chunk0 with st := .drained, next := 5, counted := true }] }
    gives (.tileVerdict 0 false) s (fun t => (t.core 0).units.map (fun u => (u.id, u.st)) == [(0, .released)]) = true := by decide +kernel
-- a DMP that is down already is waited for, and a die that returns out of its turn does not take it
theorem test_restart_waits : gives .fwActivate { fwIn .verified with fw := { (fwIn .verified).fw with dmpDown := [1] } } (fun t => t.fw.upd == .activating && t.fw.dmpDown == [1]) = true
    ∧ gives (.dmpRestartDone 2) (restarting .activating [1] [2, 3]) (fun t => t.fw.dmpDown == [3] && t.fw.restarted == [1]) = true := by decide +kernel
-- a low TRST_N resets a TAP that the tester then drives
theorem test_tap_reset : let s := { up with dbg := { up.dbg with tap := [(1, 5)] } }
    s.tapIr 1 = none ∧ gives (.jtagInstruction 0 2) s (fun t => t.dbg.tap.map (·.1) == [0] && t.pins.jtag.trstN) = true := by decide +kernel
-- ALMANAC_SAVE over a granule that fails and that the image covers in part
theorem test_save_part : (∀ g ∈ saving.bad, g + granule g ≤ reg 0x1000 ∨ reg 0x1000 + 96 * 2 ≤ g ∨ (reg 0x1000 ≤ g ∧ g + granule g ≤ reg 0x1000 + 96 * 2))
    ∧ ({ saving with bad := [reg 0x1000] } : State).badIn (reg 0x1000) 192 = some (reg 0x1000)
    ∧ gives (.almanacSave 0 0) { saving with bad := [reg 0x1000] } (fun t => t.bad == []) = true := by decide +kernel
-- R142: a product of 2^128 saturates the FP32 accumulator, whatever it held
theorem test_product_beyond : accumulate (accFmt 0 false) 0xFF7FFFFF (.fin false 1 128) = (0x7F7FFFFF, true) ∧ accumulate (accFmt 0 false) 0xFF800000 (.fin false 1 128) = (0xFF800000, false) := by
  decide +kernel

-- ## Ill-formed commands

/-- A command that WellFormed refuses, and that stops. -/
def illFormed (i : Instr) : Bool := !i.wf && (match exec i up with | .fault .noSuchStructure => true | _ => false)

-- for each check of each constructor one command that fails it alone, by the first value outside its range
def ill0 : List Instr :=
  [.tdCreate 512 0, .tdDestroy 512 0, .tdDestroyDone 512 0, .matmul 512 0, .barometer 512 0, .vchain 512 0 0, .vchain 0 0 128, .gather 512 0 0,
    .gather 0 0 128, .scatter 512 0 0, .scatter 0 0 128, .scatterAdd 512 0 0, .scatterAdd 0 0 128, .copy 512 0, .compressStore 512 0 0,
    .compressStore 0 0 128, .queuePush 512 0, .queuePop 512 0, .queueMark 512 0, .queueRewind 512 0, .queueRelease 512 0, .workGrid 512 0, .signal 512 0,
    .wait 512 0, .waitPoll 512 0, .waitTimeout 512 0, .windowOpen 512 0, .windowClose 512 0, .windowCloseDone 4 0, .windowCloseDone 0 131072,
    .slotWrite 512 0, .slotRewriteApply 4 0, .slotRewriteApply 0 131072, .slotRewriteTimeout 4 0, .slotRewriteTimeout 0 131072, .almanacSave 512 0,
    .almanacLoad 512 0, .cmdDb 512 0 0, .cplDb 512 0 0, .ringEnable 512 0, .ringDisable 512 0, .ringDrainDone 512, .entryTake 512, .commandStart 512 0,
    .commandComplete 512 0]
theorem test_illFormed_0 : ill0.all illFormed = true := by decide +kernel
def ill1 : List Instr :=
  [.almanacSeed 512 0, .accRangeAlloc 128 0 0, .accRangeAlloc 0 512 0, .stagingShareAlloc 128 0 0, .stagingShareAlloc 0 512 0, .workCounterAlloc 512 0 0,
    .tileClaim 128 0 0, .tileClaim 0 512 0, .stealHoldExpiry 128 0 0, .stealHoldExpiry 0 512 0, .kStep 128 0 none,
    .pacingWindow 128 0, .tileSwap 128 0, .tileDrain 128 [], .tileVerdict 128 false, .outboundSend 128 false, .bankRead (.eng 512 0 none) 0,
    .bankRead (.eng 0 0 none) (3 * 2 ^ 48), .bankWrite (.eng 512 0 none) 0 0 0, .bankWrite (.eng 0 0 none) (3 * 2 ^ 48) 0 0,
    .bankAdd (.eng 512 0 none) 0 0x04 0 0, .bankAdd (.eng 0 0 none) (3 * 2 ^ 48) 0x04 0 0, .bankAdd (.eng 0 0 none) 0 0x02 0 0,
    .bankMaxMin (.eng 512 0 none) 0 false 0x04 0 0, .bankMaxMin (.eng 0 0 none) (3 * 2 ^ 48) false 0x04 0 0, .bankMaxMin (.eng 0 0 none) 0 false 0x14 0 0,
    .bankMaxMinIndex (.eng 512 0 none) 0 false 0x04 0 0, .bankMaxMinIndex (.eng 0 0 none) (3 * 2 ^ 48) false 0x04 0 0,
    .bankMaxMinIndex (.eng 0 0 none) 0 false 0x14 0 0, .bankFetchAdd (.eng 512 0 none) 0 0, .bankFetchAdd (.eng 0 0 none) (3 * 2 ^ 48) 0,
    .sacRecord (.eng 512 0 none) 0 0 0 0, .sacMerge 16 0, .sacMerge 0 64, .queueEnable (.core 128) 0 0 0, .queueEnable (.host 2 0) 0 0 0,
    .queueEnable (.host 0 8) 0 0 0, .queueEnable .dmp 4 0 0, .queueEnable .dmp 0 1024 0, .queueDisable (.core 128) 0 0 0, .queueDisable (.host 2 0) 0 0 0,
    .queueDisable (.host 0 8) 0 0 0, .queueDisable .dmp 4 0 0, .queueDisable .dmp 0 1024 0]
theorem test_illFormed_1 : ill1.all illFormed = true := by decide +kernel
def ill2 : List Instr :=
  [.staleTailNotice 4 0, .staleTailNotice 0 1024, .lockAcquire (.core 128) 0 0, .lockAcquire (.host 2 0) 0 0, .lockAcquire (.host 0 8) 0 0,
    .lockAcquire .dmp 16 0, .lockAcquire .dmp 0 4096, .lockTest (.core 128) 0 0, .lockTest (.host 2 0) 0 0, .lockTest (.host 0 8) 0 0, .lockTest .dmp 16 0,
    .lockTest .dmp 0 4096, .lockRelease (.core 128) 0 0, .lockRelease (.host 2 0) 0 0, .lockRelease (.host 0 8) 0 0, .lockRelease .dmp 16 0,
    .lockRelease .dmp 0 4096, .lockMisuseWrite (.core 128) 0 0, .lockMisuseWrite (.host 2 0) 0 0, .lockMisuseWrite (.host 0 8) 0 0,
    .lockMisuseWrite .dmp 16 0, .lockMisuseWrite .dmp 0 4096, .scratchpadSplitApply 128, .flitReceive 32 false 0 0, .linkRetrain 32 {} false,
    .laneLossOfLock 32 0, .laneLossOfLock 0 8, .laneFecWindow 32 0 0, .laneFecWindow 0 8 0, .transitMessage 32 mgmt0,
    .arbiterRequest (.region 16) 0 0 .dma 0, .arbiterRequest (.egress 32) 0 0 .dma 0, .arbiterRequest (.region 0) 0 9 .dma 0,
    .arbiterRequest (.egress 0) 0 36 .dma 0, .arbiterCountersClear 4, .functionEnableWrite .core 144 false, .functionEnableWrite .region 16 false,
    .functionEnableWrite .stack 8 false, .functionEnableWrite .link 32 false, .functionEnableWrite .host 2 false, .functionStartDone .core 144 false,
    .functionStartDone .region 16 false, .functionStartDone .stack 8 false, .functionStartDone .link 32 false, .functionStartDone .host 2 false]
theorem test_illFormed_2 : ill2.all illFormed = true := by decide +kernel
def ill3 : List Instr :=
  [.functionStopDone .core 144, .functionStopDone .region 16, .functionStopDone .stack 8, .functionStopDone .link 32, .functionStopDone .host 2,
    .hbmUnitClearDone 4 0, .hbmUnitClearDone 0 252, .dmpRestartDone 4, .dmpReturnTimeout 4, .coreFence 144 .verdict, .progressBeatTimeout 144,
    .fenceRetest 144 false, .retireCopyDone 8, .hbmRetrain 8 0 false, .hbmRetrain 0 64 false, .d2dModuleDisable 6 0, .d2dModuleDisable 0 8, .phaseFailure 28,
    .dmpHeartbeat 4, .thermalSample [.region 16 0 0], .thermalSample [.alwaysOn 0, .die 4 0 0], .thermalSample [.stack 8 0], .adaptiveVoltageStep 16 false,
    .droopStretch 16 0, .droopStretchEnd 16, .perstAssert 2, .perstRelease 2, .functionLevelReset 2 0, .functionLevelReset 0 8, .jtagInstruction 4 0,
    .d2dFlitReceive 6 false false 0 [], .onDieNetworkTransfer 4 false, .queueWindowCopyDone 16, .queueControlBlockWrite (.core 128) 0 0 0,
    .queueControlBlockWrite (.host 2 0) 0 0 0, .queueControlBlockWrite (.host 0 8) 0 0 0, .queueControlBlockWrite .dmp 4 0 0,
    .queueControlBlockWrite .dmp 0 1024 0]
theorem test_illFormed_3 : ill3.all illFormed = true := by decide +kernel

end Sys2Proof.Tests
end

section
/-! PROOF. Which commands stop (log 9). -/

namespace Sys2Proof.Machine

/-- Every command answers a next state exactly when its operands name structures of the package. -/
theorem exec_eq_answer (i : Instr) (s : State) : ∃ t, exec i s = answer i.wf t := by
  cases i <;> exact ⟨_, rfl⟩

/-- A command whose operands are in range answers what its meaning does. -/
theorem answer_of_ok {ok : Bool} {s : State} (h : ok = true) : answer ok s = .next s := by rw [h]; rfl

/-- Settles O2: each command's meaning is one `answer` under its own check of the operands. -/
theorem onlyAbsentStructuresStopACommand : Obligations.OnlyAbsentStructuresStopACommand := by
  intro i s
  obtain ⟨t, ht⟩ := exec_eq_answer i s
  refine ⟨fun h => ⟨t, ht.trans (answer_of_ok h)⟩, fun h => ?_⟩
  rw [ht, h]
  rfl

end Sys2Proof.Machine
end

section
/-! PROOF. Records that reach no memory: stale tickets, and accesses that memory does not serve (R12, R171, R267, R271, R389). -/

namespace Sys2Proof.Machine

section
variable (s : State)

theorem srcOk_eng {r p : Nat} {t : Option Ticket} (h : r < 512) : (Src.eng r p t).ok = true := by simpa [Src.ok, okRing] using h

theorem okBank_of_ne {addr : Nat} (h : field addr 49 48 ≠ 3) : okBank addr = true := by simpa [okBank] using h

theorem okAddFmt_of {fmt : Nat} (h : fmt = 0x04 ∨ fmt = 0x15) : okAddFmt fmt = true := by rcases h with rfl | rfl <;> rfl

theorem okExtFmt_of {fmt : Nat} (h : fmt = 0x04 ∨ fmt = 0x15) : okExtFmt fmt = true := by rcases h with rfl | rfl <;> rfl

-- ## Why an access is not served (R12, R267, R389)

theorem State.accessErr_foreign {a : Nat} (len : Nat) (t : Option Ticket) (h : field a 63 52 ≠ s.pkg) :
    s.accessErr a len t = some (addrErr 0x0304 a) := by
  have hf : s.foreign a = true := by simpa [State.foreign, addrPkg] using h
  simp [State.accessErr, State.placeErr, firstErr, hf]

theorem State.accessErr_outside {a len : Nat} (t : Option Ticket) (h : field a 63 52 = s.pkg) (hv : s.validAt a len = false) :
    s.accessErr a len t = some (addrErr 0x0303 a) := by
  have hf : s.foreign a = false := by simpa [State.foreign, addrPkg] using h
  simp [State.accessErr, State.placeErr, firstErr, hf, hv]

theorem State.accessErr_placed {a len : Nat} (t : Option Ticket) (h : field a 63 52 = s.pkg) (hv : s.validAt a len = true) :
    s.accessErr a len t = errIf (!s.serves a) (ticketErr 0x0A01 t) := by
  have hf : s.foreign a = false := by simpa [State.foreign, addrPkg] using h
  cases hs : s.serves a <;> simp [State.accessErr, State.placeErr, firstErr, errIf, hf, hv, hs]

-- ## What an operation of an op's record does before memory serves it

theorem State.bankAccess_refused {r p addr : Nat} {t : Option Ticket} {e : Err} (serve : State) (h : s.accessErr addr 1 t = some e) :
    s.bankAccess (.eng r p t) addr serve = s.cmdError r p e := by simp [State.bankAccess, srcTicket, h, State.accessFails]

theorem State.bankAccess_clearing {r p addr : Nat} {t : Option Ticket} (serve : State) (h : s.accessErr addr 1 t = none)
    (hc : s.clearingIn (memKey addr / 64 * 64) 64 = true) : s.bankAccess (.eng r p t) addr serve = s := by
  simp [State.bankAccess, srcTicket, h, hc]

theorem State.bankAccess_served {r p addr : Nat} {t : Option Ticket} (serve : State) (h : s.accessErr addr 1 t = none)
    (hc : s.clearingIn (memKey addr / 64 * 64) 64 = false) : s.bankAccess (.eng r p t) addr serve = serve := by
  simp [State.bankAccess, srcTicket, h, hc]

/-- A bank operation of an op's record answers what `bankAccess` makes of its effect. -/
theorem exec_bank_eq_bankAccess {r p addr fmt : Nat} {t : Option Ticket} (nib : BitVec 128) (lanes : BitVec 32) (l16 : BitVec 16) (l8 : BitVec 8)
    (isMax : Bool) (amount : BitVec 64) (data : Line) (hr : r < 512) (ha : field addr 49 48 ≠ 3) (hf : fmt = 0x04 ∨ fmt = 0x15) :
    ∀ i ∈ [Instr.bankRead (.eng r p t) addr, .bankWrite (.eng r p t) addr data nib, .bankAdd (.eng r p t) addr fmt lanes data,
        .bankMaxMin (.eng r p t) addr isMax fmt l16 data, .bankMaxMinIndex (.eng r p t) addr isMax fmt l8 data,
        .bankFetchAdd (.eng r p t) addr amount],
      ∃ serve, exec i s = .next (s.bankAccess (.eng r p t) addr serve) := by
  have hok : ((Src.eng r p t).ok && okBank addr) = true := by rw [srcOk_eng hr, okBank_of_ne ha]; rfl
  have hadd : ((Src.eng r p t).ok && okBank addr && okAddFmt fmt) = true := by rw [hok, okAddFmt_of hf]; rfl
  have hext : ((Src.eng r p t).ok && okBank addr && okExtFmt fmt) = true := by rw [hok, okExtFmt_of hf]; rfl
  simp only [List.forall_mem_cons]
  exact ⟨⟨_, answer_of_ok hok⟩, ⟨_, answer_of_ok hok⟩, ⟨_, answer_of_ok hadd⟩, ⟨_, answer_of_ok hext⟩, ⟨_, answer_of_ok hext⟩,
    ⟨_, answer_of_ok hok⟩, by simp⟩

-- ## A stale record (R171)

theorem State.isStale_of_mem {k : Ticket} (h : k ∈ s.stale) : s.isStale (some k) = true := by simpa [State.isStale] using h

theorem State.effBankWrite_stale {r p addr : Nat} {k : Ticket} (data : Line) (nib : BitVec 128) (hs : k ∈ s.stale)
    (h : s.accessErr addr 1 (some k) = none) (hc : s.clearingIn (memKey addr / 64 * 64) 64 = false) :
    effBankWrite (.eng r p (some k)) addr data nib s = s.staleDrop k := by
  simp [effBankWrite, s.bankAccess_served _ h hc, s.isStale_of_mem hs]

theorem State.bankOp_stale {r p addr : Nat} {k : Ticket} (own : BankArgs) (apply : BankArgs → State → State)
    (reply : BankArgs → State → List Byte) (hs : k ∈ s.stale) (h : s.accessErr addr 1 (some k) = none)
    (hc : s.clearingIn (memKey addr / 64 * 64) 64 = false) :
    s.bankOp (.eng r p (some k)) addr own apply reply = s.staleDrop k := by
  simp [State.bankOp, s.bankAccess_served _ h hc, s.isStale_of_mem hs]

theorem State.effSacRecord_stale {r p ctxa key split : Nat} {k : Ticket} (data : Line) (hs : k ∈ s.stale) :
    effSacRecord (.eng r p (some k)) ctxa key split data s = s.staleDrop k := by
  simp [effSacRecord, s.isStale_of_mem hs]

/-- Every operation that writes, from a record with a stale ticket, is only counted. -/
theorem exec_stale_eq_staleDrop {r p addr fmt ctxa key split : Nat} {k : Ticket} (nib : BitVec 128) (lanes : BitVec 32) (l16 : BitVec 16)
    (l8 : BitVec 8) (isMax : Bool) (amount : BitVec 64) (data : Line) (hr : r < 512) (ha : field addr 49 48 ≠ 3)
    (hf : fmt = 0x04 ∨ fmt = 0x15) (h : s.accessErr addr 1 (some k) = none) (hc : s.clearingIn (memKey addr / 64 * 64) 64 = false)
    (hs : k ∈ s.stale) :
    ∀ i ∈ [Instr.bankWrite (.eng r p (some k)) addr data nib, .bankAdd (.eng r p (some k)) addr fmt lanes data,
         .bankMaxMin (.eng r p (some k)) addr isMax fmt l16 data, .bankMaxMinIndex (.eng r p (some k)) addr isMax fmt l8 data,
         .bankFetchAdd (.eng r p (some k)) addr amount, .sacRecord (.eng r p (some k)) ctxa key split data],
      exec i s = .next (s.staleDrop k) := by
  have hsrc : (Src.eng r p (some k)).ok = true := srcOk_eng hr
  have hok : ((Src.eng r p (some k)).ok && okBank addr) = true := by rw [hsrc, okBank_of_ne ha]; rfl
  have hadd : ((Src.eng r p (some k)).ok && okBank addr && okAddFmt fmt) = true := by rw [hok, okAddFmt_of hf]; rfl
  have hext : ((Src.eng r p (some k)).ok && okBank addr && okExtFmt fmt) = true := by rw [hok, okExtFmt_of hf]; rfl
  simp only [List.forall_mem_cons]
  exact ⟨(answer_of_ok hok).trans (by rw [s.effBankWrite_stale data nib hs h hc]),
    (answer_of_ok hadd).trans (by rw [effBankAdd, s.bankOp_stale _ _ _ hs h hc]),
    (answer_of_ok hext).trans (by rw [effBankMaxMin, s.bankOp_stale _ _ _ hs h hc]),
    (answer_of_ok hext).trans (by rw [effBankMaxMinIndex, s.bankOp_stale _ _ _ hs h hc]),
    (answer_of_ok hok).trans (by rw [effBankFetchAdd, s.bankOp_stale _ _ _ hs h hc]),
    (answer_of_ok hsrc).trans (by rw [s.effSacRecord_stale data hs]), by simp⟩

end

/-- Settles O31: a record that memory does not serve never reaches its effect, and one that memory serves is dropped where its ticket is stale. -/
theorem staleRecordsAreDropped : Obligations.StaleRecordsAreDropped := by
  refine ⟨fun r p addr fmt ctxa key split k nib lanes l16 l8 isMax amount data s hr ha hf h hc hs => ?_,
    fun r p addr fmt t nib lanes l16 l8 isMax amount data s hr ha hf i hi => ?_⟩
  · exact exec_stale_eq_staleDrop s nib lanes l16 l8 isMax amount data hr ha hf h hc hs
  · obtain ⟨serve, hx⟩ := exec_bank_eq_bankAccess s nib lanes l16 l8 isMax amount data hr ha hf i hi
    rw [hx]
    refine ⟨fun hp => ?_, fun hp hv => ?_, fun hp hv hn => ?_, fun hp hv hy hc => ?_⟩
    · rw [s.bankAccess_refused serve (s.accessErr_foreign 1 t hp)]; rfl
    · rw [s.bankAccess_refused serve (s.accessErr_outside t hp hv)]; rfl
    · rw [s.bankAccess_refused serve (e := ticketErr 0x0A01 t) (by rw [s.accessErr_placed t hp hv, hn]; rfl)]; rfl
    · rw [s.bankAccess_clearing serve (by rw [s.accessErr_placed t hp hv, hy]; rfl) hc]

end Sys2Proof.Machine
end

section
/-! PROOF. What verdicts and chunks are about: a core's units, its outbound queue, tickets and memory, and what each operation does to them. -/

namespace Sys2Proof.Machine

/-- What verdicts and chunks are about: the package's memory, tickets and transactions, and one core's units, outbound queue and numbering. -/
structure CoreWork where
  mem : List Host.Cell
  tickets : List (Nat × Nat × Ticket)
  txns : List Txn
  units : List WorkUnit
  nextId : Nat
  lastDrained : Option Nat
  outq : List OutRec
  nextRec : Nat

/-- That part of a state, for a core. -/
def State.work (s : State) (core : Nat) : CoreWork where
  mem := s.mem
  tickets := s.tickets
  txns := s.txns
  units := (s.core core).units
  nextId := (s.core core).nextId
  lastDrained := (s.core core).lastDrained
  outq := (s.core core).outq
  nextRec := (s.core core).nextRec

section
variable (s : State) (core : Nat)

/-- A fold keeps what each of its steps keeps. -/
theorem foldl_keeps {α β γ : Type} (view : β → γ) {f : β → α → β} (hf : ∀ b a, view (f b a) = view b) (l : List α) (b : β) :
    view (l.foldl f b) = view b := by
  induction l generalizing b with
  | nil => rfl
  | cons a l ih => rw [List.foldl_cons, ih, hf]

-- ## Updates that no core's work sees

@[simp] theorem State.work_coreBump (i c n : Nat) : (s.coreBump i c n).work core = s.work core := rfl
@[simp] theorem State.work_coreBit (c b : Nat) : (s.coreBit c b).work core = s.work core := rfl
@[simp] theorem State.work_dieBump (i d n : Nat) : (s.dieBump i d n).work core = s.work core := rfl
@[simp] theorem State.work_dieBit (d b : Nat) : (s.dieBit d b).work core = s.work core := rfl
@[simp] theorem State.work_updOp (r p : Nat) (f : Op → Op) : (s.updOp r p f).work core = s.work core := rfl
@[simp] theorem State.work_addFlags (r p f : Nat) : (s.addFlags r p f).work core = s.work core := rfl
@[simp] theorem State.work_cmdError (r p : Nat) (e : Err) : (s.cmdError r p e).work core = s.work core := rfl
@[simp] theorem State.work_inflight (i : Nat) (f : Nat → Nat) : (s.inflight i f).work core = s.work core := rfl
@[simp] theorem State.work_setAlm (i : Nat) (v : Alm) : (s.setAlm i v).work core = s.work core := rfl

/-- A core is replaced: of its work, the new one's. -/
theorem State.work_setCore (v : Core) : (s.setCore core v).work core =
    { mem := s.mem, tickets := s.tickets, txns := s.txns, units := v.units, nextId := v.nextId, lastDrained := v.lastDrained
      outq := v.outq, nextRec := v.nextRec } := by
  simp [State.work]

-- ## The fault log (R418)

/-- A state that differs in the fault log, the dictionary and what a broadcast sends alone. -/
def State.LogsOnly (s t : State) : Prop := { t with log := s.log, od := s.od, canTx := s.canTx, msix := s.msix, pba := s.pba } = s

variable {s} {t : State}

theorem State.LogsOnly.work_eq (h : s.LogsOnly t) : t.work core = s.work core := by
  have hw := congrArg (State.work · core) h
  exact hw

theorem State.LogsOnly.cmds_eq (h : s.LogsOnly t) : t.cmds = s.cmds := by
  have hc := congrArg State.cmds h
  exact hc

theorem State.LogsOnly.sendIrqs (h : s.LogsOnly t) (xs : List Irq) : s.LogsOnly (t.sendIrqs xs) := by
  induction xs generalizing t with
  | nil => exact h
  | cons x xs ih =>
    refine ih (t := t.sendIrq x) ?_
    unfold State.sendIrq
    split <;> exact h

theorem State.LogsOnly.broadcast (h : s.LogsOnly t) (f : FaultRec) : s.LogsOnly (t.broadcast f) := by
  unfold State.broadcast
  extract_lets due node frame irqs
  split
  · refine .sendIrqs ?_ _
    exact h
  · exact h

theorem State.LogsOnly.newRecord (h : s.LogsOnly t) (f : FaultRec) : s.LogsOnly (t.newRecord f) := by
  refine .broadcast ?_ _
  exact h

variable (s)

theorem State.logsOnly_logFault (f : FaultRec) : s.LogsOnly (s.logFault f) := by
  unfold State.logFault
  extract_lets recent
  split
  · rfl
  · refine .newRecord ?_ _
    rfl

@[simp] theorem State.work_severity (kind unit code action sev : Nat) (e : Err) :
    (s.severity kind unit code action sev e).work core = s.work core := (s.logsOnly_logFault _).work_eq core

@[simp] theorem State.severity_cmds (kind unit code action sev : Nat) (e : Err) :
    (s.severity kind unit code action sev e).cmds = s.cmds := (s.logsOnly_logFault _).cmds_eq

-- ## Locks that a core releases (R300)

@[simp] theorem State.work_lockAnswer (who : Requester) (region cell before : Nat) (granted : Bool) :
    (s.lockAnswer who region cell before granted).work core = s.work core := rfl

@[simp] theorem State.work_releaseLock (who : Requester) (region cell : Nat) : (s.releaseLock who region cell).work core = s.work core := by
  unfold State.releaseLock
  dsimp only
  rw [State.work_lockAnswer]
  split
  · rfl
  · split <;> rfl

@[simp] theorem State.work_letReleases : (s.letReleases core).work core = s.work core := by
  unfold State.letReleases
  dsimp only
  split
  · rw [foldl_keeps (State.work · core) (fun s x => s.work_releaseLock core _ _ _), State.work_setCore]
    rfl
  · rfl

-- ## Reads given up, scoreboards, windows

@[simp] theorem State.work_dropOwn (gone : OwnReq → Bool) : (s.dropOwn core gone).work core = s.work core := by
  unfold State.dropOwn
  dsimp only
  split
  · rfl
  · rw [foldl_keeps (State.work · core) (fun s x => s.work_inflight core _ _), State.work_setCore]
    rfl

@[simp] theorem State.work_dropArrived (r p : Nat) : (s.dropArrived r p core).work core = s.work core := State.work_dropOwn _ core _

/-- An entry of a map whose entries are rewritten in place by a function that keeps what `view` sees of a value. -/
theorem AMap.getD_map {α β : Type} (view : α → β) {f : Nat × α → Nat × α} (hk : ∀ kv, (f kv).1 = kv.1)
    (hv : ∀ kv, view (f kv).2 = view kv.2) (m : AMap α) (i : Nat) (d : α) : view (AMap.getD (m.map f) i d) = view (AMap.getD m i d) := by
  induction m with
  | nil => rfl
  | cons kv m ih =>
    unfold AMap.getD at ih ⊢
    rw [List.map_cons, show f kv = (kv.1, (f kv).2) from Prod.ext (hk kv) rfl, AMap.find_cons, AMap.find_cons]
    split
    · exact hv kv
    · exact ih

@[simp] theorem State.work_freeHolds (r p : Nat) : (s.freeHolds r p).work core = s.work core := by
  have hcore {β : Type} (view : Core → β) (hview : ∀ (c : Core) gone, view (c.sbFree gone) = view c) :
      view ((s.freeHolds r p).core core) = view (s.core core) := by
    refine AMap.getD_map view (fun kv => ?_) (fun kv => ?_) _ _ _
    · split <;> rfl
    · split
      · exact hview _ _
      · rfl
  unfold State.work
  rw [hcore Core.units fun _ _ => rfl, hcore Core.nextId fun _ _ => rfl, hcore Core.lastDrained fun _ _ => rfl,
    hcore Core.outq fun _ _ => rfl, hcore Core.nextRec fun _ _ => rfl]
  rfl

theorem State.work_bindWindow (w : Who) (pkg die slot gen : Nat) : (s.bindWindow w pkg die slot gen).work w.core = s.work w.core := by
  unfold State.bindWindow
  dsimp only
  split
  · rw [State.work_setCore]; rfl
  · rw [State.work_setCore]; split <;> rfl

theorem State.work_readsDone (w : Who) (xs : Reads) : (s.readsDone w xs).work w.core = s.work w.core := by
  have hlocal (s : State) (copies : List (Nat × Nat × Nat)) : (s.bindLocal w copies).work w.core = s.work w.core :=
    foldl_keeps (State.work · w.core) (fun s c => by
      split
      · exact s.work_bindWindow w _ _ _ _
      · rfl) copies s
  have hsweep (s : State) (d : Desc) (idxs : List (List Nat)) : (s.bindSweep w d idxs).work w.core = s.work w.core := by
    unfold State.bindSweep
    split
    · exact foldl_keeps (State.work · w.core) (fun s i => hlocal s _) idxs s
    · rfl
  have hreads : (s.bindReads w xs).work w.core = s.work w.core :=
    foldl_keeps (State.work · w.core) (f := fun s (x : Desc × List (List Nat)) => s.bindSweep w x.1 x.2) (fun s x => hsweep s x.1 x.2) xs s
  exact (State.work_dropOwn _ _ _).trans hreads

-- ## What a unit's verdict counts and pushes

@[simp] theorem State.work_noteCounts (u : WorkUnit) : (s.noteCounts core u).work core = s.work core := by
  refine foldl_keeps (State.work · core) (fun s kn => ?_) u.counts s
  dsimp only
  split <;> rfl

@[simp] theorem State.work_passCounts (u : WorkUnit) : (s.passCounts core u).work core = s.work core := by
  unfold State.passCounts
  simp only [apply_ite (State.work · core), State.work_coreBump, State.work_coreBit, State.work_noteCounts, ite_self]

@[simp] theorem State.work_earned (u : WorkUnit) : (s.earned core u).work core = s.work core := by
  unfold State.earned
  rw [apply_ite (State.work · core), State.work_addFlags, State.work_noteCounts, ite_self]

@[simp] theorem State.work_pushRescale (u : WorkUnit) (c : Cmd) (o : Op) : (s.pushRescale u c o).work core = s.work core := by
  have htouch (s : State) (die e : Nat) : (s.touchAlm die e).work core = s.work core := by
    unfold State.touchAlm State.lostQuietly
    dsimp only
    split
    · simp
    · rfl
  have hpush (s : State) (die e : Nat) (f : Alm → Alm) : (s.pushAlm die e f).work core = s.work core := by
    unfold State.pushAlm
    dsimp only
    split
    · rw [State.work_setAlm, htouch]
    · rw [State.work_dieBump, htouch]
  unfold State.pushRescale State.syntheticPush
  split
  · split
    · exact hpush _ _ _ _
    · rfl
  · rfl

@[simp] theorem State.work_noteFailure : (s.noteFailure core).work core = s.work core := by
  unfold State.noteFailure; rw [State.work_setCore]; rfl

@[simp] theorem State.work_callFence (f : Fail) : (s.callFence core f).work core = s.work core := by
  unfold State.callFence; rw [State.work_setCore]; rfl

-- ## Updates of a core's units and queue

/-- A unit's record in a core's work. -/
def CoreWork.unit (w : CoreWork) (id : Nat) : Option WorkUnit := w.units.find? fun u => u.id == id

/-- A unit of a core's work replaced. -/
def CoreWork.updUnit (w : CoreWork) (id : Nat) (f : WorkUnit → WorkUnit) : CoreWork :=
  { w with units := w.units.map fun u => if u.id == id then f u else u }

/-- The records of a unit leave the queue. -/
def CoreWork.discard (w : CoreWork) (id : Nat) : CoreWork := { w with outq := w.outq.filter fun x => x.unit != id }

/-- A unit leaves a core, and its tickets the region's list. -/
def CoreWork.leave (w : CoreWork) (core id : Nat) : CoreWork :=
  { w with units := w.units.filter fun v => v.id != id, tickets := w.tickets.filter fun t => !(t.1 == core && t.2.1 == id) }

theorem State.unit_eq_work (id : Nat) : s.unit core id = (s.work core).unit id := rfl

@[simp] theorem State.work_updUnit (id : Nat) (f : WorkUnit → WorkUnit) :
    (s.updUnit core id f).work core = (s.work core).updUnit id f := by
  unfold State.updUnit; rw [State.work_setCore]; rfl

@[simp] theorem State.work_discard (id : Nat) : (s.discard core id).work core = (s.work core).discard id := by
  unfold State.discard; rw [State.work_letReleases, State.work_setCore]; rfl

@[simp] theorem State.work_endUnit (u : WorkUnit) : (s.endUnit core u).work core = (s.work core).leave core u.id := by
  unfold State.endUnit State.leaveUnit
  rw [State.work_updOp, State.work_dropArrived]
  simp [State.work, State.core, State.setCore, CoreWork.leave]

/-- The unit that a chunk's next part is: it stands behind the part of `u`, whose claim it carries on. -/
def WorkUnit.follower (u : WorkUnit) (id : Nat) : WorkUnit :=
  let v : WorkUnit := { id := id, r := u.r, p := u.p, g := u.g, index := u.index, ticket := u.ticket }
  if u.rest.isEmpty then { v with sub := u.next } else { v with sub := u.sub, next := u.next, part := u.part + 1, rest := u.rest }

/-- The next part of a chunk joins its core's work. -/
def CoreWork.addPart (w : CoreWork) (core : Nat) (u : WorkUnit) : CoreWork :=
  { w with
    units := w.units ++ [u.follower w.nextId], nextId := w.nextId + 1
    tickets := w.tickets.map fun t => if t.1 == core && t.2.1 == u.id then (core, w.nextId, t.2.2) else t }

theorem State.work_nextPart (u : WorkUnit) : (s.nextPart core u).work core =
    if u.isLast || u.counted then s.work core else (s.work core).addPart core u := by
  unfold State.nextPart
  split
  · rfl
  · simp only [State.work, State.core, State.addUnit, State.setCore, AMap.getD_set_self, CoreWork.addPart, WorkUnit.follower]
    split <;> rfl

/-- Whether records of a unit are in the queue or on their way. -/
def CoreWork.onItsWay (w : CoreWork) (core id : Nat) : Bool :=
  w.outq.any (fun x => x.unit == id) || w.txns.any fun t => t.core == core && t.unit == some id && t.kind == .write

/-- A released unit ends when nothing of it is on its way. -/
theorem State.work_settleUnit {id : Nat} {u : WorkUnit} (hu : (s.work core).unit id = some u) (hst : u.st = .released) :
    (s.settleUnit core id).work core =
      if (s.work core).onItsWay core id then s.work core else (s.work core).leave core id := by
  have hid : u.id = id := by simpa using List.find?_some hu
  have hgo : (u.st == .released && !(s.core core).outq.any (fun x => x.unit == id)
      && !s.txns.any fun t => t.core == core && t.unit == some id && t.kind == .write) = !(s.work core).onItsWay core id := by
    rw [hst]; exact (Bool.not_or ..).symm
  unfold State.settleUnit
  rw [State.unit_eq_work, hu]
  dsimp only
  rw [hgo]
  cases (s.work core).onItsWay core id
  · simp [hid]
  · simp

theorem State.work_foldl_dropArrived (xs : List (Nat × Nat × BitVec 1024)) :
    (xs.foldl (fun s x => s.dropArrived x.1 x.2.1 core) s).work core = s.work core :=
  foldl_keeps (State.work · core) (fun s x => s.work_dropArrived core x.1 x.2.1) xs s

theorem State.work_replayUnit (u : WorkUnit) : (s.replayUnit core u).work core =
    ((s.work core).discard u.id).updUnit u.id fun v => { v.restart with replay := v.replay + 1 } := by
  simp [State.replayUnit, State.work_foldl_dropArrived]

theorem State.work_rescaleUnit (u : WorkUnit) : (s.rescaleUnit core u).work core =
    ((s.work core).discard u.id).updUnit u.id fun v => { v.restart with rescale := v.rescale + 1, last := v.last } := by
  simp [State.rescaleUnit, State.work_foldl_dropArrived]

theorem State.work_failUnit (u : WorkUnit) (e : Err) :
    (s.failUnit core u e).work core = ((s.work core).discard u.id).leave core u.id := by
  simp [State.failUnit]

/-- A unit whose verdict has passed. -/
def WorkUnit.released (u : WorkUnit) : WorkUnit := { u with st := .released, counted := true, passed := u.replay }

/-- A core's work once a unit's records are released: its next part joins, if one follows. -/
def CoreWork.release (w : CoreWork) (core : Nat) (u : WorkUnit) : CoreWork :=
  if u.isLast || u.counted then w.updUnit u.id fun _ => u.released else (w.updUnit u.id fun _ => u.released).addPart core u

/-- Searching a list for what has been rewritten in it. -/
theorem find?_map_update {α : Type} {l : List α} {p : α → Bool} {a : α} (f : α → α) (h : l.find? p = some a) (hf : p (f a) = true) :
    (l.map fun x => if p x then f x else x).find? p = some (f a) := by
  induction l with
  | nil => simp at h
  | cons x l ih =>
    by_cases hx : p x = true
    · obtain rfl : x = a := by simpa [List.find?_cons, hx] using h
      simp [hx, hf]
    · have hl : l.find? p = some a := by simpa [List.find?_cons, hx] using h
      simpa [List.find?_cons, hx] using ih hl

theorem CoreWork.unit_updUnit {w : CoreWork} {id : Nat} {u : WorkUnit} (f : WorkUnit → WorkUnit) (hu : w.unit id = some u)
    (hf : (f u).id = id) : (w.updUnit id f).unit id = some (f u) := find?_map_update f hu (by simpa using hf)

theorem CoreWork.unit_addPart {w : CoreWork} {core : Nat} {u v : WorkUnit} {id : Nat} (hu : w.unit id = some v) :
    (w.addPart core u).unit id = some v := by
  simp only [CoreWork.unit, CoreWork.addPart, List.find?_append] at hu ⊢
  rw [hu]; rfl

theorem CoreWork.unit_release {w : CoreWork} {core : Nat} {u : WorkUnit} (hu : w.unit u.id = some u) :
    (w.release core u).unit u.id = some u.released := by
  have hr : (w.updUnit u.id fun _ => u.released).unit u.id = some u.released := CoreWork.unit_updUnit _ hu rfl
  unfold CoreWork.release
  split
  · exact hr
  · exact CoreWork.unit_addPart hr

theorem CoreWork.onItsWay_release (w : CoreWork) (core id : Nat) (u : WorkUnit) :
    (w.release core u).onItsWay core id = w.onItsWay core id := by unfold CoreWork.release; split <;> rfl

theorem State.work_releaseUnit (u : WorkUnit) (c : Cmd) (o : Op) (hu : (s.work core).unit u.id = some u) :
    (s.releaseUnit core u c o).work core =
      if (s.work core).onItsWay core u.id then (s.work core).release core u else ((s.work core).release core u).leave core u.id := by
  unfold State.releaseUnit
  extract_lets again counted passed noted spilled trained ended v parted held
  have hcounted : counted.work core = s.work core := by unfold counted; split <;> rfl
  have hpassed : passed.work core = s.work core := by
    rw [← hcounted]; unfold passed; split
    · rfl
    · simp
  have hnoted : noted.work core = s.work core := hpassed
  have hspilled : spilled.work core = s.work core := by rw [← hnoted]; unfold spilled; split <;> rfl
  have htrained : trained.work core = s.work core := by
    unfold trained
    split
    · split
      · rw [State.work_pushRescale, hspilled]
      · exact hspilled
    · exact hnoted
  have hended : ended.work core = s.work core := by rw [← htrained]; unfold ended; split <;> rfl
  have hparted : parted.work core = (s.work core).release core u := by
    unfold parted
    rw [State.work_nextPart, State.work_updUnit, hended]
    rfl
  have hheld : held.work core = (s.work core).release core u := by
    rw [← hparted]; unfold held; split
    · exact State.work_freeHolds _ core _ _
    · rfl
  have hv : (held.work core).unit u.id = some u.released := by rw [hheld]; exact CoreWork.unit_release hu
  rw [State.work_settleUnit held core hv rfl, hheld, CoreWork.onItsWay_release]

-- ## The commands, which a replay flags

@[simp] theorem State.letReleases_cmds : (s.letReleases core).cmds = s.cmds := by
  have hrelease (s : State) (who : Requester) (region cell : Nat) : (s.releaseLock who region cell).cmds = s.cmds := by
    simp only [State.releaseLock, State.lockAnswer]
    split
    · rfl
    · split <;> rfl
  simp only [State.letReleases]
  split
  · exact foldl_keeps State.cmds (f := fun s (x : HeldRelease) => s.releaseLock (.core core) x.region x.cell) (fun s x => hrelease s _ _ _) _ _
  · rfl

@[simp] theorem State.dropArrived_cmds (r p : Nat) : (s.dropArrived r p core).cmds = s.cmds := by
  simp only [State.dropArrived, State.dropOwn]
  split
  · rfl
  · exact foldl_keeps State.cmds (f := fun s (x : OwnReq) => s.inflight x.slot (· - 1)) (fun _ _ => rfl) _ _

theorem State.replayUnit_cmds (u : WorkUnit) : (s.replayUnit core u).cmds = (s.addFlags u.r u.p (2 ^ flagREPLAYED)).cmds := by
  have hfold (s : State) : (u.contribs.foldl (fun s x => s.dropArrived x.1 x.2.1 core) s).cmds = s.cmds :=
    foldl_keeps State.cmds (f := fun s (x : Nat × Nat × BitVec 1024) => s.dropArrived x.1 x.2.1 core) (fun s x => s.dropArrived_cmds core _ _) _ _
  have hdrop : (((s.discard core u.id).updUnit core u.id fun v => { v.restart with replay := v.replay + 1 }).dropArrived u.r u.p core).cmds
      = s.cmds := (State.dropArrived_cmds _ core _ _).trans (State.letReleases_cmds _ core)
  rw [State.replayUnit, hfold]
  exact congrArg (List.map _) hdrop

theorem State.cmd_addFlags {s : State} {r p : Nat} {c : Cmd} (h : s.cmd r p = some c) (f : Nat) :
    (s.addFlags r p f).cmd r p = some { c with flags := c.flags ||| f } :=
  have hat : c.at_ r p = true := List.find?_some (p := fun c : Cmd => c.at_ r p) h
  find?_map_update (p := fun c : Cmd => c.at_ r p) (fun c => { c with flags := c.flags ||| f }) h hat

theorem bitOf_or_pow (n i : Nat) : bitOf (n ||| 2 ^ i) i = true := by
  have ht : (n ||| 2 ^ i).testBit i = true := by simp
  rw [Nat.testBit_eq_decide_div_mod_eq] at ht
  simpa [bitOf, Nat.shiftRight_eq_div_pow] using ht

end

end Sys2Proof.Machine
end

section
/-! PROOF. The verdict of a tile or chunk (R16, R18, R158, R284, R285, R403, R406). -/

namespace Sys2Proof.Machine

section

variable (s : State) (core : Nat)

-- ## The verdict

/-- A unit as its verdict finds it. -/
def WorkUnit.judged (u : WorkUnit) (parity : Bool) : WorkUnit := if parity then u.failWith { kind := .parity } else u

@[simp] theorem WorkUnit.judged_id (u : WorkUnit) (parity : Bool) : (u.judged parity).id = u.id := by cases parity <;> rfl

theorem WorkUnit.judged_r (u : WorkUnit) (parity : Bool) : (u.judged parity).r = u.r := by cases parity <;> rfl

theorem WorkUnit.judged_p (u : WorkUnit) (parity : Bool) : (u.judged parity).p = u.p := by cases parity <;> rfl

theorem WorkUnit.judged_eq (u : WorkUnit) (parity : Bool) : u.judged parity = { u with fail := (u.judged parity).fail } := by
  cases parity <;> rfl

theorem WorkUnit.judged_fail {u : WorkUnit} {parity : Bool} (hf : u.fail ≠ none ∨ parity = true) :
    (u.judged parity).fail = some (u.fail.getD { kind := .parity }) := by
  cases parity
  · obtain ⟨f, hf⟩ := Option.ne_none_iff_exists'.1 (hf.resolve_right Bool.false_ne_true)
    simp [WorkUnit.judged, hf]
  · rfl

/-- The state in which a verdict is formed: no unit of the core waits for one any more. -/
def State.verdictTaken (s : State) (core : Nat) : State := s.setCore core { s.core core with lastDrained := none }

theorem State.work_verdictTaken : (s.verdictTaken core).work core = { s.work core with lastDrained := none } := by
  rw [State.verdictTaken, State.work_setCore]; rfl

theorem State.verdict_pass {u : WorkUnit} {c : Cmd} {o : Op} (hf : u.fail = none) (ht : o.training c = false) :
    s.verdict core u c o false = (s.verdictTaken core).releaseUnit core u c o := by
  simp [State.verdict, State.verdictTaken, hf, ht]

theorem State.verdict_fail {u : WorkUnit} {c : Cmd} {o : Op} {parity : Bool} (hf : u.fail ≠ none ∨ parity = true) :
    s.verdict core u c o parity = ((s.verdictTaken core).updUnit core u.id fun _ => u.judged parity).verdictFails core (u.judged parity)
      (u.fail.getD { kind := .parity }) := by
  simp only [State.verdict]
  rw [show (if parity = true then u.failWith { kind := .parity } else u) = u.judged parity from rfl, WorkUnit.judged_fail hf,
    WorkUnit.judged_id]
  rfl

/-- A failure is counted with those of the last second (R406). -/
theorem State.tooManyFailures_noteFailure : (s.noteFailure core).tooManyFailures core =
    decide (s.odGet 0x3170 0 ≤ ((s.core core).failTimes.filter fun x => s.timeUs < x + 1000000).length + 1) := by
  have hod : (s.noteFailure core).odGet 0x3170 0 = s.odGet 0x3170 0 := rfl
  have hlen : (((s.noteFailure core).core core).failTimes.filter fun t => (s.noteFailure core).timeUs < t + 1000000).length
      = ((s.core core).failTimes.filter fun x => s.timeUs < x + 1000000).length + 1 := by
    simp [State.noteFailure]
  rw [State.tooManyFailures, hod, hlen]

theorem State.verdictFails_fence {u : WorkUnit} {f : Fail} (h : (s.noteFailure core).tooManyFailures core = true) :
    s.verdictFails core u f = (s.noteFailure core).callFence core f := by
  simp [State.verdictFails, h]

theorem State.verdictFails_first {u : WorkUnit} {f : Fail} (h : (s.noteFailure core).tooManyFailures core = false) (hr : u.replay = 0) :
    s.verdictFails core u f = (s.noteFailure core).replayAfter core u := by
  simp [State.verdictFails, h, hr]

/-- No outcome of a failing verdict changes a byte of memory or opens another verdict. -/
theorem State.verdictFails_keeps (u : WorkUnit) (f : Fail) :
    ((s.verdictFails core u f).work core).mem = (s.work core).mem ∧
      ((s.verdictFails core u f).work core).lastDrained = (s.work core).lastDrained := by
  have hreplay (s : State) : ((s.replayAfter core u).work core).mem = (s.work core).mem
      ∧ ((s.replayAfter core u).work core).lastDrained = (s.work core).lastDrained := by
    rw [State.replayAfter, State.work_replayUnit, State.work_severity]
    exact ⟨rfl, rfl⟩
  rw [← s.work_noteFailure core]
  unfold State.verdictFails
  extract_lets noted e marked
  have hmarked : marked.work core = noted.work core := by unfold marked; split <;> rfl
  split
  · rw [State.work_callFence]; exact ⟨rfl, rfl⟩
  split
  · exact hreplay _
  split
  · rw [State.work_failUnit, State.work_severity, hmarked]; exact ⟨rfl, rfl⟩
  split
  · rw [State.work_callFence]; exact ⟨rfl, rfl⟩
  · exact hreplay _

theorem CoreWork.release_mem (w : CoreWork) (u : WorkUnit) : (w.release core u).mem = w.mem := by unfold CoreWork.release; split <;> rfl
theorem CoreWork.release_lastDrained (w : CoreWork) (u : WorkUnit) : (w.release core u).lastDrained = w.lastDrained := by
  unfold CoreWork.release; split <;> rfl
theorem CoreWork.release_outq (w : CoreWork) (u : WorkUnit) : (w.release core u).outq = w.outq := by unfold CoreWork.release; split <;> rfl

/-- No verdict changes a byte of memory, and none is open after it. -/
theorem State.verdict_keeps {u : WorkUnit} (c : Cmd) (o : Op) (parity : Bool) (hu : s.unit core u.id = some u) :
    (s.verdict core u c o parity).mem = s.mem ∧ ((s.verdict core u c o parity).core core).lastDrained = none := by
  suffices h : ((s.verdict core u c o parity).work core).mem = ((s.verdictTaken core).work core).mem
      ∧ ((s.verdict core u c o parity).work core).lastDrained = ((s.verdictTaken core).work core).lastDrained by
    rw [State.work_verdictTaken] at h
    exact h
  by_cases hf : u.fail ≠ none ∨ parity = true
  · rw [State.verdict_fail s core hf]
    refine (State.verdictFails_keeps _ core _ _).imp (·.trans ?_) (·.trans ?_) <;> rw [State.work_updUnit] <;> rfl
  · obtain ⟨hfail, hpar⟩ := not_or.1 hf
    have hu' : ((s.verdictTaken core).work core).unit u.id = some u := by rw [State.work_verdictTaken]; exact hu
    have hv : s.verdict core u c o parity = if o.training c && u.ovf && u.rescale < 3 && o.seedEntry.isNone then
        (s.verdictTaken core).rescaleUnit core u else (s.verdictTaken core).releaseUnit core u c o := by
      simp [State.verdict, State.verdictTaken, Decidable.not_not.1 hfail, hpar]
    rw [hv]
    split
    · rw [State.work_rescaleUnit]; exact ⟨rfl, rfl⟩
    · rw [State.work_releaseUnit _ core u c o hu']
      split
      · exact ⟨CoreWork.release_mem core _ u, CoreWork.release_lastDrained core _ u⟩
      · exact ⟨CoreWork.release_mem core _ u, CoreWork.release_lastDrained core _ u⟩


-- ## A core's work after a release (R16, R284, R285)

theorem CoreWork.onItsWay_iff (w : CoreWork) (id : Nat) : w.onItsWay core id = true ↔
    (∃ y ∈ w.outq, y.unit = id) ∨ ∃ x ∈ w.txns, x.core = core ∧ x.unit = some id ∧ x.kind = .write := by
  simp [CoreWork.onItsWay, and_assoc]

theorem CoreWork.release_last {w : CoreWork} {u : WorkUnit} (h : u.isLast = true) :
    w.release core u = w.updUnit u.id fun _ => u.released := by simp [CoreWork.release, h]

theorem CoreWork.release_counted {w : CoreWork} {u : WorkUnit} (h : u.counted = true) :
    w.release core u = w.updUnit u.id fun _ => u.released := by simp [CoreWork.release, h]

theorem CoreWork.release_goesOn {w : CoreWork} {u : WorkUnit} (hl : u.isLast = false) (hc : u.counted = false) :
    w.release core u = (w.updUnit u.id fun _ => u.released).addPart core u := by simp [CoreWork.release, hl, hc]

theorem CoreWork.unit_leave (w : CoreWork) (id : Nat) : (w.leave core id).unit id = none := by
  refine List.find?_eq_none.2 fun v hv => ?_
  simpa using (List.mem_filter.1 hv).2

/-- What the part after `u` is: it waits with its records under the claim of `u`, or begins with the piece after it. -/
theorem WorkUnit.follower_spec (u : WorkUnit) (id : Nat) : (u.follower id).id = id ∧ (u.follower id).st = .held ∧ (u.follower id).rest = u.rest ∧
    (u.rest ≠ [] → (u.follower id).part = u.part + 1 ∧ (u.follower id).sub = u.sub ∧ (u.follower id).next = u.next) ∧
    (u.rest = [] → (u.follower id).part = 0 ∧ (u.follower id).sub = u.next ∧ (u.follower id).next = 0) ∧
    (u.follower id).index = u.index ∧ (u.follower id).ticket = u.ticket := by
  cases hr : u.rest <;> simp [WorkUnit.follower, hr]

/-- A ticket that goes on under the next part's number is not one of the part that leaves. -/
theorem filter_handedOn {ts : List (Nat × Nat × Ticket)} {old new : Nat} (h : old ≠ new) :
    (ts.map fun k => if k.1 == core && k.2.1 == old then (core, new, k.2.2) else k).filter (fun k => !(k.1 == core && k.2.1 == old)) =
      ts.map fun k => if k.1 == core && k.2.1 == old then (core, new, k.2.2) else k := by
  refine List.filter_eq_self.2 fun k hk => ?_
  obtain ⟨j, -, rfl⟩ := List.mem_map.1 hk
  by_cases hj : (j.1 == core && j.2.1 == old) = true
  · simp [hj, Ne.symm h]
  · simp [hj]

/-- The clauses of a passing verdict, for the work `x` that a release of `u` leaves of `w`. -/
theorem CoreWork.release_spec (w : CoreWork) {u : WorkUnit} (hu : w.unit u.id = some u) (hid : u.id < w.nextId) (x : CoreWork)
    (hx : x = if w.onItsWay core u.id then w.release core u else (w.release core u).leave core u.id) :
    x.outq = w.outq ∧
    (w.onItsWay core u.id = true → x.unit u.id = some u.released ∧ (u.isLast = true → x.tickets = w.tickets)) ∧
    (w.onItsWay core u.id = false → x.unit u.id = none ∧
      (u.isLast = true → x.tickets = w.tickets.filter fun k => !(k.1 == core && k.2.1 == u.id))) ∧
    (u.counted = true → x.nextId = w.nextId) ∧
    (u.isLast = false → u.counted = false → u.follower w.nextId ∈ x.units ∧
      x.tickets = w.tickets.map fun k => if k.1 == core && k.2.1 == u.id then (core, w.nextId, k.2.2) else k) := by
  have hmem : u.isLast = false → u.counted = false → u.follower w.nextId ∈ (w.release core u).units := fun hl hc => by
    rw [CoreWork.release_goesOn core hl hc]
    exact List.mem_append_right _ (List.mem_singleton_self _)
  subst hx
  cases hway : w.onItsWay core u.id
  · refine ⟨CoreWork.release_outq core w u, fun h => absurd h (by simp), fun _ => ⟨CoreWork.unit_leave core _ _, fun hl => ?_⟩, fun hc => ?_,
      fun hl hc => ⟨List.mem_filter.2 ⟨hmem hl hc, ?_⟩, ?_⟩⟩
    · simp [CoreWork.release_last core hl, CoreWork.leave, CoreWork.updUnit]
    · simp [CoreWork.release_counted core hc, CoreWork.leave, CoreWork.updUnit]
    · simpa [(u.follower_spec w.nextId).1] using Nat.ne_of_gt hid
    · rw [CoreWork.release_goesOn core hl hc]
      exact filter_handedOn core (Nat.ne_of_lt hid)
  · refine ⟨CoreWork.release_outq core w u, fun _ => ⟨CoreWork.unit_release hu, fun hl => ?_⟩, fun h => absurd h (by simp), fun hc => ?_,
      fun hl hc => ⟨hmem hl hc, ?_⟩⟩
    · simp [CoreWork.release_last core hl, CoreWork.updUnit]
    · simp [CoreWork.release_counted core hc, CoreWork.updUnit]
    · simp [CoreWork.release_goesOn core hl hc, CoreWork.addPart, CoreWork.updUnit]

-- ## A first failure and the fence (R18, R403, R406)

/-- The state in which a failing verdict is formed: it stands with the unit, and counts with the core's failures. -/
def State.verdictFailed (s : State) (core : Nat) (u : WorkUnit) (parity : Bool) : State :=
  ((s.verdictTaken core).updUnit core u.id fun _ => u.judged parity).noteFailure core

theorem State.work_verdictFailed (u : WorkUnit) (parity : Bool) : (s.verdictFailed core u parity).work core =
    ({ s.work core with lastDrained := none } : CoreWork).updUnit u.id fun _ => u.judged parity := by
  rw [State.verdictFailed, State.work_noteFailure, State.work_updUnit, State.work_verdictTaken]

theorem State.unit_verdictFailed {u : WorkUnit} (parity : Bool) (hu : s.unit core u.id = some u) :
    ((s.verdictFailed core u parity).work core).unit u.id = some (u.judged parity) := by
  rw [State.work_verdictFailed]
  exact CoreWork.unit_updUnit (w := { s.work core with lastDrained := none }) _ hu (u.judged_id parity)

theorem State.tooMany_verdictFailed (u : WorkUnit) (parity : Bool) : (s.verdictFailed core u parity).tooManyFailures core =
    decide (s.odGet 0x3170 0 ≤ ((s.core core).failTimes.filter fun x => s.timeUs < x + 1000000).length + 1) := by
  rw [State.verdictFailed, State.tooManyFailures_noteFailure]
  simp [State.verdictTaken, State.updUnit, Core.updUnit]
  rfl

theorem State.verdict_first {u : WorkUnit} (c : Cmd) (o : Op) {parity : Bool} (hf : u.fail ≠ none ∨ parity = true) (hr : u.replay = 0)
    (hlim : ((s.core core).failTimes.filter fun x => s.timeUs < x + 1000000).length + 1 < s.odGet 0x3170 0) :
    s.verdict core u c o parity = (s.verdictFailed core u parity).replayAfter core (u.judged parity) := by
  have hfew : (s.verdictFailed core u parity).tooManyFailures core = false := by
    rw [State.tooMany_verdictFailed]; exact decide_eq_false (Nat.not_le.2 hlim)
  have hr' : (u.judged parity).replay = 0 := by rw [WorkUnit.judged_eq]; exact hr
  rw [State.verdict_fail s core hf, State.verdictFails_first _ core hfew hr']
  rfl

theorem State.verdict_fence {u : WorkUnit} (c : Cmd) (o : Op) {parity : Bool} (hf : u.fail ≠ none ∨ parity = true)
    (hlim : s.odGet 0x3170 0 ≤ ((s.core core).failTimes.filter fun x => s.timeUs < x + 1000000).length + 1) :
    s.verdict core u c o parity = (s.verdictFailed core u parity).callFence core (u.fail.getD { kind := .parity }) := by
  have hmany : (s.verdictFailed core u parity).tooManyFailures core = true := by
    rw [State.tooMany_verdictFailed]; exact decide_eq_true hlim
  rw [State.verdict_fail s core hf, State.verdictFails_fence _ core hmany]
  rfl

theorem State.work_replayAfter (u : WorkUnit) : (s.replayAfter core u).work core =
    ((s.work core).discard u.id).updUnit u.id fun v => { v.restart with replay := v.replay + 1 } := by
  rw [State.replayAfter, State.work_replayUnit, State.work_severity]

theorem State.replayAfter_cmd {u : WorkUnit} {c : Cmd} (h : s.cmd u.r u.p = some c) :
    (s.replayAfter core u).cmd u.r u.p = some { c with flags := c.flags ||| 2 ^ flagREPLAYED } := by
  have hcmds : (s.replayAfter core u).cmds = (s.addFlags u.r u.p (2 ^ flagREPLAYED)).cmds := by
    rw [State.replayAfter, State.replayUnit_cmds]
    exact congrArg (List.map _) (s.severity_cmds _ _ _ _ _ _)
  rw [State.cmd, hcmds]
  exact State.cmd_addFlags h _

end

theorem execTileVerdict_eq {core : Nat} {u : WorkUnit} {c : Cmd} {o : Op} {s : State} (parity : Bool) (hcore : core < 128)
    (hu : (s.core core).lastDrained.bind (s.unit core) = some u) (hc : s.cmd u.r u.p = some c) (ho : s.op u.r u.p = some o)
    (hruns : s.coreRuns core = true) : exec (.tileVerdict core parity) s = .next (s.verdict core u c o parity) := by
  have hok : okCore core = true := by simpa [okCore] using hcore
  show execTileVerdict core parity s = _
  rw [execTileVerdict, answer_of_ok hok]
  simp [effTileVerdict, hu, hc, ho, hruns]

/-- Settles O24: each verdict is one change of the core's work, and its clauses are read off that. -/
theorem verdictReleasesOrReplays : Obligations.VerdictReleasesOrReplays := by
  intro core parity u c o s hcore hlast hid hcmd hop hruns
  have hu : s.unit core u.id = some u := by
    obtain ⟨id, -, hu⟩ := Option.bind_eq_some_iff.1 hlast
    obtain rfl : u.id = id := by simpa using List.find?_some hu
    exact hu
  obtain ⟨hmem, hdrained⟩ := s.verdict_keeps core c o parity hu
  refine ⟨_, execTileVerdict_eq parity hcore hlast hcmd hop hruns, hmem, hdrained, ?_, ?_, ?_⟩
  · rintro ⟨hfail, rfl, htrain⟩
    have hw := (s.verdictTaken core).work_releaseUnit core u c o (by rw [State.work_verdictTaken]; exact hu)
    rw [State.work_verdictTaken, ← State.verdict_pass s core hfail htrain] at hw
    obtain ⟨houtq, hway, hend, hcounted, hpart⟩ :=
      CoreWork.release_spec core { s.work core with lastDrained := none } hu hid _ hw
    have hon := CoreWork.onItsWay_iff core { s.work core with lastDrained := none } u.id
    refine ⟨houtq, fun h => ?_, fun h => hend (Bool.eq_false_iff.2 fun hb => h (hon.1 hb)), fun _ hc => hcounted hc, fun hl hc => ?_⟩
    · obtain ⟨hv, ht⟩ := hway (hon.2 h)
      exact ⟨⟨_, hv, rfl, rfl, rfl⟩, ht⟩
    · obtain ⟨hin, ht⟩ := hpart hl hc
      refine ⟨⟨_, hin, u.follower_spec _⟩, ht.trans ?_⟩
      simp only [Bool.and_eq_true, beq_iff_eq]
      rfl
  · rintro ⟨hf, hr, hlim⟩
    rw [s.verdict_first core c o hf hr hlim]
    have hw := (s.verdictFailed core u parity).work_replayAfter core (u.judged parity)
    rw [WorkUnit.judged_id] at hw
    have hv := CoreWork.unit_updUnit (w := ((s.verdictFailed core u parity).work core).discard u.id)
      (fun v => { v.restart with replay := v.replay + 1 }) (s.unit_verdictFailed core parity hu) (u.judged_id parity)
    rw [← hw] at hv
    rw [State.work_verdictFailed] at hw
    have hd := State.replayAfter_cmd (s.verdictFailed core u parity) core (u := u.judged parity) (c := c)
      (by rw [WorkUnit.judged_r, WorkUnit.judged_p]; exact hcmd)
    rw [WorkUnit.judged_r, WorkUnit.judged_p] at hd
    refine ⟨congrArg CoreWork.outq hw, congrArg CoreWork.tickets hw, _, hv, rfl, ?_, rfl, rfl, ?_, ?_, ?_, _, hd, rfl, bitOf_or_pow _ _⟩
    · rw [WorkUnit.judged_eq]; exact congrArg (· + 1) hr
    · show (u.judged parity).fail.or _ = _
      rw [WorkUnit.judged_fail hf]; rfl
    · rw [WorkUnit.judged_eq]; rfl
    · rw [WorkUnit.judged_eq]; rfl
  · rintro ⟨hf, hlim⟩
    rw [s.verdict_fence core c o hf hlim]
    have hw := (s.verdictFailed core u parity).work_callFence core (u.fail.getD { kind := .parity })
    have hv := s.unit_verdictFailed core parity hu
    rw [← hw] at hv
    rw [State.work_verdictFailed] at hw
    exact ⟨congrArg CoreWork.outq hw, by simp [State.callFence], _, hv, u.judged_eq parity⟩

end Sys2Proof.Machine
end

section
/-! PROOF. Chunks and compressed tiles (R17, R87 to R94, R174, R178, R207, R284). -/

namespace Sys2Proof.Machine

-- ## Reads that may stop

theorem Rd.bind_eq_ok {α β : Type} {x : Rd α} {f : α → Rd β} {b : β} : Rd.bind x f = .ok b ↔ ∃ a, x = .ok a ∧ f a = .ok b := by
  cases x <;> simp [Rd.bind]

theorem Rd.all_cons_eq_ok {α β : Type} {f : α → Rd β} {a : α} {as : List α} {bs : List β} (h : Rd.all f (a :: as) = .ok bs) :
    ∃ b rest, f a = .ok b ∧ Rd.all f as = .ok rest ∧ bs = b :: rest := by
  obtain ⟨b, hb, h⟩ := Rd.bind_eq_ok.1 h
  obtain ⟨rest, hrest, h⟩ := Rd.bind_eq_ok.1 h
  cases h
  exact ⟨b, rest, hb, hrest, rfl⟩

theorem Rd.all_answer {α β : Type} {f : α → Rd β} {as : List α} {bs : List β} (h : Rd.all f as = .ok bs) {a : α} (ha : a ∈ as) :
    ∃ b ∈ bs, f a = .ok b := by
  induction as generalizing bs with
  | nil => cases ha
  | cons a' as ih =>
    obtain ⟨b, rest, hb, hrest, rfl⟩ := Rd.all_cons_eq_ok h
    rcases List.mem_cons.1 ha with rfl | ha
    · exact ⟨b, List.mem_cons_self, hb⟩
    · obtain ⟨b', hb', hf⟩ := ih hrest ha
      exact ⟨b', List.mem_cons_of_mem _ hb', hf⟩

theorem Rd.all_source {α β : Type} {f : α → Rd β} {as : List α} {bs : List β} (h : Rd.all f as = .ok bs) {b : β} (hb : b ∈ bs) :
    ∃ a ∈ as, f a = .ok b := by
  induction as generalizing bs with
  | nil => cases h; cases hb
  | cons a as ih =>
    obtain ⟨b', rest, hb', hrest, rfl⟩ := Rd.all_cons_eq_ok h
    rcases List.mem_cons.1 hb with rfl | hb
    · exact ⟨a, List.mem_cons_self, hb'⟩
    · obtain ⟨a', ha', hf⟩ := ih hrest hb
      exact ⟨a', List.mem_cons_of_mem _ ha', hf⟩

theorem Rd.all_map {α β γ : Type} {f : α → Rd β} {g : β → γ} {k : α → γ} (hf : ∀ a b, f a = .ok b → g b = k a) {as : List α} {bs : List β}
    (h : Rd.all f as = .ok bs) : bs.map g = as.map k := by
  induction as generalizing bs with
  | nil => cases h; rfl
  | cons a as ih =>
    obtain ⟨b, rest, hb, hrest, rfl⟩ := Rd.all_cons_eq_ok h
    rw [List.map_cons, List.map_cons, hf a b hb, ih hrest]

section
variable (s : State) (core : Nat)

-- ## The commands whose op works in chunks

/-- The command of an op that runs is the one at its ring and position. -/
theorem State.Holds.inv {s : State} {r p op : Nat} {ph : Phase} {c : Cmd} (h : s.Holds r p ph op c) :
    okRing r = true ∧ s.cmd r p = some c ∧ c.phase = ph ∧ c.opcode = op ∧ c.part = r / 64 := by
  obtain ⟨hr, hc, hph, hop⟩ := h
  have hat : c.at_ r p = true := List.find?_some (p := fun c : Cmd => c.at_ r p) hc
  obtain ⟨hcr, -⟩ : c.r = r ∧ c.p = p := by simpa [Cmd.at_] using hat
  exact ⟨by simpa [okRing] using hr, hc, hph, hop, congrArg (· / 64) hcr⟩

section
variable {s core} {r p : Nat} {c : Cmd} (hcore : core < 128)
include hcore

theorem okRing_okCore (hr : okRing r = true) : (okRing r && okCore core) = true := by simpa [hr, okCore] using hcore

theorem exec_vchain_running (h : s.Holds r p .running 0x12 c) : exec (.vchain r p core) s = .next (s.runChunk core r p vchainOp) := by
  obtain ⟨hr, hc, hph, hop, -⟩ := h.inv
  refine (answer_of_ok (okRing_okCore hcore hr)).trans ?_
  simp [effVchain, hc, hop, hph]

theorem exec_gather_running (h : s.Holds r p .running 0x20 c) : exec (.gather r p core) s = .next (s.runChunk core r p gatherOp) := by
  obtain ⟨hr, hc, hph, hop, -⟩ := h.inv
  refine (answer_of_ok (okRing_okCore hcore hr)).trans ?_
  simp [effGather, hc, hop, hph]

theorem exec_scatter_running {o : Op} (h : s.Holds r p .running 0x21 c) (ho : s.op r p = some o) (hq : ¬ (o.phase < 2 ∧ s.opQuiet o = true)) :
    exec (.scatter r p core) s = .next (s.runChunk core r p scatterOp) := by
  obtain ⟨hr, hc, hph, hop, -⟩ := h.inv
  have hat : o.at_ r p = true := List.find?_some (p := fun o : Op => o.at_ r p) ho
  obtain ⟨hor, hopp⟩ : o.r = r ∧ o.p = p := by simpa [Op.at_] using hat
  refine (answer_of_ok (okRing_okCore hcore hr)).trans ?_
  have hgo : s.runScatter core o = s.runChunk core r p scatterOp := by
    rw [State.runScatter, if_neg (by simpa using hq), hor, hopp]
  simp [effScatter, hc, hop, hph, ho, hgo]

theorem exec_scatterAdd_running (h : s.Holds r p .running 0x22 c) :
    exec (.scatterAdd r p core) s = .next (s.runChunk core r p scatterAddOp) := by
  obtain ⟨hr, hc, hph, hop, -⟩ := h.inv
  refine (answer_of_ok (okRing_okCore hcore hr)).trans ?_
  simp [effScatterAdd, hc, hop, hph]

/-- How a COMPRESS_STORE computes a tile. -/
def compressOp : ChunkOp := { run := State.compressTile, reads := State.compressReads }

theorem exec_compressStore_running (h : s.Holds r p .running 0x24 c) :
    exec (.compressStore r p core) s = .next (s.runChunk core r p compressOp) := by
  obtain ⟨hr, hc, hph, hop, -⟩ := h.inv
  refine (answer_of_ok (okRing_okCore hcore hr)).trans ?_
  simp [effCompressStore, hc, hop, hph, compressOp]

end

-- ## The chunk that is worked on (R17, R18)

theorem orElse_eq_some_cases {α : Type} {a b : Option α} {x : α} (h : (a <|> b) = some x) : a = some x ∨ b = some x := by
  cases a with
  | none => exact .inr h
  | some _ => exact .inl h

theorem Core.nextChunk_spec {k : Core} {r p : Nat} {u : WorkUnit} (h : k.nextChunk r p = some u) : u.r = r ∧ u.p = p := by
  have hmem : u ∈ k.units.filter fun u => u.r == r && u.p == p && u.st == .held := by
    rcases orElse_eq_some_cases h with h | h
    · exact List.mem_of_find?_eq_some h
    · rcases orElse_eq_some_cases h with h | h
      · exact List.mem_of_find?_eq_some h
      · exact List.mem_of_mem_head? h
  obtain ⟨hr, hp⟩ : (u.r = r ∧ u.p = p) := by
    have h := (List.mem_filter.1 hmem).2
    simp only [Bool.and_eq_true, beq_iff_eq] at h
    exact h.1
  exact ⟨hr, hp⟩

/-- A core that may work on the chunk `u` of the op at (r, p) next: no verdict is open, and no chunk that starts again goes ahead of it. -/
structure State.WorksOn (s : State) (core r p : Nat) (c : Cmd) (o : Op) (u : WorkUnit) : Prop where
  cmd : s.cmd r p = some c
  op : s.op r p = some o
  next : (s.core core).nextChunk r p = some u
  formed : (s.core core).lastDrained = none
  runs : s.coreRuns core = true
  turn : (s.core core).replayWaits u = false

section
variable {s core} {r p : Nat} {c : Cmd} {o : Op} {u : WorkUnit} {f : ChunkOp} {x : SlotOut} (h : s.WorksOn core r p c o u)
include h

theorem State.runChunk_eq : s.runChunk core r p f = s.workChunk core u c o f := by
  obtain ⟨hc, ho, hu, hl, hruns, hw⟩ := h
  simp [State.runChunk, hc, ho, hu, hl, hruns, hw]

theorem State.runChunk_rest (hrest : u.rest ≠ []) : s.runChunk core r p f = s.partDone core u := by
  rw [State.runChunk_eq h]
  simp [State.workChunk, hrest]

/-- Without the check of stage slots a part is computed as it is (R283). -/
theorem State.runChunk_computed (hrest : u.rest = []) (hchk : s.odGet 0x3133 (core + 1) % 2 = 0) (hpart : c.part = r / 64)
    (hx : f.run s c o u ⟨r, p, core, r / 64⟩ = .ok x) :
    s.runChunk core r p f = s.chunkDone core { x with s := x.s.readsDone ⟨r, p, core, r / 64⟩ (f.reads s c o u ⟨r, p, core, r / 64⟩) } := by
  obtain ⟨hr, hp⟩ := Core.nextChunk_spec h.next
  rw [State.runChunk_eq h]
  simp [State.workChunk, hrest, State.slotChecked, hchk, hr, hp, hpart, hx]

end

-- ## The end of a part: its records join the queue (R284)

theorem State.chunkDone_full {s : State} {x : SlotOut} (h : (s.core core).fits (takePart partBytes (afterParts x.u.part x.recs)).1 = false) :
    s.chunkDone core x = s.coreBump 0x5142 core 1 := by
  simp [State.chunkDone, h]

/-- A core's work once the records `ds` of the unit `v` wait behind its mark for its verdict. -/
def CoreWork.commit (w : CoreWork) (v : WorkUnit) (ds : List Dest) : CoreWork :=
  { w with
    units := w.units.map fun a => if a.id == v.id then v else a
    outq := w.outq ++ ds.zipIdx.map fun d => { unit := v.id, r := v.r, p := v.p, ticket := v.ticket, dest := d.1, seq := w.nextRec + d.2 }
    nextRec := w.nextRec + ds.length
    lastDrained := some v.id }

/-- The unit of a part that has been computed. -/
def SlotOut.unitDone (x : SlotOut) (rest : List Dest) : WorkUnit := { x.u with st := .drained, rest := rest, next := x.next }

theorem State.chunkDone_fits {s : State} {x : SlotOut} (h : (s.core core).fits (takePart partBytes (afterParts x.u.part x.recs)).1 = true) :
    (s.chunkDone core x).work core = (x.s.work core).commit (x.unitDone (takePart partBytes (afterParts x.u.part x.recs)).2)
        (takePart partBytes (afterParts x.u.part x.recs)).1 ∧
      (s.chunkDone core x).cmds = x.s.cmds ∧ (s.chunkDone core x).ops = x.s.ops := by
  simp only [State.chunkDone, h, Bool.not_true, Bool.false_eq_true, if_false]
  refine ⟨?_, rfl, rfl⟩
  rw [State.work_setCore]
  simp [State.updUnit, State.enqueueRecords, Core.updUnit, State.work, CoreWork.commit, SlotOut.unitDone]

theorem State.partDone_fits {s : State} {u : WorkUnit} (h : (s.core core).fits (takePart partBytes u.rest).1 = true) :
    s.partDone core u = s.setCore core { s.core core with
      units := (s.core core).units.map fun v => if v.id = u.id then { u with st := .drained, rest := (takePart partBytes u.rest).2 } else v
      outq := (s.core core).outq ++ (takePart partBytes u.rest).1.zipIdx.map fun d =>
        { unit := u.id, r := u.r, p := u.p, ticket := u.ticket, dest := d.1, seq := (s.core core).nextRec + d.2 }
      nextRec := (s.core core).nextRec + (takePart partBytes u.rest).1.length
      lastDrained := some u.id } := by
  simp [State.partDone, h, State.updUnit, State.enqueueRecords, Core.updUnit]

-- ## What computing a part leaves as it was

/-- What of a unit its claim and its place in a chunk are. -/
def WorkUnit.claim (u : WorkUnit) : Nat × Nat × Nat × Nat × Nat × Option Ticket := (u.id, u.r, u.p, u.part, u.index, u.ticket)

@[simp] theorem WorkUnit.note_claim (u : WorkUnit) (i n : Nat) : (u.note i n).claim = u.claim := by unfold WorkUnit.note; split <;> rfl

/-- A part of a unit's chunk that has been computed and only counted: the core's work, the commands and the ops are those of `s`. -/
structure SlotOut.Computes (x : SlotOut) (s : State) (u : WorkUnit) (core : Nat) : Prop where
  claim : x.u.claim = u.claim
  work : x.s.work core = s.work core
  cmds : x.s.cmds = s.cmds
  ops : x.s.ops = s.ops

theorem State.chunkOut_computes {s : State} {u : WorkUnit} {w : Who} {src : Desc} {idxs : List (List Nat)} {clamps : Nat} {sat : Bool}
    {recs : List Dest} {next : Nat} {x : SlotOut} (h : s.chunkOut u w src idxs clamps sat recs next = .ok x) :
    x.Computes s u core ∧ x.recs = recs ∧ x.next = next := by
  obtain ⟨drops, -, h⟩ := Rd.bind_eq_ok.1 h
  cases h
  exact ⟨⟨by simp only [WorkUnit.note_claim]; rfl, rfl, rfl, rfl⟩, rfl, rfl⟩

theorem State.vCounts_frame (o : VOut) :
    (s.vCounts core o).work core = s.work core ∧ (s.vCounts core o).cmds = s.cmds ∧ (s.vCounts core o).ops = s.ops := by
  unfold State.vCounts
  extract_lets counted
  split <;> exact ⟨rfl, rfl, rfl⟩

theorem State.vChunk_computes {s : State} {c : Cmd} {o : Op} {u : WorkUnit} {w : Who} {x : SlotOut} (h : s.vChunk c o u w = .ok x) :
    x.Computes s u w.core := by
  obtain ⟨r, -, h⟩ := Rd.bind_eq_ok.1 h
  cases h
  obtain ⟨hwork, hcmds, hops⟩ := s.vCounts_frame w.core r
  exact ⟨by simp only [VOut.note, WorkUnit.note_claim]; rfl, hwork, hcmds, hops⟩

theorem State.gatherChunk_computes {s : State} {c : Cmd} {o : Op} {u : WorkUnit} {w : Who} {x : SlotOut} (h : s.gatherChunk c o u w = .ok x) :
    x.Computes s u core := by
  obtain ⟨ix, -, h⟩ := Rd.bind_eq_ok.1 h
  obtain ⟨ms, -, h⟩ := Rd.bind_eq_ok.1 h
  obtain ⟨rs, -, h⟩ := Rd.bind_eq_ok.1 h
  exact (State.chunkOut_computes core h).1

theorem State.scatterMove_computes {s : State} {c : Cmd} {u : WorkUnit} {w : Who} {ix : List (Nat × Nat × Bool)} {x : SlotOut}
    (h : s.scatterMove c u w ix = .ok x) : x.Computes s u core := by
  obtain ⟨ws, -, h⟩ := Rd.bind_eq_ok.1 h
  obtain ⟨ms, -, h⟩ := Rd.bind_eq_ok.1 h
  obtain ⟨rs, -, h⟩ := Rd.bind_eq_ok.1 h
  obtain ⟨hclaim, hwork, hcmds, hops⟩ := (State.chunkOut_computes core h).1
  exact ⟨hclaim.trans (u.note_claim _ _), hwork, hcmds, hops⟩

theorem State.scatterChunk_computes {s : State} {c : Cmd} {o : Op} {u : WorkUnit} {w : Who} {x : SlotOut} (h : s.scatterChunk c o u w = .ok x) :
    x.Computes s u core := by
  obtain ⟨ix, -, h⟩ := Rd.bind_eq_ok.1 h
  split at h
  · obtain ⟨rs, -, h⟩ := Rd.bind_eq_ok.1 h
    exact (State.chunkOut_computes core h).1
  · obtain ⟨rs, -, h⟩ := Rd.bind_eq_ok.1 h
    exact (State.chunkOut_computes core h).1
  · exact State.scatterMove_computes core h

theorem State.scatterAddChunk_computes {s : State} {c : Cmd} {o : Op} {u : WorkUnit} {w : Who} {x : SlotOut}
    (h : s.scatterAddChunk c o u w = .ok x) : x.Computes s u core := by
  obtain ⟨ix, -, h⟩ := Rd.bind_eq_ok.1 h
  obtain ⟨rs, -, h⟩ := Rd.bind_eq_ok.1 h
  exact (State.chunkOut_computes core h).1

/-- A state but for its cores, the dictionary and the slots. -/
def State.offCores (s : State) : State := { s with cores := [], od := [], slots := [] }

theorem State.offCores_bindWindow (w : Who) (pkg die slot gen : Nat) : (s.bindWindow w pkg die slot gen).offCores = s.offCores := by
  unfold State.bindWindow
  extract_lets c evicted
  split
  · rfl
  · unfold evicted; split <;> rfl

theorem State.offCores_bindSweep (w : Who) (d : Desc) (idxs : List (List Nat)) : (s.bindSweep w d idxs).offCores = s.offCores := by
  have hlocal (s : State) (copies : List (Nat × Nat × Nat)) : (s.bindLocal w copies).offCores = s.offCores :=
    foldl_keeps State.offCores (fun s c => by
      split
      · exact s.offCores_bindWindow w _ _ _ _
      · rfl) copies s
  unfold State.bindSweep
  split
  · exact foldl_keeps State.offCores (fun s i => hlocal s _) idxs s
  · rfl

theorem State.offCores_dropOwn (gone : OwnReq → Bool) : (s.dropOwn core gone).offCores = s.offCores := by
  unfold State.dropOwn
  extract_lets c mine
  split
  · rfl
  · exact foldl_keeps State.offCores (f := fun s (x : OwnReq) => s.inflight x.slot (· - 1)) (fun _ _ => rfl) _ _

/-- Giving windows their bindings and slots their counts touches cores, counters and slots alone. -/
theorem State.offCores_readsDone (w : Who) (xs : Reads) : (s.readsDone w xs).offCores = s.offCores := by
  have hreads : (s.bindReads w xs).offCores = s.offCores :=
    foldl_keeps State.offCores (f := fun s (x : Desc × List (List Nat)) => s.bindSweep w x.1 x.2)
      (fun s x => s.offCores_bindSweep w x.1 x.2) xs s
  exact (State.offCores_dropOwn _ _ _).trans hreads

theorem State.readsDone_cmds (w : Who) (xs : Reads) : (s.readsDone w xs).cmds = s.cmds := by
  have h := congrArg State.cmds (s.offCores_readsDone w xs)
  exact h

theorem State.readsDone_ops (w : Who) (xs : Reads) : (s.readsDone w xs).ops = s.ops := by
  have h := congrArg State.ops (s.offCores_readsDone w xs)
  exact h

-- ## A part as it is committed

theorem CoreWork.mem_commit {w : CoreWork} {v a : WorkUnit} {ds : List Dest} (h : a ∈ (w.commit v ds).units) (hid : a.id = v.id) : a = v := by
  obtain ⟨b, -, rfl⟩ := List.mem_map.1 h
  by_cases hb : b.id = v.id
  · simp [hb]
  · simp [hb] at hid

/-- Records that fit one part are all committed with it. -/
theorem takePart_all {ds : List Dest} {room : Nat} (h : destsBytes ds ≤ room) : takePart room ds = (ds, []) := by
  have hfold (ds : List Dest) (n : Nat) : ds.foldl (fun a d => a + d.bytes) n = n + destsBytes ds := by
    induction ds generalizing n with
    | nil => rfl
    | cons d ds ih => rw [destsBytes, List.foldl_cons, List.foldl_cons, ih, ih (0 + d.bytes)]; omega
  induction ds generalizing room with
  | nil => rfl
  | cons d ds ih =>
    have hcons : destsBytes (d :: ds) = d.bytes + destsBytes ds := by rw [destsBytes, List.foldl_cons, hfold]; omega
    rw [takePart, if_pos (by omega), ih (by omega)]

/-- A chunk whose part has been computed: its records wait for its verdict where the queue has room for them, and are counted as a stalled
cycle where it has none (R16, R284). -/
theorem State.runChunk_spec {s : State} {core r p : Nat} {c : Cmd} {o : Op} {u : WorkUnit} {f : ChunkOp} {x : SlotOut} {cut : List Dest × List Dest}
    (h : s.WorksOn core r p c o u) (hrest : u.rest = []) (hchk : s.odGet 0x3133 (core + 1) % 2 = 0) (hpart : c.part = r / 64)
    (hx : f.run s c o u ⟨r, p, core, r / 64⟩ = .ok x) (hcut : takePart partBytes (afterParts x.u.part x.recs) = cut) :
    ((s.core core).fits cut.1 = false → s.runChunk core r p f = s.coreBump 0x5142 core 1) ∧
    ((s.core core).fits cut.1 = true → (s.runChunk core r p f).work core = (x.s.work core).commit (x.unitDone cut.2) cut.1 ∧
      (s.runChunk core r p f).cmds = x.s.cmds ∧ (s.runChunk core r p f).ops = x.s.ops) := by
  subst hcut
  rw [State.runChunk_computed h hrest hchk hpart hx]
  refine ⟨fun hfull => State.chunkDone_full core hfull, fun hfits => ?_⟩
  obtain ⟨hwork, hcmds, hops⟩ := State.chunkDone_fits core
    (x := { x with s := x.s.readsDone ⟨r, p, core, r / 64⟩ (f.reads s c o u ⟨r, p, core, r / 64⟩) }) hfits
  exact ⟨hwork.trans (congrArg (CoreWork.commit · _ _) (State.work_readsDone _ ⟨r, p, core, r / 64⟩ _)),
    hcmds.trans (State.readsDone_cmds _ _ _), hops.trans (State.readsDone_ops _ _ _)⟩

/-- The unit whose part was committed awaits its verdict; no other stands under its number. -/
theorem CoreWork.mem_units_commit {t : State} {w : CoreWork} {core : Nat} {v a : WorkUnit} {ds : List Dest} (ht : t.work core = w.commit v ds)
    (ha : a ∈ (t.core core).units) (hid : a.id = v.id) : a = v := by
  have ha' : a ∈ (t.work core).units := ha
  rw [ht] at ha'
  exact CoreWork.mem_commit ha' hid

-- ## A compressed tile

theorem State.storeTile_part {s : State} {u : WorkUnit} {d : Desc} {dir : Loc} {t0 t1 : Nat} {st : StoreCtl} {es : List TileElem}
    {scales : List Nat} {zero : Bool} : (s.storeTile u d dir t0 t1 st es scales zero).u.part = u.part := by
  unfold State.storeTile
  extract_lets rec_ stop takes failing i start counted sp off fits entry spaced done
  have hspace : sp.2.1.part = u.part := by
    unfold sp
    split
    · rfl
    split
    · unfold State.takeSpace
      split <;> rfl
    · rfl
  split
  · rfl
  split
  · rfl
  · rw [← hspace]
    unfold done
    split <;> rfl

theorem State.compressTile_part {s : State} {c : Cmd} {o : Op} {u : WorkUnit} {w : Who} {x : SlotOut} (h : s.compressTile c o u w = .ok x) :
    x.u.part = u.part := by
  obtain ⟨rows, -, h⟩ := Rd.bind_eq_ok.1 h
  obtain ⟨tl, -, h⟩ := Rd.bind_eq_ok.1 h
  have hclaim := (State.chunkOut_computes w.core h).1.claim
  have hpart := congrArg (fun k => k.2.2.2.1) hclaim
  exact hpart.trans State.storeTile_part

-- ## The elements that a GATHER moves (R174, R62)

theorem flatten_runs {α : Type} (n : Nat) (l : List α) (h : l.length ≤ 32 * n) :
    ((List.range n).map fun i => (l.drop (32 * i)).take 32).flatten = l := by
  induction n generalizing l with
  | zero => simp [List.length_eq_zero_iff.1 (Nat.le_zero.1 h)]
  | succ n ih =>
    have hrest := ih (l.drop 32) (by rw [List.length_drop]; omega)
    simp only [List.drop_drop] at hrest
    rw [List.range_succ_eq_map, List.map_cons, List.map_map, List.flatten_cons]
    simp only [Function.comp_def, Nat.succ_eq_add_one, Nat.mul_add, Nat.mul_zero, Nat.mul_one, List.drop_zero]
    simp only [Nat.add_comm] at hrest ⊢
    rw [hrest, List.take_append_drop]

theorem flatten_runsOf32 {α : Type} (l : List α) : (runsOf32 l).flatten = l := flatten_runs _ l (by unfold ceilDiv; omega)

theorem mem_flatten_groupsBy {α β : Type} [BEq β] [LawfulBEq β] (key : α → β) (l : List α) (x : α) :
    x ∈ (groupsBy key l).flatten ↔ x ∈ l := by
  simp only [groupsBy, List.mem_flatten, List.mem_map, List.mem_eraseDups]
  constructor
  · rintro ⟨_, ⟨k, -, rfl⟩, hx⟩
    exact (List.mem_filter.1 hx).1
  · intro hx
    exact ⟨_, ⟨key x, ⟨x, hx, rfl⟩, rfl⟩, List.mem_filter.2 ⟨hx, beq_self_eq_true _⟩⟩

/-- Cut into pieces in either way, the slices at some positions keep their elements. -/
theorem mem_flatten_pieces (scaled : Option Desc) (view : List Nat) (dim : Nat) (js : List Nat) (idx : List Nat) :
    idx ∈ (pieces scaled view dim js).flatten ↔ ∃ j ∈ js, idx ∈ sliceIdx view dim j := by
  cases scaled with
  | some d => rw [pieces, mem_flatten_groupsBy, List.mem_flatMap]
  | none =>
    have hflat : (js.flatMap fun j => runsOf32 (sliceIdx view dim j)).flatten = js.flatMap (sliceIdx view dim) := by
      simp only [List.flatMap_def, List.flatten_flatten, List.map_map, Function.comp_def, flatten_runsOf32]
    rw [pieces, hflat, List.mem_flatMap]

theorem mem_chunkItems (total i size j : Nat) : j ∈ chunkItems total i size ↔ size * i ≤ j ∧ j < min (size * (i + 1)) total := by
  simp only [chunkItems, List.mem_map, List.mem_range, Nat.mul_add, Nat.mul_one]
  constructor
  · rintro ⟨n, hn, rfl⟩; omega
  · rintro ⟨hlo, hhi⟩; exact ⟨j - size * i, by omega, by omega⟩

/-- The pieces of a part, by where it begins and where the next one does. -/
theorem WorkUnit.items_eq {α : Type} (u : WorkUnit) (all : List α) (bytes : Nat) : u.items all bytes =
    (all.drop u.sub).take ((if u.nextItem all bytes = 0 then all.length else u.nextItem all bytes) - u.sub) := by
  have hlen : (u.items all bytes).length = min (max 1 (partBytes / max 1 bytes)) (all.length - u.sub) := by
    simp [WorkUnit.items]
  have hnext : u.nextItem all bytes = if u.sub + (u.items all bytes).length < all.length then u.sub + (u.items all bytes).length else 0 := rfl
  have htake : u.items all bytes = (all.drop u.sub).take (u.items all bytes).length := by
    rw [hlen, ← List.length_drop, ← List.take_eq_take_min]; rfl
  rw [hnext]
  split
  · have hpos : ¬ u.sub + (u.items all bytes).length = 0 := by omega
    rw [if_neg hpos, Nat.add_sub_cancel_left]
    exact htake
  · rw [if_pos rfl, List.take_of_length_le (Nat.le_of_eq List.length_drop), htake, List.take_of_length_le (by rw [List.length_drop]; omega)]

/-- The target that a chunk takes for one of its positions is the clamped index that IDX holds there (R62). -/
theorem State.chunkIndices_target {s : State} {w : Who} {c : Cmd} {ext j : Nat} {js : List Nat} {ix : List (Nat × Nat × Bool)}
    (h : s.chunkIndices w c ext js = .ok ix) (hj : j ∈ js) :
    ∃ clamped, s.readIndex w (tdDesc s c.gIdx) ext j = .ok (targetOf ix j, clamped) := by
  obtain ⟨b, hb, hread⟩ := Rd.all_answer h hj
  obtain ⟨t, -, hb'⟩ := Rd.bind_eq_ok.1 hread
  have hfound : (ix.find? fun jt => jt.1 == j).isSome := List.find?_isSome.2 ⟨b, hb, by cases hb'; exact beq_self_eq_true j⟩
  obtain ⟨e, he⟩ := Option.isSome_iff_exists.1 hfound
  obtain ⟨j', -, hread'⟩ := Rd.all_source h (List.mem_of_find?_eq_some he)
  obtain ⟨t', ht', h'⟩ := Rd.bind_eq_ok.1 hread'
  cases h'
  obtain rfl : j' = j := by simpa using List.find?_some he
  exact ⟨t'.2, by rw [targetOf, he]; exact ht'⟩

/-- The pieces of a GATHER's chunk hold the elements of DST's slices at its positions. -/
theorem State.mem_gPieces {s : State} {c : Cmd} (u : WorkUnit) (idx : List Nat) (hop : c.opcode = 0x20) : idx ∈ (s.gPieces c u).flatten ↔
    ∃ j, 1024 * u.index ≤ j ∧ j < min (1024 * (u.index + 1)) ((tdDesc s c.gIdx).viewExt 0) ∧ idx ∈ sliceIdx (tdDesc s c.gDst).view c.gDim j := by
  have hdst : (s.gTensors c).2 = tdDesc s c.gDst := by simp [State.gTensors, hop]
  rw [State.gPieces, mem_flatten_pieces, hdst]
  simp only [State.positions, mem_chunkItems, and_assoc]

theorem State.gatherChunk_spec {s : State} {c : Cmd} {o : Op} {u : WorkUnit} {w : Who} {x : SlotOut} (h : s.gatherChunk c o u w = .ok x) :
    x.next = s.partNext c u ∧ ∃ (ms : List Move) (sat : Bool),
      s.storeMoves w (tdDesc s c.gSrc) (tdDesc s c.gDst) c.gDim ms = .ok (x.recs, sat) ∧ ms.map (·.idx) = s.partIdx c u ∧
      ∀ m ∈ ms, ∃ ix clamped, s.readIndex w (tdDesc s c.gIdx) ((tdDesc s c.gSrc).viewExt c.gDim) (m.idx.getD c.gDim 0) = .ok (ix, clamped) ∧
        s.readElem w (tdDesc s c.gSrc) 0 (m.idx.set c.gDim ix) = .ok m.e := by
  obtain ⟨ix, hix, h⟩ := Rd.bind_eq_ok.1 h
  obtain ⟨ms, hms, h⟩ := Rd.bind_eq_ok.1 h
  obtain ⟨rs, hrs, h⟩ := Rd.bind_eq_ok.1 h
  obtain ⟨-, hrecs, hnext⟩ := State.chunkOut_computes w.core h
  refine ⟨hnext, ms, rs.2, by rw [hrecs]; exact hrs, ?_, fun m hm => ?_⟩
  · have hidx := Rd.all_map (g := Move.idx) (k := Prod.fst) (fun p m hp => by obtain ⟨e, -, h⟩ := Rd.bind_eq_ok.1 hp; cases h; rfl) hms
    rw [hidx, List.map_map]
    exact List.map_id _
  · obtain ⟨p, hp, hread⟩ := Rd.all_source hms hm
    obtain ⟨i, hi, rfl⟩ := List.mem_map.1 hp
    obtain ⟨e, he, hread⟩ := Rd.bind_eq_ok.1 hread
    cases hread
    have hj : i.getD c.gDim 0 ∈ positionsOf c.gDim (s.partIdx c u) := List.mem_eraseDups.2 (List.mem_map.2 ⟨i, hi, rfl⟩)
    obtain ⟨clamped, hindex⟩ := State.chunkIndices_target hix hj
    exact ⟨_, clamped, hindex, he⟩

end

/-- Settles O25: each kind of chunk is `runChunk` of its `ChunkOp`, which commits the part that it computes or has left. -/
theorem chunkRecordsWaitForTheirVerdict : Obligations.ChunkRecordsWaitForTheirVerdict := by
  refine ⟨?_, ?_, ?_, ?_⟩
  · intro r p core c o u x s i hcore ho hu hl hruns hw hchk hrest w hi cut
    obtain ⟨f, hexec, hc, hpart, hx, hclaim, hxwork, hxcmds, hxops⟩ : ∃ f : ChunkOp, exec i s = .next (s.runChunk core r p f) ∧
        s.cmd r p = some c ∧ c.part = r / 64 ∧ f.run s c o u w = .ok x ∧ x.Computes s u core := by
      rcases hi with ⟨rfl, h, hx⟩ | ⟨rfl, h, hx⟩ | ⟨rfl, h, hq, hx⟩ | ⟨rfl, h, hx⟩ <;> obtain ⟨-, hc, -, -, hpart⟩ := h.inv
      · exact ⟨_, exec_vchain_running hcore h, hc, hpart, hx, State.vChunk_computes hx⟩
      · exact ⟨_, exec_gather_running hcore h, hc, hpart, hx, State.gatherChunk_computes core hx⟩
      · exact ⟨_, exec_scatter_running hcore h ho hq, hc, hpart, hx, State.scatterChunk_computes core hx⟩
      · exact ⟨_, exec_scatterAdd_running hcore h, hc, hpart, hx, State.scatterAddChunk_computes core hx⟩
    simp only [WorkUnit.claim, Prod.mk.injEq] at hclaim
    obtain ⟨hid, hr, hp, hpt, hindex, hticket⟩ := hclaim
    obtain ⟨hfull, hfits⟩ := State.runChunk_spec (cut := cut) ⟨hc, ho, hu, hl, hruns, hw⟩ hrest hchk hpart hx (by rw [hpt]; rfl)
    rw [hexec]
    refine ⟨fun h => congrArg _ (hfull h), fun h => ?_⟩
    obtain ⟨hwork, hcmds, hops⟩ := hfits h
    rw [hxwork] at hwork
    refine ⟨_, rfl, (congrArg CoreWork.outq hwork).trans ?_, (congrArg CoreWork.lastDrained hwork).trans (congrArg some hid), fun v hv hvid => ?_,
      congrArg CoreWork.mem hwork, hcmds.trans hxcmds, hops.trans hxops, congrArg CoreWork.tickets hwork⟩
    · simp only [CoreWork.commit, SlotOut.unitDone, hid, hr, hp, hticket]
      rfl
    · obtain rfl := CoreWork.mem_units_commit hwork hv (hvid.trans hid.symm)
      exact ⟨rfl, rfl, rfl, hindex, hticket⟩
  · intro r p core c o u s i hcore ho hu hl hruns hw hrest hi cut hfits
    obtain ⟨f, hexec, hc⟩ : ∃ f : ChunkOp, exec i s = .next (s.runChunk core r p f) ∧ s.cmd r p = some c := by
      rcases hi with ⟨rfl, h⟩ | ⟨rfl, h⟩ | ⟨rfl, h, hq⟩ | ⟨rfl, h⟩ | ⟨rfl, h⟩ <;> obtain ⟨-, hc, -⟩ := h.inv
      · exact ⟨_, exec_vchain_running hcore h, hc⟩
      · exact ⟨_, exec_gather_running hcore h, hc⟩
      · exact ⟨_, exec_scatter_running hcore h ho hq, hc⟩
      · exact ⟨_, exec_scatterAdd_running hcore h, hc⟩
      · exact ⟨_, exec_compressStore_running hcore h, hc⟩
    rw [hexec, State.runChunk_rest ⟨hc, ho, hu, hl, hruns, hw⟩ hrest, State.partDone_fits core hfits]
    rfl
  · intro r p core c o u x s hcore ho hu hl hruns hw hchk hrest hpart0 h hx hbytes hfit
    obtain ⟨-, hc, -, -, hpart⟩ := h.inv
    have hcut : takePart partBytes (afterParts x.u.part x.recs) = (x.recs, []) := by
      rw [State.compressTile_part hx, hpart0]
      exact takePart_all hbytes
    obtain ⟨-, hfits⟩ := State.runChunk_spec (f := compressOp) ⟨hc, ho, hu, hl, hruns, hw⟩ hrest hchk hpart hx hcut
    obtain ⟨hwork, -, -⟩ := hfits hfit
    refine ⟨_, exec_compressStore_running hcore h, congrArg CoreWork.outq hwork, congrArg CoreWork.lastDrained hwork, fun v hv hvid => ?_,
      congrArg CoreWork.mem hwork⟩
    obtain rfl := CoreWork.mem_units_commit hwork hv hvid
    rfl
  · intro c o u w x s hop hx src dst all part
    obtain ⟨hnext, ms, sat, hstore, hidx, hmove⟩ := State.gatherChunk_spec hx
    have hpart : s.partIdx c u = part := by
      rw [State.partIdx, WorkUnit.items_eq]
      simp only [part, hnext]
      rfl
    exact ⟨⟨ms, sat, hstore, hidx.trans hpart, hmove⟩, fun idx => State.mem_gPieces u idx hop⟩

end Sys2Proof.Machine
end

section
/-! PROOF. The codes of the lane formats: a lane's sum or extremum is a code of its format (R24, R41, R43, R168). -/

namespace Sys2Proof.Machine

-- ## Payloads of NaNs (R41)

/-- The payload of a NaN has FP32's 23 mantissa bits at most. -/
def Val.PayFits : Val → Prop
  | .nan _ p => p < 2 ^ 23
  | _ => True

theorem or_quietBit_lt {p : Nat} (h : p < 2 ^ 23) : p ||| 0x400000 < 2 ^ 23 := Nat.or_lt_two_pow h (by decide)

theorem Val.PayFits.quiet {v : Val} (h : v.PayFits) : v.quiet.PayFits := by
  cases v with
  | nan n p => exact or_quietBit_lt h
  | inf n => trivial
  | fin n m e => trivial

theorem Val.PayFits.max {a b : Val} (ha : a.PayFits) (hb : b.PayFits) : (Val.max a b).PayFits := by
  unfold Val.max
  split
  · exact ha.quiet
  · split
    · exact hb.quiet
    · split
      · exact hb
      · exact ha

theorem Val.PayFits.min {a b : Val} (ha : a.PayFits) (hb : b.PayFits) : (Val.min a b).PayFits := by
  unfold Val.min
  split
  · exact ha.quiet
  · split
    · exact hb.quiet
    · split
      · exact hb
      · exact ha

theorem Val.PayFits.add {a b : Val} (ha : a.PayFits) (hb : b.PayFits) (mode : Nat) : (Val.add mode a b).PayFits := by
  cases a with
  | nan n p => exact or_quietBit_lt ha
  | inf x =>
    cases b with
    | nan n p => exact or_quietBit_lt hb
    | inf y => simp only [Val.add]; split <;> simp [Val.PayFits, qnan]
    | fin n m e => trivial
  | fin n m e =>
    cases b with
    | nan n p => exact or_quietBit_lt hb
    | inf y => trivial
    | fin n' m' e' =>
      simp only [Val.add]
      split
      · split <;> trivial
      · trivial

theorem decodeVal_int_payFits (b w : Nat) : (decodeVal (.int b) w).PayFits := trivial

theorem decodeVal_ieee_payFits {mb : Nat} (eb bias w : Nat) (hmb : mb ≤ 23) : (decodeVal (.float eb mb bias .ieee) w).PayFits := by
  have hpay : (w % 2 ^ mb) <<< (23 - mb) < 2 ^ 23 := by
    calc (w % 2 ^ mb) <<< (23 - mb) = w % 2 ^ mb * 2 ^ (23 - mb) := Nat.shiftLeft_eq ..
      _ < 2 ^ mb * 2 ^ (23 - mb) := Nat.mul_lt_mul_of_pos_right (Nat.mod_lt _ (Nat.two_pow_pos _)) (Nat.two_pow_pos _)
      _ = 2 ^ 23 := by rw [← Nat.pow_add, Nat.add_sub_cancel' hmb]
  simp only [decodeVal]
  split
  · next v hv =>
    obtain ⟨-, hv⟩ := Option.ite_none_right_eq_some.1 hv
    obtain rfl := Option.some.inj hv
    split
    · trivial
    · exact hpay
  · split <;> trivial

-- ## Codes

theorem unsigned_lt (bits : Nat) (i : Int) : unsigned bits i < 2 ^ bits := by
  have hpos : (0 : Int) < (2 ^ bits : Nat) := Int.natCast_pos.2 (Nat.two_pow_pos bits)
  have hlt := Int.emod_lt_of_pos i hpos
  have hnonneg := Int.emod_nonneg i (Int.ne_of_gt hpos)
  unfold unsigned
  omega

theorem encodeInt_lt (bits : Nat) (i : Int) : (encodeInt bits i).1 < 2 ^ bits := by
  unfold encodeInt
  extract_lets hi lo
  split
  · exact unsigned_lt _ _
  · split <;> exact unsigned_lt _ _

/-- A conversion into an integer format gives a code of its bits. -/
theorem encode_int_lt {b : Nat} (hb : 0 < b) (mode r : Nat) (v : Val) : (encode (.int b) mode r v).1 < 2 ^ b := by
  have hhalf : 2 ^ (b - 1) < 2 ^ b := Nat.pow_lt_pow_right (by decide) (by omega)
  cases v with
  | nan n p => exact Nat.two_pow_pos b
  | inf n =>
    cases n
    · exact Nat.lt_of_le_of_lt (Nat.sub_le _ _) hhalf
    · exact hhalf
  | fin n m e => exact encodeInt_lt b _

/-- A magnitude of `k` bits under a sign bit is a code of `1 + k` bits. -/
theorem sign_add_lt (neg : Bool) {k m : Nat} (h : m < 2 ^ k) : (if neg = true then 2 ^ k else 0) + m < 2 ^ (1 + k) := by
  rw [Nat.pow_add]
  split <;> omega

/-- The exponent of all ones and a mantissa fill a magnitude's bits. -/
theorem topExponent_add_lt (eb : Nat) {mb m : Nat} (h : m < 2 ^ mb) : (2 ^ eb - 1) * 2 ^ mb + m < 2 ^ (eb + mb) := by
  have hle : 2 ^ mb ≤ 2 ^ eb * 2 ^ mb := Nat.le_mul_of_pos_left _ (Nat.two_pow_pos eb)
  rw [Nat.pow_add, Nat.sub_mul, Nat.one_mul]
  omega

theorem topExponent_lt (eb mb : Nat) : (2 ^ eb - 1) * 2 ^ mb < 2 ^ (eb + mb) := topExponent_add_lt eb (Nat.two_pow_pos mb)

theorem maxCode_ieee_lt (eb mb : Nat) : maxCode eb mb .ieee < 2 ^ (eb + mb) := Nat.lt_of_le_of_lt (Nat.sub_le _ _) (topExponent_lt eb mb)

theorem encodeMag_ieee_lt (eb mb bias : Nat) (clamp : Bool) (mode : Nat) (neg : Bool) (r num den : Nat) (e : Int) :
    (encodeMag eb mb bias .ieee clamp mode neg r num den e).1 < 2 ^ (1 + (eb + mb)) := by
  unfold encodeMag
  extract_lets c sgn
  split
  · next hc => exact sign_add_lt neg (Nat.lt_of_le_of_lt hc (maxCode_ieee_lt eb mb))
  · split
    · exact sign_add_lt neg (maxCode_ieee_lt eb mb)
    · exact sign_add_lt neg (topExponent_lt eb mb)

theorem encodeNan_ieee_lt {mb pay : Nat} (eb bias : Nat) (neg : Bool) (h0 : 0 < mb) (hmb : mb ≤ 23) (hp : pay < 2 ^ 23) :
    (encodeNan (.float eb mb bias .ieee) neg pay).1 < 2 ^ (1 + (eb + mb)) := by
  have hpay : pay >>> (23 - mb) < 2 ^ mb := by
    rw [Nat.shiftRight_eq_div_pow, Nat.div_lt_iff_lt_mul (Nat.two_pow_pos _), ← Nat.pow_add, Nat.add_sub_cancel' hmb]
    exact hp
  have hma : pay >>> (23 - mb) ||| 2 ^ (mb - 1) < 2 ^ mb :=
    Nat.or_lt_two_pow hpay (Nat.pow_lt_pow_right (by decide) (by omega))
  simp only [encodeNan, Nat.add_assoc]
  exact sign_add_lt neg (topExponent_add_lt eb hma)

/-- A conversion into an IEEE format gives a code of its bits. -/
theorem encode_ieee_lt {mb : Nat} (eb bias mode r : Nat) {v : Val} (h0 : 0 < mb) (hmb : mb ≤ 23) (hv : v.PayFits) :
    (encode (.float eb mb bias .ieee) mode r v).1 < 2 ^ (1 + (eb + mb)) := by
  cases v with
  | nan n p => exact encodeNan_ieee_lt eb bias n h0 hmb hv
  | inf n => exact sign_add_lt n (topExponent_lt eb mb)
  | fin n m e => exact encodeMag_ieee_lt ..

-- ## The lane formats (R167)

/-- INT32, FP32 and BF16: the formats of a lane add. -/
def LaneFmt (fmt : Nat) : Prop := fmt = 0x04 ∨ fmt = 0x15 ∨ fmt = 0x14

theorem LaneFmt.payFits {fmt : Nat} (h : LaneFmt fmt) (w : Nat) : (decodeVal (fmtD fmt) w).PayFits := by
  rcases h with rfl | rfl | rfl
  · exact decodeVal_int_payFits 32 w
  · exact decodeVal_ieee_payFits 8 127 w (by decide)
  · exact decodeVal_ieee_payFits 8 127 w (by decide)

theorem LaneFmt.encode_lt {fmt : Nat} (h : LaneFmt fmt) {v : Val} (hv : v.PayFits) : (encode (fmtD fmt) 0 0 v).1 < 2 ^ laneBits fmt := by
  rcases h with rfl | rfl | rfl
  · exact encode_int_lt (by decide) 0 0 v
  · exact encode_ieee_lt 8 127 0 0 (by decide) (by decide) hv
  · exact encode_ieee_lt 8 127 0 0 (by decide) (by decide) hv

theorem LaneFmt.addLane_lt {fmt : Nat} (h : LaneFmt fmt) (a b : Nat) : (addLane fmt a b).1 < 2 ^ laneBits fmt :=
  h.encode_lt ((h.payFits a).add (h.payFits b) 0)

/-- INT32 and FP32, the formats of an extremum, are lane formats of 32 bits. -/
theorem laneFmt_of_ext {fmt : Nat} (h : fmt = 0x04 ∨ fmt = 0x15) : LaneFmt fmt ∧ laneBits fmt = 32 := by
  rcases h with rfl | rfl <;> exact ⟨by simp [LaneFmt], rfl⟩

-- ## Extrema (R43, R168)

theorem Val.max_of_numbers {a b : Val} (ha : a.isNan = false) (hb : b.isNan = false) :
    Val.max a b = if a.rankLt b = true then b else a := by
  rw [Val.max, if_neg (Bool.eq_false_iff.1 ha), if_neg (Bool.eq_false_iff.1 hb)]

theorem Val.min_of_numbers {a b : Val} (ha : a.isNan = false) (hb : b.isNan = false) :
    Val.min a b = if b.rankLt a = true then b else a := by
  rw [Val.min, if_neg (Bool.eq_false_iff.1 ha), if_neg (Bool.eq_false_iff.1 hb)]

theorem Val.lt_eq_false_of_isZero {a b : Val} (ha : a.isZero = true) (hb : b.isZero = true) : a.lt b = false := by
  cases a with
  | fin n m e =>
    cases b with
    | fin n' m' e' =>
      obtain rfl : m = 0 := by simpa [Val.isZero] using ha
      obtain rfl : m' = 0 := by simpa [Val.isZero] using hb
      simp [Val.lt, intAt]
    | nan n' p => simp [Val.isZero] at hb
    | inf n' => simp [Val.isZero] at hb
  | nan n p => simp [Val.isZero] at ha
  | inf n => simp [Val.isZero] at ha

theorem Val.lt_asymm {a b : Val} (h : a.lt b = true) : b.lt a = false := by
  cases a with
  | nan n p => simp [Val.lt] at h
  | inf x => cases b <;> simp_all [Val.lt]
  | fin n m e =>
    cases b with
    | nan n' p => simp [Val.lt] at h
    | inf y => simpa [Val.lt] using h
    | fin n' m' e' =>
      simp only [Val.lt, decide_eq_true_eq, decide_eq_false_iff_not, Int.min_comm e' e] at h ⊢
      omega

theorem Val.rankLt_iff (a b : Val) : a.rankLt b = true ↔
    a.lt b = true ∨ (a.isZero = true ∧ b.isZero = true ∧ a.isNegZero = true ∧ b.isNegZero = false) := by
  simp [Val.rankLt, and_assoc]

/-- Of two values, at most one ranks below the other. -/
theorem Val.rankLt_asymm {a b : Val} (h : a.rankLt b = true) : b.rankLt a = false := by
  rw [Bool.eq_false_iff]
  intro h'
  rw [Val.rankLt_iff] at h h'
  rcases h with h | ⟨ha, hb, hn, -⟩ <;> rcases h' with h' | ⟨hb', ha', -, hn'⟩
  · simp [Val.lt_asymm h] at h'
  · simp [Val.lt_eq_false_of_isZero ha' hb'] at h
  · simp [Val.lt_eq_false_of_isZero hb ha] at h'
  · simp [hn] at hn'

end Sys2Proof.Machine
end

section
/-! PROOF. The lanes of a line: what a lane-wise operation leaves in each of them (R167, R168). -/

namespace Sys2Proof.Machine

/-- Lane `i` of a line cut into lanes of `w` bits. -/
def laneOf (w v i : Nat) : Nat := v / 2 ^ (w * i) % 2 ^ w

theorem laneOf_lt (w v i : Nat) : laneOf w v i < 2 ^ w := Nat.mod_lt _ (Nat.two_pow_pos w)

theorem field_eq_laneOf {w : Nat} (hw : 0 < w) (v i : Nat) : field v (w * i + w - 1) (w * i) = laneOf w v i := by
  rw [field, laneOf, Nat.shiftRight_eq_div_pow, show w * i + w - 1 + 1 - w * i = w by omega]

/-- The upper half of a lane of 64 bits: the index of a pair (R168). -/
theorem field_index {a : Nat} (h : a < 2 ^ 64) : field a 63 32 = a / 2 ^ 32 := by
  rw [field, Nat.shiftRight_eq_div_pow, Nat.mod_eq_of_lt (by omega)]

/-- `n` lanes of `w` bits, lane `i` holding `g i`. -/
def packLanes (w n : Nat) (g : Nat → Nat) : Nat := (List.range n).foldl (fun acc i => acc + g i <<< (w * i)) 0

section
variable {w : Nat} {g : Nat → Nat} (hg : ∀ i, g i < 2 ^ w)

theorem packLanes_succ (n : Nat) : packLanes w (n + 1) g = packLanes w n g + g n * 2 ^ (w * n) := by
  rw [packLanes, List.range_succ, List.foldl_append, List.foldl_cons, List.foldl_nil, Nat.shiftLeft_eq]
  rfl

include hg

theorem packLanes_lt (n : Nat) : packLanes w n g < 2 ^ (w * n) := by
  induction n with
  | zero => simp [packLanes]
  | succ n ih =>
    calc packLanes w (n + 1) g = packLanes w n g + g n * 2 ^ (w * n) := packLanes_succ n
      _ < (g n + 1) * 2 ^ (w * n) := by rw [Nat.add_one_mul]; omega
      _ ≤ 2 ^ w * 2 ^ (w * n) := Nat.mul_le_mul_right _ (hg n)
      _ = 2 ^ (w * (n + 1)) := by rw [← Nat.pow_add, Nat.mul_succ, Nat.add_comm]

theorem laneOf_packLanes {n i : Nat} (hi : i < n) : laneOf w (packLanes w n g) i = g i := by
  induction n with
  | zero => omega
  | succ n ih =>
    rw [packLanes_succ, laneOf]
    rcases Nat.lt_succ_iff_lt_or_eq.1 hi with hlt | rfl
    · obtain ⟨k, rfl⟩ := Nat.exists_eq_add_of_lt hlt
      have hsplit : 2 ^ (w * (i + k + 1)) = 2 ^ (w * i) * (2 ^ w * 2 ^ (w * k)) := by
        rw [← Nat.pow_add, ← Nat.pow_add, show i + k + 1 = i + (1 + k) by omega, Nat.mul_add, Nat.mul_add w 1 k, Nat.mul_one]
      rw [hsplit, Nat.mul_left_comm, Nat.add_mul_div_left _ _ (Nat.two_pow_pos _), Nat.mul_left_comm, Nat.add_mul_mod_self_left]
      exact ih hlt
    · rw [Nat.add_mul_div_right _ _ (Nat.two_pow_pos _), Nat.div_eq_of_lt (packLanes_lt hg i), Nat.zero_add, Nat.mod_eq_of_lt (hg i)]

end

/-- What a masked operation leaves in lane `i`. -/
def combineLane (w mask old data : Nat) (f : Nat → Nat → Nat) (i : Nat) : Nat :=
  if bitOf mask i = true then f (laneOf w old i) (laneOf w data i) else laneOf w old i

section
variable {w : Nat} (hw : 0 < w) (n mask old data : Nat) {f : Nat → Nat → Nat}

include hw in
theorem mapLanes_eq_packLanes : mapLanes n w mask old data f = packLanes w n (combineLane w mask old data f) := by
  simp only [mapLanes, packLanes, combineLane, field_eq_laneOf hw]

variable (hf : ∀ a b, a < 2 ^ w → b < 2 ^ w → f a b < 2 ^ w)
include hf

theorem combineLane_lt (i : Nat) : combineLane w mask old data f i < 2 ^ w := by
  unfold combineLane
  split
  · exact hf _ _ (laneOf_lt ..) (laneOf_lt ..)
  · exact laneOf_lt ..

include hw

theorem mapLanes_lt : mapLanes n w mask old data f < 2 ^ (w * n) := by
  rw [mapLanes_eq_packLanes hw]
  exact packLanes_lt (combineLane_lt mask old data hf) n

theorem laneOf_mapLanes {i : Nat} (hi : i < n) : laneOf w (mapLanes n w mask old data f) i = combineLane w mask old data f i := by
  rw [mapLanes_eq_packLanes hw]
  exact laneOf_packLanes (combineLane_lt mask old data hf) hi

end

-- ## Extrema of a lane and of a pair (R41, R43, R168)

/-- Whether code `x` wins over code `y` in an extremum. -/
def beats (isMax : Bool) (fmt x y : Nat) : Bool :=
  if isMax = true then (decodeVal (fmtD fmt) (y % 2 ^ 32)).rankLt (decodeVal (fmtD fmt) (x % 2 ^ 32))
  else (decodeVal (fmtD fmt) (x % 2 ^ 32)).rankLt (decodeVal (fmtD fmt) (y % 2 ^ 32))

theorem beats_asymm {isMax : Bool} {fmt x y : Nat} (h : beats isMax fmt x y = true) : beats isMax fmt y x = false := by
  cases isMax <;> exact Val.rankLt_asymm h

section
variable (isMax : Bool) {fmt a b : Nat}

theorem extLane_nan (ha : a < 2 ^ 32) (hx : (decodeVal (fmtD fmt) (a % 2 ^ 32)).isNan = true) :
    extLane isMax fmt a b = (encode (fmtD fmt) 0 0 (decodeVal (fmtD fmt) (a % 2 ^ 32)).quiet).1 := by
  rw [Nat.mod_eq_of_lt ha] at hx ⊢
  exact if_pos hx

theorem extLane_winner (ha : a < 2 ^ 32) (hb : b < 2 ^ 32) (hx : (decodeVal (fmtD fmt) (a % 2 ^ 32)).isNan = false)
    (hy : (decodeVal (fmtD fmt) (b % 2 ^ 32)).isNan = false) :
    extLane isMax fmt a b = (encode (fmtD fmt) 0 0
      (if beats isMax fmt b a = true then decodeVal (fmtD fmt) (b % 2 ^ 32) else decodeVal (fmtD fmt) (a % 2 ^ 32))).1 := by
  unfold beats
  rw [Nat.mod_eq_of_lt ha] at hx ⊢
  rw [Nat.mod_eq_of_lt hb] at hy ⊢
  rw [extLane, laneFmt, if_neg (Bool.eq_false_iff.1 hx), Val.max_of_numbers hx hy, Val.min_of_numbers hx hy]
  cases isMax <;> rfl

theorem extPair_nan (ha : a < 2 ^ 64) (hx : (decodeVal (fmtD fmt) (a % 2 ^ 32)).isNan = true) :
    extPair isMax fmt a b = (encode (fmtD fmt) 0 0 (decodeVal (fmtD fmt) (a % 2 ^ 32)).quiet).1 + 2 ^ 32 * (a / 2 ^ 32) := by
  rw [extPair, laneFmt, if_pos hx, field_index ha, Nat.shiftLeft_eq, Nat.mul_comm]

theorem extPair_nan_right (hb : b < 2 ^ 64) (hx : (decodeVal (fmtD fmt) (a % 2 ^ 32)).isNan = false)
    (hy : (decodeVal (fmtD fmt) (b % 2 ^ 32)).isNan = true) :
    extPair isMax fmt a b = (encode (fmtD fmt) 0 0 (decodeVal (fmtD fmt) (b % 2 ^ 32)).quiet).1 + 2 ^ 32 * (b / 2 ^ 32) := by
  rw [extPair, laneFmt, if_neg (Bool.eq_false_iff.1 hx), if_pos hy, field_index hb, Nat.shiftLeft_eq, Nat.mul_comm]

/-- Of a pair and its operand's, the winner stays; of two that tie, the value with the lower index. -/
theorem extPair_winner (ha : a < 2 ^ 64) (hb : b < 2 ^ 64) (hx : (decodeVal (fmtD fmt) (a % 2 ^ 32)).isNan = false)
    (hy : (decodeVal (fmtD fmt) (b % 2 ^ 32)).isNan = false) :
    extPair isMax fmt a b = if beats isMax fmt b a = true then b else if beats isMax fmt a b = true then a
      else a % 2 ^ 32 + 2 ^ 32 * min (a / 2 ^ 32) (b / 2 ^ 32) := by
  rw [extPair, laneFmt, if_neg (Bool.eq_false_iff.1 hx), if_neg (Bool.eq_false_iff.1 hy), field_index ha, field_index hb,
    Nat.shiftLeft_eq, Nat.mul_comm (min _ _)]
  cases isMax <;> rfl

variable (hfmt : fmt = 0x04 ∨ fmt = 0x15)
include hfmt

theorem extCode_lt {v : Val} (hv : v.PayFits) : (encode (fmtD fmt) 0 0 v).1 < 2 ^ 32 := by
  obtain ⟨hlane, hbits⟩ := laneFmt_of_ext hfmt
  rw [← hbits]
  exact hlane.encode_lt hv

theorem extLane_lt (a b : Nat) : extLane isMax fmt a b < 2 ^ 32 := by
  obtain ⟨hlane, -⟩ := laneFmt_of_ext hfmt
  have ha := hlane.payFits a
  have hb := hlane.payFits b
  unfold extLane
  extract_lets f x y
  split
  · exact extCode_lt hfmt ha.quiet
  · cases isMax
    · exact extCode_lt hfmt (ha.min hb)
    · exact extCode_lt hfmt (ha.max hb)

theorem extPair_lt (ha : a < 2 ^ 64) (hb : b < 2 ^ 64) : extPair isMax fmt a b < 2 ^ 64 := by
  obtain ⟨hlane, -⟩ := laneFmt_of_ext hfmt
  have hcode (w : Nat) : (encode (fmtD fmt) 0 0 (decodeVal (fmtD fmt) w).quiet).1 < 2 ^ 32 := extCode_lt hfmt (hlane.payFits w).quiet
  cases hx : (decodeVal (fmtD fmt) (a % 2 ^ 32)).isNan with
  | true =>
    have := hcode (a % 2 ^ 32)
    rw [extPair_nan isMax ha hx]
    omega
  | false =>
    cases hy : (decodeVal (fmtD fmt) (b % 2 ^ 32)).isNan with
    | true =>
      have := hcode (b % 2 ^ 32)
      rw [extPair_nan_right isMax hb hx hy]
      omega
    | false =>
      rw [extPair_winner isMax ha hb hx hy]
      split
      · exact hb
      · split
        · exact ha
        · omega

end

end Sys2Proof.Machine
end

section
/-! PROOF. Read-modify-writes of a line, and the bank operations of an op's record that memory serves (R167, R170, R401). -/

namespace Sys2Proof.Machine

-- ## What the log of a failing granule leaves alone (R401, R409 to R411)

/-- What no fault-log record changes: memory, and the commands that are outstanding. -/
def State.memAndCmds (s : State) : List Host.Cell × List Cmd := (s.mem, s.cmds)

section
variable {s t : State}

theorem State.LogsOnly.memAndCmds_eq (h : s.LogsOnly t) : t.memAndCmds = s.memAndCmds := by
  have hm := congrArg State.memAndCmds h
  exact hm

variable (s)

theorem State.severity_memAndCmds (kind unit code action sev : Nat) (e : Err) :
    (s.severity kind unit code action sev e).memAndCmds = s.memAndCmds := (s.logsOnly_logFault _).memAndCmds_eq

theorem State.newRecord_memAndCmds (f : FaultRec) : (s.newRecord f).memAndCmds = s.memAndCmds :=
  (State.LogsOnly.newRecord (s := s) rfl f).memAndCmds_eq

theorem State.refreshService_memAndCmds : s.refreshService.memAndCmds = s.memAndCmds := by
  unfold State.refreshService
  split
  · extract_lets c old v s₁ s₂ s₃
    split
    · rfl
    · rw [State.newRecord_memAndCmds]; rfl
  · rfl

theorem State.poison_memAndCmds (ss : Nat) (keys : List Nat) : (s.poison ss keys).memAndCmds = s.memAndCmds := by
  unfold State.poison
  extract_lets fresh
  split
  · rfl
  · rw [State.severity_memAndCmds]; rfl

theorem State.retirePc_memAndCmds (ss pc : Nat) : (s.retirePc ss pc).memAndCmds = s.memAndCmds := by
  have hretire : (s.retire 5 (64 * ss + pc)).memAndCmds = s.memAndCmds := by unfold State.retire; split <;> rfl
  rw [State.retirePc, State.severity_memAndCmds]
  exact hretire

theorem State.retireChannel_memAndCmds (ss pc : Nat) : (s.retireChannel ss pc).memAndCmds = s.memAndCmds := by
  unfold State.retireChannel
  extract_lets st
  split
  · rfl
  · split
    · rw [State.refreshService_memAndCmds, State.retirePc_memAndCmds]; rfl
    · rw [State.refreshService_memAndCmds, State.severity_memAndCmds]
      exact s.poison_memAndCmds ss _

theorem State.sectorFailed_memAndCmds (key : Nat) : (s.sectorFailed key).memAndCmds = s.memAndCmds := by
  unfold State.sectorFailed
  extract_lets sc st recent s₁ s₂ n
  have h₂ : s₂.memAndCmds = s.memAndCmds := by
    unfold s₂
    split
    · exact s₁.poison_memAndCmds _ _
    · rfl
  split
  · rw [State.retireChannel_memAndCmds, h₂]
  · exact h₂

theorem State.checkFailed_memAndCmds (g : Nat) : (s.checkFailed g).memAndCmds = s.memAndCmds := by
  unfold State.checkFailed
  split
  · exact s.sectorFailed_memAndCmds _
  · rfl

theorem State.noteBad_memAndCmds (key len : Nat) : (s.noteBad key len).memAndCmds = s.memAndCmds :=
  foldl_keeps State.memAndCmds
    (fun s g => by rw [State.checkFailed_memAndCmds, State.lostQuietly, State.severity_memAndCmds]) _ s

@[simp] theorem State.closeGroup_mem (key : Nat) : (s.closeGroup key).mem = s.mem := rfl

@[simp] theorem State.closeGroup_cmds (key : Nat) : (s.closeGroup key).cmds = s.cmds := rfl

theorem State.noteBad_mem (key len : Nat) : (s.noteBad key len).mem = s.mem := congrArg Prod.fst (s.noteBad_memAndCmds key len)

theorem State.noteBad_cmds (key len : Nat) : (s.noteBad key len).cmds = s.cmds := congrArg Prod.snd (s.noteBad_memAndCmds key len)

@[simp] theorem State.closeGroup_badIn (m : List Host.Cell) (key a len : Nat) :
    ({ s with mem := m }.closeGroup key).badIn a len = s.badIn a len := rfl

theorem State.closeGroup_frame (m : List Host.Cell) (key : Nat) :
    { ({ s with mem := m } : State).closeGroup key with mem := s.mem, groups := s.groups } = s := rfl

/-- Where no granule of a range fails its check there is nothing to note. -/
theorem State.noteBad_of_good {s : State} {key len : Nat} (h : s.badIn key len = none) : s.noteBad key len = s := by
  have hnone : (s.bad.filter fun g => g < key + len && key < g + granule g) = [] :=
    List.filter_eq_nil_iff.2 fun g hg => List.find?_eq_none.1 h g hg
  rw [State.noteBad, State.noteGranules, hnone]
  rfl

end

-- ## Read-modify-writes of a line (R167)

section
variable (s : State) {key new : Nat}

@[simp] theorem State.lineUpdate_mem : (s.lineUpdate key new).mem = Mem.writeNat s.mem key new 64 := by
  rw [State.lineUpdate, State.noteBad_mem, State.closeGroup_mem]

@[simp] theorem State.lineUpdate_cmds : (s.lineUpdate key new).cmds = s.cmds := by
  rw [State.lineUpdate, State.noteBad_cmds, State.closeGroup_cmds]

/-- Where no granule of the line fails its check, an update changes memory and closes the line's group, no more. -/
theorem State.lineUpdate_frame (h : s.badIn key 64 = none) :
    { s.lineUpdate key new with mem := s.mem, groups := s.groups } = s := by
  rw [State.lineUpdate, State.noteBad_of_good ((s.closeGroup_badIn _ _ _ _).trans h)]
  exact s.closeGroup_frame _ _

variable {s}

theorem State.mem_wf_of_memWf (h : s.memWf = true) : Mem.wf s.mem = true := by
  simp only [State.memWf, Bool.and_eq_true] at h
  exact h.1.1

variable (h : s.memWf = true)
include h

/-- What a lane-wise operation writes back is what the line reads as, lane by lane. -/
theorem State.laneOf_lineUpdate {w n mask data i : Nat} {f : Nat → Nat → Nat} (hw : 0 < w) (hwn : w * n = 512)
    (hf : ∀ a b, a < 2 ^ w → b < 2 ^ w → f a b < 2 ^ w) (hi : i < n) :
    laneOf w (Mem.readNat (s.lineUpdate key (mapLanes n w mask (s.line key) data f)).mem key 64) i =
      combineLane w mask (s.line key) data f i := by
  have hfits : 256 ^ 64 = 2 ^ (w * n) := by
    rw [show (256 : Nat) = 2 ^ 8 from rfl, ← Nat.pow_mul, show 8 * 64 = w * n by omega]
  rw [State.lineUpdate_mem, Mem.readNat_writeNat _ _ _ (State.mem_wf_of_memWf h), hfits,
    Nat.mod_eq_of_lt (mapLanes_lt hw n mask _ data hf)]
  exact laneOf_mapLanes hw n mask _ data hf hi

theorem State.read_lineUpdate_outside {x : Nat} (hx : x < key ∨ key + 64 ≤ x) :
    Mem.read (s.lineUpdate key new).mem x = Mem.read s.mem x := by
  rw [State.lineUpdate_mem]
  exact Mem.read_writeNat_of_outside (State.mem_wf_of_memWf h) hx

end

-- ## A record that memory serves

section
variable {s : State} {r addr : Nat} {k : Option Ticket}

theorem State.Fresh.bank_ok (h : s.Fresh r k addr) (p : Nat) : ((Src.eng r p k).ok && okBank addr) = true := by
  obtain ⟨hr, ha, -⟩ := h
  rw [srcOk_eng hr, okBank_of_ne ha]
  rfl

theorem State.Fresh.notStale (h : s.Fresh r k addr) : s.isStale k = false := by
  obtain ⟨-, -, -, -, hstale⟩ := h
  cases k with
  | none => rfl
  | some t => simpa [State.isStale] using hstale t rfl

theorem State.Fresh.bankAccess (h : s.Fresh r k addr) (p : Nat) (serve : State) : s.bankAccess (.eng r p k) addr serve = serve := by
  obtain ⟨-, -, herr, hclear, -⟩ := h
  exact s.bankAccess_served serve herr hclear

/-- A lane-wise operation of a fresh record has its effect; only a fetch-add returns an old value, whose check it needs. -/
theorem State.Fresh.bankOp (h : s.Fresh r k addr) (p : Nat) {own : BankArgs} (hop : own.op ≠ 7) (apply : BankArgs → State → State)
    (reply : BankArgs → State → List Byte) : s.bankOp (.eng r p k) addr own apply reply = apply own s := by
  simp [State.bankOp, h.bankAccess, h.notStale, hop]

variable (h : s.Fresh r k addr) (p : Nat) (data : Line)
include h

theorem exec_bankWrite_fresh (nib : BitVec 128) :
    exec (.bankWrite (.eng r p k) addr data nib) s = .next (s.lineWrite (memKey addr / 64 * 64) data.toNat nib.toNat) := by
  refine (answer_of_ok (h.bank_ok p)).trans (congrArg Host.Outcome.next ?_)
  simp [effBankWrite, h.bankAccess, h.notStale]

theorem exec_bankAdd_fresh {fmt : Nat} (hfmt : LaneFmt fmt) (lanes : BitVec 32) :
    exec (.bankAdd (.eng r p k) addr fmt lanes data) s = .next
      ((s.lineAdd (memKey addr / 64 * 64) fmt lanes.toNat data.toNat).flagSaturated (.eng r p k)
        (addSaturates fmt lanes.toNat (s.line (memKey addr / 64 * 64)) data.toNat)) := by
  have hadd : okAddFmt fmt = true := by rcases hfmt with rfl | rfl | rfl <;> rfl
  refine (answer_of_ok ?_).trans (congrArg Host.Outcome.next (h.bankOp p (show (2 : Nat) ≠ 7 by decide) _ _))
  rw [h.bank_ok, hadd]
  rfl

variable {fmt : Nat} (hfmt : fmt = 0x04 ∨ fmt = 0x15) (isMax : Bool)
include hfmt

theorem State.Fresh.ext_ok : ((Src.eng r p k).ok && okBank addr && okExtFmt fmt) = true := by
  rw [h.bank_ok, okExtFmt_of hfmt]
  rfl

theorem exec_bankMaxMin_fresh (lanes : BitVec 16) : exec (.bankMaxMin (.eng r p k) addr isMax fmt lanes data) s =
    .next (s.lineExt (memKey addr / 64 * 64) isMax fmt lanes.toNat data.toNat) :=
  (answer_of_ok (h.ext_ok p hfmt)).trans (congrArg Host.Outcome.next (h.bankOp p (show (if isMax = true then 3 else 4) ≠ 7 by cases isMax <;> decide) _ _))

theorem exec_bankMaxMinIndex_fresh (pairs : BitVec 8) : exec (.bankMaxMinIndex (.eng r p k) addr isMax fmt pairs data) s =
    .next (s.lineExtIndex (memKey addr / 64 * 64) isMax fmt pairs.toNat data.toNat) :=
  (answer_of_ok (h.ext_ok p hfmt)).trans (congrArg Host.Outcome.next (h.bankOp p (show (if isMax = true then 5 else 6) ≠ 7 by cases isMax <;> decide) _ _))

end

end Sys2Proof.Machine
end

section
/-! PROOF. The lane adds and extrema of an op's record (R24, R41, R43, R167, R168). -/

namespace Sys2Proof.Machine

-- ## Lane adds

theorem laneBits_mul_laneCount (fmt : Nat) : laneBits fmt * laneCount fmt = 512 := by unfold laneBits laneCount; split <;> rfl

theorem laneBits_pos (fmt : Nat) : 0 < laneBits fmt := by unfold laneBits; split <;> decide

/-- The sum of a lane and the operand's lane, as its code, and whether it saturates. -/
def laneSum (fmt old data i : Nat) : Nat × Bool := addLane fmt (laneOf (laneBits fmt) old i) (laneOf (laneBits fmt) data i)

theorem addSaturates_iff (fmt mask old data : Nat) : addSaturates fmt mask old data = true ↔
    ∃ i, i < laneCount fmt ∧ bitOf mask i = true ∧ (laneSum fmt old data i).2 = true := by
  simp [addSaturates, laneSum, field_eq_laneOf (laneBits_pos fmt)]

section
variable (s : State) (r p : Nat) (k : Option Ticket) (sat : Bool)

@[simp] theorem State.flagSaturated_mem : (s.flagSaturated (.eng r p k) sat).mem = s.mem := by cases sat <;> rfl

theorem State.flagSaturated_frame (m : List Host.Cell) (g : AMap Nat) (c : List Cmd) :
    { s.flagSaturated (.eng r p k) sat with mem := m, groups := g, cmds := c } = { s with mem := m, groups := g, cmds := c } := by
  cases sat <;> rfl

end

/-- Settles O29: each lane of what is written back is the masked sum, the log of a failing granule changes no memory, and the op is flagged
when one of the sums saturates. -/
theorem bankAddSumsMaskedLanes : Obligations.BankAddSumsMaskedLanes := by
  intro r p addr fmt k lanes data s hfresh hwf hfmt a w lane sum
  have hw : w = laneBits fmt := by simp [w, laneBits]
  have hcount : 512 / w = laneCount fmt := by
    rw [hw, ← laneBits_mul_laneCount fmt, Nat.mul_div_cancel_left _ (laneBits_pos fmt)]
  have hlane (v i : Nat) : lane v i = laneOf (laneBits fmt) v i := by rw [← hw]; rfl
  have hsum (i : Nat) : sum i = laneSum fmt (s.line a) data.toNat i := by
    simp only [sum, hlane]
    rfl
  refine ⟨_, exec_bankAdd_fresh hfresh p data hfmt lanes, fun i hi => ?_, fun x hx => ?_, fun hsat => ?_, fun hnone => ?_, fun hgood => ?_⟩
  · rw [hcount] at hi
    rw [State.flagSaturated_mem, hlane, hlane, hsum]
    exact State.laneOf_lineUpdate hwf (laneBits_pos fmt) (laneBits_mul_laneCount fmt) (fun x y _ _ => LaneFmt.addLane_lt hfmt x y) hi
  · rw [State.flagSaturated_mem]
    exact State.read_lineUpdate_outside hwf hx
  · have hyes : addSaturates fmt lanes.toNat (s.line a) data.toNat = true := by
      simpa only [addSaturates_iff, ← hcount, ← hsum] using hsat
    rw [hyes]
    exact congrArg (List.map _) (State.lineUpdate_cmds s)
  · have hno : addSaturates fmt lanes.toNat (s.line a) data.toNat = false := by
      rw [Bool.eq_false_iff, Ne, addSaturates_iff]
      rintro ⟨i, hi, hbit, hi2⟩
      rw [← hcount] at hi
      rw [← hsum, hnone i hi hbit] at hi2
      exact Bool.false_ne_true hi2
    rw [hno]
    exact State.lineUpdate_cmds s
  · rw [State.flagSaturated_frame]
    exact congrArg (fun t : State => { t with cmds := s.cmds }) (s.lineUpdate_frame hgood)

-- ## Extrema

/-- Settles O30: of each masked lane the extremum's code is written back; of each masked pair the winner, whole, or the lower index of a tie. -/
theorem bankExtremumKeepsTheWinner : Obligations.BankExtremumKeepsTheWinner := by
  intro r p addr fmt k isMax lanes pairs data s hfresh hwf hfmt a val wins lane old
  refine ⟨⟨_, exec_bankMaxMin_fresh hfresh p data hfmt isMax lanes, ?_,
      fun x hx => State.read_lineUpdate_outside hwf hx, State.lineUpdate_cmds s, s.lineUpdate_frame⟩,
    ⟨_, exec_bankMaxMinIndex_fresh hfresh p data hfmt isMax pairs, ?_,
      fun x hx => State.read_lineUpdate_outside hwf hx, State.lineUpdate_cmds s, s.lineUpdate_frame⟩⟩
  · intro i hi x y z
    have hz : z = combineLane 32 lanes.toNat old data.toNat (extLane isMax fmt) i :=
      State.laneOf_lineUpdate hwf (by decide) rfl (fun a b _ _ => extLane_lt isMax hfmt a b) hi
    have hx : x < 2 ^ 32 := laneOf_lt 32 old i
    have hy : y < 2 ^ 32 := laneOf_lt 32 data.toNat i
    refine ⟨fun hm => ?_, fun hm hnan => ?_, fun hm hxn hyn => ?_⟩
    · rw [hz, combineLane, if_neg (Bool.eq_false_iff.1 hm)]; rfl
    · rw [hz, combineLane, if_pos hm]; exact extLane_nan isMax hx hnan
    · rw [hz, combineLane, if_pos hm]; exact extLane_winner isMax hx hy hxn hyn
  · intro i hi x y z
    have hz : z = combineLane 64 pairs.toNat old data.toNat (extPair isMax fmt) i :=
      State.laneOf_lineUpdate hwf (by decide) rfl (fun a b ha hb => extPair_lt isMax hfmt ha hb) hi
    have hx : x < 2 ^ 64 := laneOf_lt 64 old i
    have hy : y < 2 ^ 64 := laneOf_lt 64 data.toNat i
    refine ⟨fun hm => ?_, fun hm hnan => ?_, fun hm hxn hyn => ?_⟩
    · rw [hz, combineLane, if_neg (Bool.eq_false_iff.1 hm)]; rfl
    · rw [hz, combineLane, if_pos hm]; exact extPair_nan isMax hx hnan
    · have hw : z = if beats isMax fmt y x = true then y else if beats isMax fmt x y = true then x
          else x % 2 ^ 32 + 2 ^ 32 * min (x / 2 ^ 32) (y / 2 ^ 32) := by
        rw [hz, combineLane, if_pos hm]
        exact extPair_winner isMax hx hy hxn hyn
      refine ⟨fun hb => ?_, fun hb => ?_, fun hb hb' => ?_⟩
      · rw [hw]; exact if_pos hb
      · rw [hw, if_neg (Bool.eq_false_iff.1 (beats_asymm hb))]; exact if_pos hb
      · rw [hw]; exact (if_neg (Bool.eq_false_iff.1 hb')).trans (if_neg (Bool.eq_false_iff.1 hb))

end Sys2Proof.Machine
end

section
/-! PROOF. Writes close the groups whose lines they overlap, not the one entry of a key (R170). -/

namespace Sys2Proof.Machine

/-- The first line of region 0's memory. -/
def regionZero : Nat := 2 ^ 48

/-- Region 0 serves, and a group stands one byte behind the start of its first line, at a key that no line has. -/
def offLine : State := { State.reset.setFn .region 0 2 with groups := [(regionZero + 1, 1)] }

theorem offLine_fresh : offLine.Fresh 0 none regionZero :=
  ⟨by decide, by decide, by decide +kernel, by decide +kernel, fun _ h => nomatch h⟩

theorem offLine_memWf : offLine.memWf = true := by decide +kernel

/-- What the write leaves behind, of a line and a mask that are all zero. -/
def offLineWritten : State := offLine.lineWrite (memKey regionZero / 64 * 64) (0 : Line).toNat (0 : BitVec 128).toNat

/-- It closes that group, whose 64 bytes the line overlaps. -/
theorem offLineWritten_groups : offLineWritten.groups = [] := by decide +kernel

/-- Erasing the line's own key leaves it. -/
theorem offLine_erase : AMap.erase offLine.groups (memKey regionZero / 64 * 64) = [(regionZero + 1, 1)] := by decide +kernel

/-- Refutes O28: a write closes every group whose 64 bytes overlap its line, while the statement erases the one entry at the line's key; over
every state, which may key a group off the lines (`offLine`) as no read of the model does, the two differ. -/
theorem not_bankWordsAreWrittenAndRead : ¬ Obligations.BankWordsAreWrittenAndRead := by
  rintro ⟨hwrite, -⟩
  obtain ⟨t, ht, -, -, hgroups, -⟩ := hwrite 0 0 regionZero none 0 0 offLine offLine_fresh offLine_memWf
  have hexec : exec (.bankWrite (.eng 0 0 none) regionZero 0 0) offLine = .next offLineWritten := exec_bankWrite_fresh offLine_fresh 0 0 0
  obtain rfl : offLineWritten = t := Host.Outcome.next.inj (hexec.symm.trans ht)
  rw [offLineWritten_groups, offLine_erase] at hgroups
  exact List.cons_ne_nil _ _ hgroups.symm

end Sys2Proof.Machine
end

section
/-! PROOF. Descriptors are created and destroyed (R44, R57 to R59). -/

namespace Sys2Proof.Machine

-- ## The body's fields and its reserved field

/-- Body bit b is entry bit b + 256 (R356). -/
theorem Cmd.f_eq_field (c : Cmd) {hi lo eh el : Nat} (hh : hi + 256 = eh) (hl : 256 + lo = el) : c.f hi lo = field c.entry.toNat eh el := by
  subst hh hl
  rw [Cmd.f, Cmd.body, field, field, Nat.shiftRight_add, show hi + 256 + 1 - (256 + lo) = hi + 1 - lo by omega]

/-- The check of a body with one reserved field. -/
theorem Cmd.reservedErr_single (c : Cmd) (code hi lo : Nat) :
    c.reservedErr code [(hi, lo)] = if c.f hi lo = 0 then none else some (bodyErr code lo) := by
  by_cases h : c.f hi lo = 0 <;> simp [Cmd.reservedErr, h]

-- ## A command in its phase

section
variable {s : State} {r p op : Nat} {ph : Phase} {c : Cmd}

theorem State.Holds.place (h : s.Holds r p ph op c) : c.r = r ∧ c.p = p := by
  obtain ⟨-, hc, -⟩ := h
  have hat : c.at_ r p = true := List.find?_some (p := fun c : Cmd => c.at_ r p) hc
  simpa [Cmd.at_] using hat

theorem State.Holds.started_eq (h : s.Holds r p .started op c) (f : Cmd → State) : s.started r p op f = f c := by
  obtain ⟨-, hc, hph, hop, -⟩ := h.inv
  simp [State.started, hc, hph, hop]

theorem State.Holds.running_eq (h : s.Holds r p .running op c) (f : Cmd → State) : s.running r p op f = f c := by
  obtain ⟨-, hc, hph, hop, -⟩ := h.inv
  simp [State.running, hc, hph, hop]

theorem State.Holds.orFail_some (h : s.Holds r p ph op c) (e : Err) (f : State) : s.orFail c (some e) f = s.cmdFail r p e := by
  obtain ⟨hr, hp⟩ := h.place
  rw [State.orFail, hr, hp]

theorem exec_tdCreate_started (h : s.Holds r p .started 0x01 c) :
    exec (.tdCreate r p) s = .next (if s.tdWaits c = true then s else s.orFail c (s.tdCreateErr c) (s.tdInstall c)) :=
  (answer_of_ok h.inv.1).trans (congrArg Host.Outcome.next (h.started_eq _))

theorem exec_tdDestroy_started (h : s.Holds r p .started 0x02 c) :
    exec (.tdDestroy r p) s = .next (s.orFail c (s.tdDestroyErr c)
      ((s.setTd (handleIndex (c.f 19 0)) { s.tdEntry (handleIndex (c.f 19 0)) with st := .dying }).cmdPhase r p .running)) :=
  (answer_of_ok h.inv.1).trans (congrArg Host.Outcome.next (h.started_eq _))

theorem exec_tdDestroyDone_running (h : s.Holds r p .running 0x02 c) :
    exec (.tdDestroyDone r p) s = .next (if s.handleUsed (c.f 19 0) = true then s else
      (s.setTd (handleIndex (c.f 19 0)) { s.tdEntry (handleIndex (c.f 19 0)) with st := .free, bad := false }).cmdDone r p 0) :=
  (answer_of_ok h.inv.1).trans (congrArg Host.Outcome.next (h.running_eq _))

end

-- ## Allocation takes a free number, and fails only when there is none (log 12)

section
variable {s : State} {n i : Nat} {taken : Nat → Bool}

theorem State.pickFree_spec (h : s.pickFree n taken = some i) : i < n ∧ taken i = false := by
  have hmem := List.mem_of_find?_eq_some h
  obtain ⟨k, hk, rfl⟩ := List.mem_map.1 hmem
  exact ⟨Nat.mod_lt _ (Nat.zero_lt_of_lt (List.mem_range.1 hk)), by simpa using List.find?_some h⟩

/-- The search that begins at `start` and wraps around passes over every number. -/
theorem exists_add_mod_eq {start n i : Nat} (hs : start < n) (hi : i < n) : ∃ k < n, (start + k) % n = i := by
  by_cases h : start ≤ i
  · exact ⟨i - start, by omega, by rw [Nat.add_sub_cancel' h, Nat.mod_eq_of_lt hi]⟩
  · exact ⟨n + i - start, by omega, by
      rw [show start + (n + i - start) = n + i by omega, Nat.add_mod_left, Nat.mod_eq_of_lt hi]⟩

theorem State.taken_of_pickFree_none (h : s.pickFree n taken = none) (hi : i < n) : taken i = true := by
  obtain ⟨k, hk, hki⟩ := exists_add_mod_eq (Nat.mod_lt (Config.freePick s.freeCtr n) (Nat.zero_lt_of_lt hi)) hi
  have hmiss := List.find?_eq_none.1 h i (List.mem_map.2 ⟨k, List.mem_range.2 hk, hki⟩)
  simpa using hmiss

end

-- ## The entry and the handle of a TD_CREATE (R44, R58)

theorem handleOf_eq (die gen i : Nat) : handleOf die gen i = 2 ^ 18 * die + 2 ^ 16 * gen + i := by
  rw [handleOf, Nat.shiftLeft_eq, Nat.shiftLeft_eq, Nat.mul_comm die, Nat.mul_comm gen]

/-- Generations count from 0 and wrap at 4; entry 0 of die 0 leaves out 0, for no handle is 0. -/
theorem TdEntry.nextGen_eq (e : TdEntry) (die i : Nat) : e.nextGen (die * 65536 + i) =
    if e.used = true then (if die = 0 ∧ i = 0 then e.gen % 3 + 1 else (e.gen + 1) % 4) else if die = 0 ∧ i = 0 then 1 else 0 := by
  have hfirst : die * 65536 + i = 0 ↔ die = 0 ∧ i = 0 := by omega
  cases hu : e.used <;> simp only [TdEntry.nextGen, hu, beq_iff_eq, hfirst] <;> rfl

/-- The install of a descriptor fails with every entry of its die in use, and takes one that is free otherwise. -/
theorem State.tdInstall_cases (s : State) (c : Cmd) :
    ((∀ i, i < 65536 → (s.tdEntry (c.f 65 64 * 65536 + i)).st ≠ .free) ∧ s.tdInstall c = s.cmdFail c.r c.p { code := 0x0801 }) ∨
      ∃ i, i < 65536 ∧ (s.tdEntry (c.f 65 64 * 65536 + i)).st = .free ∧
        s.tdInstall c = ((s.setTd (c.f 65 64 * 65536 + i) (s.newTd c (c.f 65 64 * 65536 + i))).useFree 1).cmdDone c.r c.p
          (handleOf (c.f 65 64) ((s.tdEntry (c.f 65 64 * 65536 + i)).nextGen (c.f 65 64 * 65536 + i)) i) := by
  -- `delta`, for Lean finds no unfold equation of a match on a search through 65,536 numbers
  delta State.tdInstall
  extract_lets die
  split
  · next hpick => exact .inl ⟨fun i hi => by simpa using State.taken_of_pickFree_none hpick hi, rfl⟩
  · next i hpick =>
    obtain ⟨hi, hfree⟩ := State.pickFree_spec hpick
    exact .inr ⟨i, hi, by simpa using hfree, rfl⟩

-- ## What a TD_DESTROY checks (R44, R59)

section
variable {s : State} {c : Cmd}

/-- The handle `h` names a live entry of its generation that partition `part` holds (R44). -/
def State.HoldsHandle (s : State) (part h : Nat) : Prop :=
  h ≠ 0 ∧ (s.tdEntry (handleIndex h)).st = .live ∧ (s.tdEntry (handleIndex h)).gen = field h 17 16 ∧ (s.tdEntry (handleIndex h)).part = part

theorem State.liveHandle_isNone (part h : Nat) : (s.liveHandle part h).isNone = true ↔ ¬ s.HoldsHandle part h := by
  simp [State.liveHandle, State.HoldsHandle, and_assoc]

theorem State.tdDestroyErr_held (hres : c.f 767 20 = 0) (h : s.HoldsHandle c.part (c.f 19 0)) : s.tdDestroyErr c = none := by
  have hlive : ¬ (s.liveHandle c.part (c.f 19 0)).isNone = true := fun hn => (State.liveHandle_isNone _ _).1 hn h
  rw [State.tdDestroyErr, Cmd.reservedErr_single, if_pos hres, errIf, if_neg hlive]
  rfl

theorem State.tdDestroyErr_stale (hres : c.f 767 20 = 0) (h : ¬ s.HoldsHandle c.part (c.f 19 0)) :
    s.tdDestroyErr c = some (bodyErr 0x0106 0) := by
  rw [State.tdDestroyErr, Cmd.reservedErr_single, if_pos hres, errIf, if_pos ((State.liveHandle_isNone _ _).2 h)]
  rfl

end

-- ## The two commands

section
variable {s : State} {r p : Nat} {c : Cmd}

theorem exec_tdCreate_waits (h : s.Holds r p .started 0x01 c) (hw : s.tdWaits c = true) : exec (.tdCreate r p) s = .next s := by
  rw [exec_tdCreate_started h, if_pos hw]

theorem exec_tdCreate_refused (h : s.Holds r p .started 0x01 c) (hw : s.tdWaits c = false) {e : Err} (he : s.tdCreateErr c = some e) :
    exec (.tdCreate r p) s = .next (s.cmdFail r p e) := by
  rw [exec_tdCreate_started h, if_neg (Bool.eq_false_iff.1 hw), he, h.orFail_some]

theorem exec_tdCreate_installs (h : s.Holds r p .started 0x01 c) (hw : s.tdWaits c = false) (he : s.tdCreateErr c = none) :
    exec (.tdCreate r p) s = .next (s.tdInstall c) := by
  rw [exec_tdCreate_started h, if_neg (Bool.eq_false_iff.1 hw), he, State.orFail]

theorem exec_tdDestroy_held (h : s.Holds r p .started 0x02 c) (hres : c.f 767 20 = 0) (hh : s.HoldsHandle (r / 64) (c.f 19 0)) :
    exec (.tdDestroy r p) s = .next
      ((s.setTd (handleIndex (c.f 19 0)) { s.tdEntry (handleIndex (c.f 19 0)) with st := .dying }).cmdPhase r p .running) := by
  obtain ⟨-, -, -, -, hpart⟩ := h.inv
  rw [exec_tdDestroy_started h, State.tdDestroyErr_held hres (hpart ▸ hh)]
  rfl

theorem exec_tdDestroy_stale (h : s.Holds r p .started 0x02 c) (hres : c.f 767 20 = 0) (hh : ¬ s.HoldsHandle (r / 64) (c.f 19 0)) :
    exec (.tdDestroy r p) s = .next (s.cmdFail r p (bodyErr 0x0106 0)) := by
  obtain ⟨-, -, -, -, hpart⟩ := h.inv
  rw [exec_tdDestroy_started h, State.tdDestroyErr_stale hres (hpart ▸ hh), h.orFail_some]

end

/-- Settles O13: the answer of each command in its phase, with `State.tdInstall_cases` deciding between the handle and 0x0801, and the
body's fields read as the entry's. -/
theorem descriptorsAreCreatedAndDestroyed : Obligations.DescriptorsAreCreatedAndDestroyed := by
  refine ⟨fun r p c s h => ?_, fun r p c s => ?_⟩
  · obtain ⟨-, -, -, -, hpart⟩ := h.inv
    obtain ⟨hr, hp⟩ := h.place
    have ha : c.f 63 0 = field c.entry.toNat 319 256 := c.f_eq_field rfl rfl
    have hdie : c.f 65 64 = field c.entry.toNat 321 320 := c.f_eq_field rfl rfl
    refine ⟨exec_tdCreate_waits h, fun hw he hfree => ?_, fun hw he hfull => ?_, fun hw e he => exec_tdCreate_refused h hw he⟩
    · obtain ⟨hfull, -⟩ | ⟨i, hi, hst, hinst⟩ := s.tdInstall_cases c
      · obtain ⟨i, hi, hst⟩ := hfree
        exact absurd hst (hdie ▸ hfull i hi)
      rw [hr, hp, handleOf_eq, State.newTd, TdEntry.nextGen_eq, hpart, ha, hdie] at hinst
      exact ⟨i, hi, hdie ▸ hst, (exec_tdCreate_installs h hw he).trans (congrArg Host.Outcome.next hinst)⟩
    · obtain ⟨-, hinst⟩ | ⟨i, hi, hst, -⟩ := s.tdInstall_cases c
      · rw [hr, hp] at hinst
        exact (exec_tdCreate_installs h hw he).trans (congrArg Host.Outcome.next hinst)
      · exact absurd (hdie ▸ hst) (hfull i hi)
  · have hh : c.f 19 0 = field c.entry.toNat 275 256 := c.f_eq_field rfl rfl
    have hres : c.f 767 20 = field c.entry.toNat 1023 276 := c.f_eq_field rfl rfl
    refine ⟨fun h h0 => ⟨fun hheld => ?_, fun hstale => ?_⟩, fun h => ⟨fun hu => ?_, fun hu => ?_⟩⟩
    · rw [exec_tdDestroy_held h (hres.trans h0) (hh ▸ hheld), hh]
      rfl
    · exact exec_tdDestroy_stale h (hres.trans h0) (hh ▸ hstale)
    · rw [exec_tdDestroyDone_running h, hh, if_pos hu]
    · rw [exec_tdDestroyDone_running h, hh, if_neg (Bool.eq_false_iff.1 hu)]
      rfl

end Sys2Proof.Machine
end

section
/-! PROOF. The K step of an open tile (R96, R101, R139, R142): what its bookkeeping leaves alone, the rows of an operand tile, and what it adds into
each accumulator. -/

namespace Sys2Proof.Machine

-- ## What the bookkeeping of a K step never changes

/-- What counts, windows of the match table and reads that are done leave alone: a core's work, the commands, the descriptors, the other cores. -/
structure StepView where
  work : CoreWork
  cmds : List Cmd
  td : AMap TdEntry
  others : Nat → Core

/-- That part of a state, for the core that takes the step. -/
def State.stepView (s : State) (core : Nat) : StepView where
  work := s.work core
  cmds := s.cmds
  td := s.td
  others := fun k => if k = core then {} else s.core k

/-- A core's work after the core is replaced by `c`. -/
def CoreWork.withCore (w : CoreWork) (c : Core) : CoreWork :=
  { w with units := c.units, nextId := c.nextId, lastDrained := c.lastDrained, outq := c.outq, nextRec := c.nextRec }

section
variable (s : State) (core : Nat)

@[simp] theorem State.stepView_coreBump (i c n : Nat) : (s.coreBump i c n).stepView core = s.stepView core := rfl

theorem State.stepView_retain (i j : Nat) : (s.retain i j).stepView core = s.stepView core := by
  unfold State.retain
  extract_lets v
  split
  · rfl
  · split <;> rfl

/-- The core itself is replaced: of what the view holds, its work alone is another. -/
theorem State.stepView_setCore (v : Core) :
    (s.setCore core v).stepView core = { s.stepView core with work := (s.stepView core).work.withCore v } := by
  have hwork : (s.setCore core v).work core = (s.work core).withCore v := s.work_setCore core v
  have hothers : (fun k => if k = core then {} else (s.setCore core v).core k) = fun k => if k = core then {} else s.core k := by
    funext k
    split
    · rfl
    · next hk => rw [State.core_setCore, if_neg (Ne.symm hk)]
  unfold State.stepView
  rw [hwork, hothers]
  rfl

variable {s core} in
/-- A state like `s` takes for its core one whose work is that of `s`. -/
theorem State.stepView_setCore_same {t : State} {v : Core} (ht : t.stepView core = s.stepView core)
    (hv : (s.work core).withCore v = s.work core) : (t.setCore core v).stepView core = s.stepView core := by
  rw [State.stepView_setCore, ht]
  exact congrArg (fun w => { s.stepView core with work := w }) hv

theorem State.stepView_closeWindow : (s.closeWindow core).stepView core = s.stepView core := by
  unfold State.closeWindow
  extract_lets c
  split
  · rfl
  · extract_lets times body idle p steps tp tq counted tuned
    split
    · exact State.stepView_setCore_same rfl rfl
    · refine State.stepView_setCore_same ?_ rfl
      unfold tuned
      split
      · exact State.stepView_retain ..
      · rfl

theorem State.stepView_closeWindowOf (unit : Nat) : (s.closeWindowOf core unit).stepView core = s.stepView core := by
  unfold State.closeWindowOf
  split
  · split
    · exact s.stepView_closeWindow core
    · rfl
  · rfl

/-- A strip's step keeps its window, the match table's alone (R111, R112). -/
theorem State.stepView_stripStep (unit winMax r4 pred units : Nat) (perm : List Nat) (a b : OpTile) (newB : Bool) :
    (s.stripStep core unit winMax r4 pred units perm a b newB).stepView core = s.stepView core := by
  unfold State.stripStep
  extract_lets us cols full room closed c
  have hclosed : closed.stepView core = s.stepView core := by
    unfold closed
    split
    · rfl
    · simp only [apply_ite (State.stepView · core), State.stepView_coreBump, State.stepView_closeWindow, ite_self]
  rw [← hclosed]
  exact State.stepView_setCore_same rfl rfl

theorem State.stepView_routeStep (unit : Nat) (c : Cmd) (rt : Route) (fa fb : Nat) (ta tb : Tile) (perm : List Nat) (a b : OpTile)
    (newB : Bool) : (s.routeStep core unit c rt fa fb ta tb perm a b newB).stepView core = s.stepView core := by
  cases rt with
  | skip => rfl
  | dense => exact s.stepView_closeWindow core
  | mux => exact s.stepView_closeWindow core
  | strip => exact s.stepView_stripStep core ..

/-- Reads that are done touch their core, its counters and the slots: what none of the three changes, they leave alone. -/
theorem State.readsDone_keeps {γ : Type} (view : State → γ) (w : Who) (hcore : ∀ s v, view (State.setCore s w.core v) = view s)
    (hbump : ∀ s n i, view (State.coreBump s i w.core n) = view s) (hslot : ∀ s i f, view (State.inflight s i f) = view s) (xs : Reads) :
    view (s.readsDone w xs) = view s := by
  have hwindow (s : State) (pkg die slot gen : Nat) : view (s.bindWindow w pkg die slot gen) = view s := by
    unfold State.bindWindow
    extract_lets c evicted
    split
    · exact hcore ..
    · rw [hcore]; unfold evicted; split
      · exact hbump ..
      · rfl
  have hlocal (s : State) (copies : List (Nat × Nat × Nat)) : view (s.bindLocal w copies) = view s :=
    foldl_keeps view (fun s c => by
      split
      · exact hwindow s _ _ _ _
      · rfl) copies s
  have hsweep (s : State) (x : Desc × List (List Nat)) : view (s.bindSweep w x.1 x.2) = view s := by
    unfold State.bindSweep
    split
    · exact foldl_keeps view (fun s i => hlocal s _) x.2 s
    · rfl
  have hdrop (s : State) (gone : OwnReq → Bool) : view (s.dropOwn w.core gone) = view s := by
    unfold State.dropOwn
    extract_lets c mine
    split
    · rfl
    · exact (foldl_keeps view (f := fun s (x : OwnReq) => s.inflight x.slot (· - 1)) (fun s x => hslot s _ _) _ _).trans (hcore ..)
  exact (hdrop _ _).trans (foldl_keeps view hsweep xs s)

theorem State.stepView_readsDone (w : Who) (xs : Reads) : (s.readsDone w xs).stepView w.core = s.stepView w.core := by
  have hothers : (fun k => if k = w.core then {} else (s.readsDone w xs).core k) = fun k => if k = w.core then {} else s.core k := by
    funext k
    split
    · rfl
    · next hk =>
      exact s.readsDone_keeps (State.core · k) w (fun s v => by rw [State.core_setCore, if_neg (Ne.symm hk)]) (fun _ _ _ => rfl)
        (fun _ _ _ => rfl) xs
  have htd : (s.readsDone w xs).td = s.td := s.readsDone_keeps State.td w (fun _ _ => rfl) (fun _ _ _ => rfl) (fun _ _ _ => rfl) xs
  unfold State.stepView
  rw [State.work_readsDone, State.readsDone_cmds, htd, hothers]

theorem State.stepView_operandsRead (u : WorkUnit) (c : Cmd) : (s.operandsRead core u c).stepView core = s.stepView core :=
  s.stepView_readsDone ⟨c.r, c.p, core, c.part⟩ _

end

-- ## The step of a unit, apart from what it counts on its core

/-- What the array holds of a tile. -/
structure TileArray where
  acc : AMap Acc
  chkRow : AMap Check
  chkCol : AMap Check
  corner : AMap Check
  ran : Nat
  perm : Option (List Nat)

/-- That part of a unit. -/
def WorkUnit.array (u : WorkUnit) : TileArray where
  acc := u.acc
  chkRow := u.chkRow
  chkCol := u.chkCol
  corner := u.corner
  ran := u.ran
  perm := u.perm

/-- Where a tile stands: its number, its state, its contributor and K step, the mode of its accumulators. -/
structure TilePlace where
  id : Nat
  st : UnitSt
  ci : Nat
  contribs : List (Nat × Nat × BitVec 1024)
  nextK : Nat
  mode : Nat

/-- That part of a unit. -/
def WorkUnit.place (u : WorkUnit) : TilePlace where
  id := u.id
  st := u.st
  ci := u.ci
  contribs := u.contribs
  nextK := u.nextK
  mode := u.mode

/-- The unit after a step in the array, its slots' reads `xs` under the deal `d`: what `State.runStep` makes of it. -/
def WorkUnit.runSlots (u : WorkUnit) (mode fa fb : Nat) (xs : List StepIn) (d : StepDeal) : WorkUnit :=
  let drops := xs.foldl (fun a x => a + x.dropped) d.dropped
  let u := xs.zipIdx.foldl (fun u xi => u.slotStep mode fa fb xi.2 d.perm xi.1) u
  let ran := xs.any fun x => x.route != .skip
  let u := { u with
    perm := if d.fixes then some d.perm else u.perm
    ran := if ran then u.ran + 1 else u.ran
    flags := u.flags ||| flagIf (drops != 0) flagMETA_DROP ||| flagIf (xs.any (·.sat)) flagSATURATED }
  u.note 0x5105 drops

/-- A unit whose K step is done, at the next step of its K or at the end of K: what `State.stepDone` puts back. -/
def WorkUnit.stepped (u : WorkUnit) (steps : Nat) (int : Bool) : WorkUnit :=
  let u := { u with nextK := u.nextK + 1 }
  if u.nextK < steps then u else u.endK int

@[simp] theorem WorkUnit.note_array (u : WorkUnit) (i n : Nat) : (u.note i n).array = u.array := by unfold WorkUnit.note; split <;> rfl
@[simp] theorem WorkUnit.note_place (u : WorkUnit) (i n : Nat) : (u.note i n).place = u.place := by unfold WorkUnit.note; split <;> rfl

theorem WorkUnit.slotStep_skip {x : StepIn} (h : x.route = .skip) (u : WorkUnit) (mode fa fb slot : Nat) (perm : List Nat) :
    u.slotStep mode fa fb slot perm x = u := by simp [WorkUnit.slotStep, h]

theorem WorkUnit.slotStep_acc {x : StepIn} (h : x.route ≠ .skip) (u : WorkUnit) (mode fa fb slot : Nat) (perm : List Nat) :
    (u.slotStep mode fa fb slot perm x).acc = accStep mode fa fb (128 * u.nextK) slot perm x.a x.b u.acc := by
  simp [WorkUnit.slotStep, h]

theorem WorkUnit.slotStep_ran_perm (u : WorkUnit) (mode fa fb slot : Nat) (perm : List Nat) (x : StepIn) :
    (u.slotStep mode fa fb slot perm x).ran = u.ran ∧ (u.slotStep mode fa fb slot perm x).perm = u.perm := by
  unfold WorkUnit.slotStep; split <;> exact ⟨rfl, rfl⟩

theorem WorkUnit.slotStep_place (u : WorkUnit) (mode fa fb slot : Nat) (perm : List Nat) (x : StepIn) :
    (u.slotStep mode fa fb slot perm x).place = u.place := by
  unfold WorkUnit.slotStep; split <;> rfl

theorem WorkUnit.runSlots_place (u : WorkUnit) (mode fa fb : Nat) (xs : List StepIn) (d : StepDeal) :
    (u.runSlots mode fa fb xs d).place = u.place :=
  (WorkUnit.note_place _ _ _).trans (foldl_keeps WorkUnit.place (f := fun u (xi : StepIn × Nat) => u.slotStep mode fa fb xi.2 d.perm xi.1)
    (fun u _ => u.slotStep_place ..) xs.zipIdx u)

/-- One slot's step: what its rows add, the step counted where it ran, the deal where it is fixed. -/
theorem WorkUnit.runSlots_array (u : WorkUnit) (mode fa fb : Nat) (x : StepIn) (d : StepDeal) :
    (u.runSlots mode fa fb [x] d).array = { (u.slotStep mode fa fb 0 d.perm x).array with
      ran := if x.route = .skip then u.ran else u.ran + 1
      perm := if d.fixes = true then some d.perm else u.perm } := by
  obtain ⟨hran, hperm⟩ := u.slotStep_ran_perm mode fa fb 0 d.perm x
  rw [WorkUnit.runSlots, WorkUnit.note_array]
  by_cases hroute : x.route = .skip <;> simp [WorkUnit.array, hran, hperm, hroute]

/-- Outside chunked mode nothing is left to promote at the end of K (R144). -/
theorem WorkUnit.endK_array {u : WorkUnit} (h : u.mode = 0) (int : Bool) : (u.endK int).array = u.array := by
  simp only [WorkUnit.endK, h]
  split <;> rfl

theorem WorkUnit.endK_id (u : WorkUnit) (int : Bool) : (u.endK int).id = u.id := by
  simp only [WorkUnit.endK]
  split <;> rfl

/-- The last contributor's K has ended: the tile has made its last accumulate (R153). -/
theorem WorkUnit.endK_finished {u : WorkUnit} (h : u.ci + 1 = u.contribs.length) (int : Bool) : (u.endK int).st = .finished := by
  simp [WorkUnit.endK, h]

section
variable {u : WorkUnit} {steps : Nat} {int : Bool}

theorem WorkUnit.stepped_next (h : u.nextK + 1 < steps) : u.stepped steps int = { u with nextK := u.nextK + 1 } := if_pos h

theorem WorkUnit.stepped_end (h : steps ≤ u.nextK + 1) : u.stepped steps int = { u with nextK := u.nextK + 1 }.endK int :=
  if_neg (Nat.not_lt.2 h)

theorem WorkUnit.stepped_array (h : u.mode = 0) : (u.stepped steps int).array = u.array := by
  by_cases hk : u.nextK + 1 < steps
  · rw [WorkUnit.stepped_next hk]; rfl
  · rw [WorkUnit.stepped_end (Nat.not_lt.1 hk)]; exact WorkUnit.endK_array (u := { u with nextK := u.nextK + 1 }) h int

theorem WorkUnit.stepped_id : (u.stepped steps int).id = u.id := by
  by_cases hk : u.nextK + 1 < steps
  · rw [WorkUnit.stepped_next hk]
  · rw [WorkUnit.stepped_end (Nat.not_lt.1 hk), WorkUnit.endK_id]

end

-- ## The state after a K step

theorem State.mTK_congr {s t : State} (h : t.td = s.td) (c : Cmd) : t.mTK c = s.mTK c := by
  simp [State.mTK, State.mK, tdDesc, State.tdEntry, h]

@[simp] theorem State.stepView_updUnit (s : State) (core id : Nat) (f : WorkUnit → WorkUnit) :
    (s.updUnit core id f).stepView core = { s.stepView core with work := (s.stepView core).work.updUnit id f } :=
  s.stepView_setCore core _

/-- A state that differs from `s`, for a core, in what its step counts, in the unit `v` that took it, and in commands. -/
def State.StepsUnit (s t : State) (core : Nat) (v : WorkUnit) : Prop :=
  t.stepView core = { s.stepView core with work := (s.work core).updUnit v.id fun _ => v, cmds := t.cmds }

section
variable {s t : State} {core : Nat} {v : WorkUnit}

theorem State.StepsUnit.congr {s' : State} (h : s'.StepsUnit t core v) (hs : s'.stepView core = s.stepView core) : s.StepsUnit t core v :=
  h.trans (congrArg (fun w : StepView => { w with work := w.work.updUnit v.id fun _ => v, cmds := t.cmds }) hs)

theorem State.StepsUnit.earn (h : s.StepsUnit t core v) (r p f : Nat) (g : Op → Op) :
    s.StepsUnit ((t.updOp r p g).addFlags r p f) core v := by
  have hflagged := congrArg (fun w : StepView => { w with cmds := (t.addFlags r p f).cmds }) h
  exact hflagged

/-- Memory, tickets, the core's outbound queue and the other cores stay. -/
theorem State.StepsUnit.frame (h : s.StepsUnit t core v) :
    t.mem = s.mem ∧ t.tickets = s.tickets ∧ (t.core core).outq = (s.core core).outq ∧ ∀ k, k ≠ core → t.core k = s.core k := by
  have hwork := congrArg StepView.work h
  refine ⟨congrArg CoreWork.mem hwork, congrArg CoreWork.tickets hwork, congrArg CoreWork.outq hwork, fun k hk => ?_⟩
  have hothers := congrFun (congrArg StepView.others h) k
  simpa [State.stepView, hk] using hothers

theorem State.StepsUnit.unit_eq {u : WorkUnit} (h : s.StepsUnit t core v) (hu : s.unit core v.id = some u) :
    t.unit core v.id = some v := by
  have hwork : t.work core = (s.work core).updUnit v.id fun _ => v := congrArg StepView.work h
  rw [State.unit_eq_work, hwork]
  exact CoreWork.unit_updUnit _ hu rfl

end

theorem State.stepsUnit_updUnit (s : State) (core : Nat) (v : WorkUnit) : s.StepsUnit (s.updUnit core v.id fun _ => v) core v :=
  s.stepView_updUnit core v.id _

/-- What a step may do to the commands: nothing, or, once K has ended for an op that leaves its tile open, one earns its tile's flags (R84, R151). -/
def State.EarnsAtEnd (s t : State) (c : Cmd) (k : Nat) : Prop :=
  t.cmds = s.cmds ∨ s.mTK c ≤ k ∧ c.ends = false ∧ ∃ r p f, t.cmds = (s.addFlags r p f).cmds

/-- A step that is done puts its unit back; the op that leaves its tile open counts it as it ends and earns its flags. -/
theorem State.stepDone_spec (s : State) (core : Nat) (u : WorkUnit) (c : Cmd) (int : Bool) :
    s.StepsUnit (s.stepDone core u c int) core (u.stepped (s.mTK c) int) ∧ s.EarnsAtEnd (s.stepDone core u c int) c (u.nextK + 1) := by
  have hput (t : State) := t.stepsUnit_updUnit core (u.stepped (s.mTK c) int)
  rw [WorkUnit.stepped_id] at hput
  unfold State.stepDone
  extract_lets next v ended
  by_cases hk : u.nextK + 1 < s.mTK c
  · rw [if_pos hk]
    rw [WorkUnit.stepped_next hk] at hput ⊢
    exact ⟨hput s, .inl rfl⟩
  · rw [if_neg hk]
    have hv : u.stepped (s.mTK c) int = v := WorkUnit.stepped_end (Nat.not_lt.1 hk)
    have hclosed := s.stepView_closeWindowOf core u.id
    rw [hv] at hput ⊢
    have hended : s.StepsUnit ended core v := (hput _).congr hclosed
    have hcmds : ended.cmds = s.cmds := congrArg StepView.cmds hclosed
    split
    · next hopen =>
      simp only [Bool.and_eq_true, Bool.not_eq_true'] at hopen
      obtain ⟨⟨-, hends⟩, -⟩ := hopen
      exact ⟨hended.earn .., .inr ⟨Nat.not_lt.1 hk, hends, u.r, u.p, u.flags, congrArg (List.map _) hcmds⟩⟩
    · exact ⟨hended, .inl hcmds⟩

/-- The routes of a step's slots, each counted and its window kept (R99, R101): what `State.runStep` does to its core. -/
def State.routed (s : State) (core : Nat) (u : WorkUnit) (c : Cmd) (xs : List StepIn) (d : StepDeal) : State :=
  let f := s.arrayFmts c
  let s := if d.bad then (s.coreBump 0x5110 core 1).coreBit core 2 else s
  let staged (slot : Nat) : Bool := c.shape == 2 && slot == 1 && (xs.take 1).any fun x => x.route != .skip
  xs.zipIdx.foldl (fun s xi =>
    s.routeStep core u.id c xi.1.route f.1 f.2 xi.1.ta xi.1.tb d.perm xi.1.a xi.1.b (!staged xi.2)) s

section
variable (s : State) (core : Nat) (u : WorkUnit) (c : Cmd) (xs : List StepIn) (d : StepDeal)

theorem State.stepView_routed : (s.routed core u c xs d).stepView core = s.stepView core := by
  unfold State.routed
  extract_lets f dealt staged
  have hdealt : dealt.stepView core = s.stepView core := by unfold dealt; split <;> rfl
  rw [← hdealt]
  exact foldl_keeps (State.stepView · core) (fun s xi => s.stepView_routeStep core ..) xs.zipIdx dealt

/-- A step whose reads all came puts its unit back after the array's part of it. -/
theorem State.runStep_spec :
    s.StepsUnit (s.runStep core u c xs d) core
      ((u.runSlots c.mode (s.arrayFmts c).1 (s.arrayFmts c).2 xs d).stepped (s.mTK c) (intPair (s.arrayFmts c).1 (s.arrayFmts c).2)) ∧
    s.EarnsAtEnd (s.runStep core u c xs d) c (u.nextK + 1) := by
  let w := u.runSlots c.mode (s.arrayFmts c).1 (s.arrayFmts c).2 xs d
  let t := (s.routed core w c xs d).operandsRead core w c
  have hview : t.stepView core = s.stepView core := (State.stepView_operandsRead _ core w c).trans (s.stepView_routed core w c xs d)
  have hcmds : t.cmds = s.cmds := congrArg StepView.cmds hview
  have hsteps : t.mTK c = s.mTK c := State.mTK_congr (congrArg StepView.td hview) c
  have hk : w.nextK = u.nextK := congrArg TilePlace.nextK (u.runSlots_place ..)
  obtain ⟨hunit, hearns⟩ := t.stepDone_spec core w c (intPair (s.arrayFmts c).1 (s.arrayFmts c).2)
  rw [hsteps] at hunit
  refine ⟨hunit.congr hview, ?_⟩
  unfold State.EarnsAtEnd State.addFlags State.updCmd at hearns ⊢
  rw [hsteps, hcmds, hk] at hearns
  exact hearns

end

/-- A K step whose slots' reads came, of a one-slot tile of its own op and without an active set, on a core that does not check its stage slots
(R101, R283). -/
theorem exec_kStep {core unit : Nat} {u : WorkUnit} {c : Cmd} {x : StepIn} {d : StepDeal} {s : State} (hcore : core < 128)
    (hu : s.unit core unit = some u) (hst : u.st = .open_) (hruns : s.coreRuns core = true) (hc : u.contributor = some c) (hr : c.r = u.r)
    (hp : c.p = u.p) (hact : c.actEn = false) (hshape : c.shape = 0) (hchk : s.odGet 0x3133 (core + 1) % 2 = 0)
    (hx : s.stepIn core u c none 0 = .ok x) (hd : s.stepDeal core u c [x] = .ok d) :
    exec (.kStep core unit none) s = .next (s.runStep core u c [x] d) := by
  have hlive : s.contribLive u c = true := by simp [State.contribLive, hr, hp]
  have hreads : Rd.all (s.stepIn core u c none) (List.range (slotsOf c.shape)) = .ok [x] := by
    rw [hshape]
    exact Rd.bind_eq_ok.2 ⟨x, hx, rfl⟩
  have hstep : s.kStep core u c none = s.runStep core u c [x] d := by
    simp [State.kStep, hlive, hact, hreads, hd, Rd.bind]
  have heff : effKStep core unit none s = s.runStep core u c [x] d := by
    simp [effKStep, hu, hst, hruns, hc, State.slotChecked, hchk, hstep]
  exact (answer_of_ok (by simpa [okCore] using hcore)).trans (congrArg _ heff)

-- ## The rows of an operand tile (R97)

/-- A tile's rows are its first ones, in order, and none twice. -/
def OpTile.Leading (t : OpTile) : Prop := ∃ n ≤ 128, t.map (·.1) = List.range n

theorem padTile_leading (d : Desc) (inR inC : Nat) (get : Nat → Nat → Option Elem) : (padTile d inR inC get).Leading := by
  refine ⟨if (d.padMode != 0) = true then 128 else min 128 inR, by split <;> omega, ?_⟩
  simp [padTile, Function.comp_def]

theorem OpTile.Leading.mapTile {t : OpTile} (h : t.Leading) (f : List (Nat × Elem) → List (Nat × Elem)) :
    OpTile.Leading (Machine.mapTile f t) := by
  obtain ⟨n, hn, ht⟩ := h
  exact ⟨n, hn, by rw [← ht]; simp [Machine.mapTile]⟩

theorem State.opTile_leading {s : State} {w : Who} {d : Desc} {opnd kt rt : Nat} {t : OpTile × Tile × Nat}
    (h : s.opTile w d opnd kt rt = .ok t) : t.1.Leading := by
  unfold State.opTile at h
  extract_lets inR inC at h
  split at h
  · cases h; exact padTile_leading ..
  · split at h
    · obtain ⟨at_, -, h⟩ := Rd.bind_eq_ok.1 h
      obtain ⟨tl, -, h⟩ := Rd.bind_eq_ok.1 h
      cases h; exact padTile_leading ..
    · obtain ⟨rows, -, h⟩ := Rd.bind_eq_ok.1 h
      cases h; exact padTile_leading ..

theorem State.stepIn_leading {s : State} {core : Nat} {u : WorkUnit} {c : Cmd} {active : Option (List Nat)} {slot : Nat} {x : StepIn}
    (h : s.stepIn core u c active slot = .ok x) : x.b.Leading := by
  obtain ⟨a, -, h⟩ := Rd.bind_eq_ok.1 h
  obtain ⟨b, hb, h⟩ := Rd.bind_eq_ok.1 h
  have hlead := State.opTile_leading hb
  cases h
  dsimp only
  split <;> exact hlead.mapTile _

theorem OpTile.Leading.key_of_getElem? {t : OpTile} (h : t.Leading) {j : Nat} {y : Nat × List (Nat × Elem)} (hj : t[j]? = some y) :
    y.1 = j ∧ j < 128 := by
  obtain ⟨n, hn, ht⟩ := h
  have hy : (List.range n)[j]? = some y.1 := by rw [← ht, List.getElem?_map, hj]; rfl
  obtain ⟨hlt, hkey⟩ := List.getElem?_eq_some_iff.1 hy
  rw [List.length_range] at hlt
  rw [List.getElem_range] at hkey
  exact ⟨hkey.symm, Nat.lt_of_lt_of_le hlt hn⟩

/-- A row of such a tile stands at its own number. -/
theorem OpTile.Leading.getElem?_of_find {t : OpTile} (h : t.Leading) {q : Nat} {r : List (Nat × Elem)} (hf : AMap.find t q = some r) :
    t[q]? = some (q, r) := by
  obtain ⟨i, hi⟩ := List.getElem?_of_mem (AMap.find_mem hf)
  obtain ⟨rfl, -⟩ := h.key_of_getElem? hi
  exact hi

-- ## What a K step adds into an accumulator (R139, R142)

/-- A fold keeps what its steps over the list's own elements keep. -/
theorem foldl_keeps_of_mem {α β γ : Type} (view : β → γ) {f : β → α → β} {l : List α} (hf : ∀ a ∈ l, ∀ b, view (f b a) = view b) (b : β) :
    view (l.foldl f b) = view b := by
  induction l generalizing b with
  | nil => rfl
  | cons a l ih => rw [List.foldl_cons, ih fun x hx => hf x (List.mem_cons_of_mem a hx), hf a List.mem_cons_self]

/-- A fold of which one element alone changes what `view` sees. -/
theorem foldl_once {α β γ : Type} (view : β → γ) {f : β → α → β} {g : γ → γ} {l : List α} {i : Nat} {x : α} (hx : l[i]? = some x)
    (hone : ∀ b, view (f b x) = g (view b)) (hother : ∀ j y, l[j]? = some y → j ≠ i → ∀ b, view (f b y) = view b) (b : β) :
    view (l.foldl f b) = g (view b) := by
  induction l generalizing i b with
  | nil => simp at hx
  | cons a l ih =>
    cases i with
    | zero =>
      obtain rfl : a = x := by simpa using hx
      rw [List.foldl_cons, foldl_keeps_of_mem view (fun y hy => ?_), hone]
      obtain ⟨j, hj⟩ := List.getElem?_of_mem hy
      exact hother (j + 1) y (by simpa using hj) (by omega)
    | succ i =>
      rw [List.foldl_cons, ih (i := i) (by simpa using hx) (fun j y hj hne => hother (j + 1) y (by simpa using hj) (by omega)),
        hother 0 a rfl (by omega)]

/-- A term enters an accumulator: on its own where it lies beyond the largest value and the accumulator is finite, in a sum otherwise (R142). -/
theorem accumulate_eq (f : Fmt) (acc : Nat) (v : Val) :
    accumulate f acc v = roundAcc f (if v.beyond f = true ∧ (decodeVal f acc).isFin = true then v else Val.add 0 (decodeVal f acc) v) := by
  unfold accumulate
  simp only [Bool.and_eq_true]
  split <;> rfl

/-- The pairs of elements of two rows, in K order. -/
def rowPairs (ra rb : List (Nat × Elem)) : List (Elem × Elem) := ra.filterMap fun ke => (AMap.find rb ke.1).map fun e => (ke.2, e)

/-- A total, and whether it has saturated, once the product of a pair of elements is added in sum mode. -/
def addPair (fa fb : Nat) (a : Nat × Bool) (ab : Elem × Elem) : Nat × Bool :=
  let r := accumulate (accFmt 0 (intPair fa fb)) a.1 (Val.mul (ab.1.val fa) (ab.2.val fb))
  (r.1, a.2 || r.2)

/-- The addition written out: a product on its own where it lies beyond the largest value of a finite total, in a sum otherwise (R142). -/
theorem addPair_eq (fa fb : Nat) : addPair fa fb = fun a ab =>
    let total : Fmt := if intPair fa fb = true then .int 32 else fp32
    let p := Val.mul (ab.1.val fa) (ab.2.val fb)
    let cur := decodeVal total a.1
    let r := roundAcc total (if p.beyond total = true ∧ cur.isFin = true then p else Val.add 0 cur p)
    (r.1, a.2 || r.2) := by
  funext a ab
  rw [addPair, accumulate_eq]
  rfl

/-- An accumulator in sum mode once the products of two rows have entered it. -/
def Acc.addRows (fa fb : Nat) (ra rb : List (Nat × Elem)) (a : Acc) : Acc :=
  let z := (rowPairs ra rb).foldl (addPair fa fb) (a.tot, a.sat)
  { a with tot := z.1, sat := z.2 }

theorem Acc.run_sum (int : Bool) (ps : List Product) (a : Acc) : Acc.run 0 int ps a = ps.foldl (fun a p => a.add 0 int p) a :=
  if_neg (by decide)

theorem Acc.add_product (fa fb k : Nat) (x y : Elem) (a : Acc) : a.add 0 (intPair fa fb) (mkProduct fa fb k x y) =
    { a with tot := (addPair fa fb (a.tot, a.sat) (x, y)).1, sat := (addPair fa fb (a.tot, a.sat) (x, y)).2 } := rfl

/-- The products of two rows enter an accumulator in sum mode one after the other. -/
theorem Acc.run_rowProducts (fa fb k0 : Nat) (ra rb : List (Nat × Elem)) (a : Acc) :
    Acc.run 0 (intPair fa fb) (rowProducts fa fb k0 ra rb) a = a.addRows fa fb ra rb := by
  rw [Acc.run_sum]
  unfold rowProducts Acc.addRows rowPairs
  induction ra generalizing a with
  | nil => rfl
  | cons ke ra ih =>
    cases hf : AMap.find rb ke.1 with
    | none => simpa [hf] using ih a
    | some e => simp only [List.filterMap_cons, hf, Option.map_some, List.foldl_cons, ih, Acc.add_product]

theorem Acc.addRows_nil {fa fb : Nat} {ra rb : List (Nat × Elem)} (h : rowPairs ra rb = []) (a : Acc) : a.addRows fa fb ra rb = a := by
  simp [Acc.addRows, h]

theorem rowProducts_eq_nil {fa fb k0 : Nat} {ra rb : List (Nat × Elem)} (h : rowProducts fa fb k0 ra rb = []) : rowPairs ra rb = [] := by
  simpa [rowProducts, rowPairs] using h

/-- A step in the cell of an array row and a column: what `accStep` does to the cell's accumulator. -/
def cellStep (mode fa fb k0 key : Nat) (ra rb : List (Nat × Elem)) (acc : AMap Acc) : AMap Acc :=
  match rowProducts fa fb k0 ra rb, AMap.find acc key with
  | [], none => acc
  | ps, a => AMap.set acc key (Acc.run mode (intPair fa fb) ps (a.getD {}))

/-- A step in the cells of an array row, which holds the A row `ra` if any. -/
def rowStep (mode fa fb k0 slot row : Nat) (ra : Option (List (Nat × Elem))) (b : OpTile) (acc : AMap Acc) : AMap Acc :=
  match ra with
  | none => acc
  | some ra => b.foldl (fun acc qb => cellStep mode fa fb k0 (cellKey slot row qb.1) ra qb.2 acc) acc

theorem accStep_eq_rowSteps (mode fa fb k0 slot : Nat) (perm : List Nat) (a b : OpTile) (acc : AMap Acc) :
    accStep mode fa fb k0 slot perm a b acc =
      perm.zipIdx.foldl (fun acc mp => rowStep mode fa fb k0 slot mp.2 (AMap.find a mp.1) b acc) acc := rfl

theorem cellKey_inj {slot p q p' q' : Nat} (hq : q < 128) (hq' : q' < 128) (h : cellKey slot p q = cellKey slot p' q') : p = p' ∧ q = q' := by
  unfold cellKey at h
  omega

section
variable {fa fb k0 slot : Nat}

theorem getD_cellStep_self (key : Nat) (ra rb : List (Nat × Elem)) (acc : AMap Acc) :
    AMap.getD (cellStep 0 fa fb k0 key ra rb acc) key {} = (AMap.getD acc key {}).addRows fa fb ra rb := by
  unfold cellStep
  split
  · next hps hnone => rw [Acc.addRows_nil (rowProducts_eq_nil hps)]
  · rw [AMap.getD_set_self, Acc.run_rowProducts]
    rfl

theorem getD_cellStep_ne {key key' : Nat} (h : key' ≠ key) (mode : Nat) (ra rb : List (Nat × Elem)) (acc : AMap Acc) :
    AMap.getD (cellStep mode fa fb k0 key' ra rb acc) key {} = AMap.getD acc key {} := by
  unfold cellStep
  split
  · rfl
  · exact AMap.getD_set_ne acc _ _ h

theorem getD_rowStep_self {b : OpTile} (hb : b.Leading) {q : Nat} {rb : List (Nat × Elem)} (hrb : AMap.find b q = some rb) (row : Nat)
    (ra : List (Nat × Elem)) (acc : AMap Acc) :
    AMap.getD (rowStep 0 fa fb k0 slot row (some ra) b acc) (cellKey slot row q) {} =
      (AMap.getD acc (cellKey slot row q) {}).addRows fa fb ra rb := by
  have hq := hb.getElem?_of_find hrb
  refine foldl_once (AMap.getD · (cellKey slot row q) {}) (f := fun acc qb => cellStep 0 fa fb k0 (cellKey slot row qb.1) ra qb.2 acc)
    (g := Acc.addRows fa fb ra rb) hq
    (fun acc => getD_cellStep_self ..) (fun j y hj hne acc => getD_cellStep_ne (fun hkey => ?_) ..) acc
  obtain ⟨hyj, hj128⟩ := hb.key_of_getElem? hj
  exact hne (hyj ▸ (cellKey_inj (hyj ▸ hj128) (hb.key_of_getElem? hq).2 hkey).2)

theorem getD_rowStep_ne {b : OpTile} (hb : b.Leading) {row row' q : Nat} (hq : q < 128) (h : row' ≠ row) (mode : Nat)
    (ra : Option (List (Nat × Elem))) (acc : AMap Acc) :
    AMap.getD (rowStep mode fa fb k0 slot row' ra b acc) (cellKey slot row q) {} = AMap.getD acc (cellKey slot row q) {} := by
  cases ra with
  | none => rfl
  | some ra =>
    refine foldl_keeps_of_mem (AMap.getD · (cellKey slot row q) {}) (fun y hy acc => getD_cellStep_ne (fun hkey => ?_) ..) acc
    obtain ⟨j, hj⟩ := List.getElem?_of_mem hy
    obtain ⟨hyj, hj128⟩ := hb.key_of_getElem? hj
    exact h (cellKey_inj (hyj ▸ hj128) hq hkey).1

/-- The accumulator of an array row and a column after a K step in sum mode: the products of their two operand rows have entered it. -/
theorem getD_accStep {perm : List Nat} {a b : OpTile} (hb : b.Leading) {p q m : Nat} {ra rb : List (Nat × Elem)} (hq : q < 128)
    (hm : perm[p]? = some m) (hra : AMap.find a m = some ra) (hrb : AMap.find b q = some rb) (acc : AMap Acc) :
    AMap.getD (accStep 0 fa fb k0 slot perm a b acc) (cellKey slot p q) {} =
      (AMap.getD acc (cellKey slot p q) {}).addRows fa fb ra rb := by
  rw [accStep_eq_rowSteps]
  have hp : perm.zipIdx[p]? = some (m, p) := by simp [hm]
  refine foldl_once (AMap.getD · (cellKey slot p q) {}) (f := fun acc mp => rowStep 0 fa fb k0 slot mp.2 (AMap.find a mp.1) b acc)
    (g := Acc.addRows fa fb ra rb) hp
    (fun acc => hra ▸ getD_rowStep_self hb hrb p ra acc) (fun j y hj hne acc => getD_rowStep_ne hb hq ?_ ..) acc
  obtain ⟨n, -, rfl⟩ : ∃ n, perm[j]? = some n ∧ (n, j) = y := by simpa using hj
  exact hne

end

-- ## The K step

theorem State.addFlags_unflagged (s : State) (r p f : Nat) :
    ((s.addFlags r p f).cmds.map fun q => { q with flags := 0 }) = s.cmds.map fun q => { q with flags := 0 } := by
  simp only [State.addFlags, State.updCmd, List.map_map]
  refine List.map_congr_left fun q _ => ?_
  simp only [Function.comp_apply]
  split <;> rfl

theorem State.EarnsAtEnd.unflagged {s t : State} {c : Cmd} {k : Nat} (h : s.EarnsAtEnd t c k) :
    (t.cmds.map fun q => { q with flags := 0 }) = s.cmds.map fun q => { q with flags := 0 } := by
  obtain h | ⟨-, -, r, p, f, h⟩ := h
  · rw [h]
  · rw [h, State.addFlags_unflagged]

theorem State.EarnsAtEnd.cmds_eq {s t : State} {c : Cmd} {k : Nat} (h : s.EarnsAtEnd t c k) (hk : k < s.mTK c ∨ c.ends = true) :
    t.cmds = s.cmds := by
  obtain h | ⟨hend, hopen, -⟩ := h
  · exact h
  · rcases hk with hk | hk
    · omega
    · exact absurd hk (Bool.eq_false_iff.1 hopen)

/-- Settles O21: `State.runStep_spec` says what the step leaves alone, `WorkUnit.runSlots_array` and `getD_accStep` what it adds. -/
theorem kStepAddsItsProducts : Obligations.KStepAddsItsProducts := by
  intro core unit u c x d s hcore hu hst hruns hc hr hp hact hshape hmode hsum hchk hx hd f int total plus
  have hplus : plus = addPair f.1 f.2 := (addPair_eq f.1 f.2).symm
  have hid : u.id = unit := by simpa using List.find?_some hu
  let w := u.runSlots c.mode f.1 f.2 [x] d
  let v := w.stepped (s.mTK c) int
  obtain ⟨hsteps, hearns⟩ := s.runStep_spec core u c [x] d
  obtain ⟨hmem, htickets, houtq, hothers⟩ := hsteps.frame
  have hplace : w.place = u.place := u.runSlots_place ..
  have hk : w.nextK = u.nextK := congrArg TilePlace.nextK hplace
  have hci : w.ci = u.ci := congrArg TilePlace.ci hplace
  have hcontribs : w.contribs = u.contribs := congrArg TilePlace.contribs hplace
  have hwmode : w.mode = 0 := (congrArg TilePlace.mode hplace).trans hsum
  have hwid : v.id = unit := WorkUnit.stepped_id.trans ((congrArg TilePlace.id hplace).trans hid)
  have harray := (WorkUnit.stepped_array (steps := s.mTK c) (int := int) hwmode).trans (u.runSlots_array c.mode f.1 f.2 x d)
  refine ⟨s.runStep core u c [x] d, v, exec_kStep hcore hu hst hruns hc hr hp hact hshape hchk hx hd, hwid ▸ hsteps.unit_eq (hwid.symm ▸ hu), hmem,
    htickets, hearns.cmds_eq, hearns.unflagged, houtq, hothers, fun hskip => ?_, congrArg TileArray.perm harray, fun hrun => ⟨?_, ?_⟩,
    fun hnext => ?_, fun hlast hends => ?_⟩
  · rw [WorkUnit.slotStep_skip hskip, if_pos hskip] at harray
    exact ⟨congrArg TileArray.acc harray, congrArg TileArray.chkRow harray, congrArg TileArray.chkCol harray,
      congrArg TileArray.corner harray, congrArg TileArray.ran harray⟩
  · exact (congrArg TileArray.ran harray).trans (if_neg hrun)
  · intro p q m ra rb _ hq hm hra hrb pairs old
    have hacc : AMap.getD v.acc (128 * p + q) {} = old.addRows f.1 f.2 ra rb := by
      have hkey : 128 * p + q = cellKey 0 p q := by unfold cellKey; omega
      have hv : v.acc = accStep 0 f.1 f.2 (128 * u.nextK) 0 d.perm x.a x.b u.acc :=
        (congrArg TileArray.acc harray).trans ((WorkUnit.slotStep_acc hrun ..).trans (by rw [hmode]))
      rw [hv, hkey, getD_accStep (State.stepIn_leading hx) hq hm hra hrb, ← hkey]
    rw [hacc, hplus]
    exact ⟨fun hnone => Acc.addRows_nil hnone old, fun _ => rfl⟩
  · have hv : v = { w with nextK := w.nextK + 1 } := WorkUnit.stepped_next (hk ▸ hnext)
    rw [hv]
    exact ⟨(congrArg TilePlace.st hplace).trans hst, congrArg (· + 1) hk, hci⟩
  · have hv : v = { w with nextK := w.nextK + 1 }.endK int := WorkUnit.stepped_end (hk ▸ hlast)
    rw [hv]
    exact WorkUnit.endK_finished (by rw [hci, hcontribs]; exact hends) int

end Sys2Proof.Machine
end

section
/-! PROOF. The swap of a finished tile, issue pacing and the split of a scratchpad (R159, R165, R277). -/

namespace Sys2Proof.Machine

theorem okCore_of_lt {core : Nat} (h : core < 128) : okCore core = true := by simpa [okCore] using h

-- ## The swap (R159)

/-- The tile's range overlaps that of a tile in the shadow set. -/
def Core.shadowTaken (k : Core) (u : WorkUnit) : Prop :=
  ∃ v ∈ k.units, v.id ∈ k.shadow ∧ u.lo < v.lo + v.bits ∧ v.lo < u.lo + u.bits

theorem Core.shadowTaken_iff (k : Core) (u : WorkUnit) :
    (k.shadow.any fun i => k.units.any fun v => v.id == i && v.overRange u.lo u.bits) = true ↔ k.shadowTaken u := by
  simp only [List.any_eq_true, Bool.and_eq_true, beq_iff_eq, WorkUnit.overRange, decide_eq_true_eq, Core.shadowTaken]
  constructor
  · rintro ⟨i, hi, v, hv, rfl, hhi, hlo⟩
    exact ⟨v, hv, hi, hlo, hhi⟩
  · rintro ⟨v, hv, hi, hlo, hhi⟩
    exact ⟨v.id, hi, v, hv, rfl, hhi, hlo⟩

theorem any_open_iff (k : Core) : (k.units.any fun v => v.st == .open_) = true ↔ ∃ v ∈ k.units, v.st = .open_ := by simp

section
variable {core unit : Nat} {u : WorkUnit} {s : State} (hcore : core < 128) (hu : s.unit core unit = some u) (hend : s.mayEnd u = true)
include hcore hu hend

theorem exec_tileSwap_free (hfree : ¬ (s.core core).shadowTaken u) :
    exec (.tileSwap core unit) s = .next (s.setCore core { s.core core with
      shadow := (s.core core).shadow ++ [unit]
      units := (s.core core).units.map fun v => if v.id = unit then { v with st := .shadow, slot := 0 } else v }) := by
  have hid : u.id = unit := by simpa using List.find?_some hu
  refine (answer_of_ok (okCore_of_lt hcore)).trans ?_
  simp [effTileSwap, hu, hend, mt (Core.shadowTaken_iff _ _).1 hfree, State.updUnit, Core.updUnit, hid]

theorem exec_tileSwap_waits (htaken : (s.core core).shadowTaken u) :
    exec (.tileSwap core unit) s = .next (if (s.core core).units.any (fun v => v.st == .open_) then s else s.coreBump 0x5118 core 1) := by
  refine (answer_of_ok (okCore_of_lt hcore)).trans ?_
  simp only [effTileSwap, hu, hend, (Core.shadowTaken_iff _ _).2 htaken, Bool.not_true, Bool.false_eq_true, if_false, if_true]

end

-- ## Issue pacing (R165)

theorem ceilDiv_le_iff {a b k : Nat} (hb : 0 < b) : ceilDiv a b ≤ k ↔ a ≤ b * k := by
  rw [ceilDiv, ← Nat.lt_succ_iff, Nat.div_lt_iff_lt_mul hb, Nat.succ_mul, Nat.mul_comm k b]
  omega

/-- Idle cycles suffice exactly where they leave no more of a window's activity than the limit allows (R165). -/
theorem idleCycles_le_iff (last activity step k : Nat) :
    idleCycles last activity step ≤ k ↔ 256 * activity * (32 - k) ≤ 32 * (256 * last + step * windowFull) := by
  unfold idleCycles
  extract_lets limit
  generalize 256 * activity = rise
  split
  · next hle => exact iff_of_true (Nat.zero_le k) (calc
      rise * (32 - k) ≤ rise * 32 := Nat.mul_le_mul_left _ (by omega)
      _ ≤ 32 * limit := by omega)
  · next hlt =>
    rw [ceilDiv_le_iff (by omega), Nat.mul_sub rise]
    omega

theorem exec_pacingWindow {core activity : Nat} {s : State} (hcore : core < 128) (hfull : activity ≤ windowFull) :
    let step := s.odGet 0x3114 (core + 1)
    let last := (s.core core).activity
    exec (.pacingWindow core activity) s = .next
      ((s.setCore core { s.core core with activity := min activity ((256 * last + step * windowFull) / 256) }).coreBump 0x5119 core
        (idleCycles last activity step)) := by
  refine (answer_of_ok (okCore_of_lt hcore)).trans ?_
  simp [effPacingWindow, Nat.min_eq_left hfull]

-- ## The split of the scratchpad (R277)

/-- A core that holds no op, no PUSH and no POP. -/
def State.coreIdle (s : State) (core : Nat) : Prop :=
  (s.core core).units = [] ∧ (s.core core).shares = [] ∧ (s.core core).outq = [] ∧ s.holdsMove core = false

theorem State.coreIdle_iff (s : State) (core : Nat) : ((s.core core).units.isEmpty && (s.core core).shares.isEmpty &&
    (s.core core).outq.isEmpty && !s.holdsMove core) = true ↔ s.coreIdle core := by
  simp [State.coreIdle, and_assoc]

theorem exec_scratchpadSplitApply_idle {core : Nat} {s : State} (hcore : core < 128) (hidle : s.coreIdle core) :
    exec (.scratchpadSplitApply core) s = .next (s.setCore core { s.core core with
      split := (s.odGet 0x3130 (core + 1), s.odGet 0x3131 (core + 1), s.odGet 0x3132 (core + 1)) }) :=
  (answer_of_ok (okCore_of_lt hcore)).trans (congrArg _ (if_pos ((s.coreIdle_iff core).2 hidle)))

theorem exec_scratchpadSplitApply_busy {core : Nat} {s : State} (hcore : core < 128) (hbusy : ¬ s.coreIdle core) :
    exec (.scratchpadSplitApply core) s = .next s :=
  (answer_of_ok (okCore_of_lt hcore)).trans (congrArg _ (if_neg (mt (s.coreIdle_iff core).1 hbusy)))

/-- Settles O22: the swap by `Core.shadowTaken`, the pace by `idleCycles_le_iff`, the split by `State.coreIdle`. -/
theorem swapPacingAndSplit : Obligations.SwapPacingAndSplit := by
  refine ⟨⟨fun core unit u s hcore hu hend => ⟨exec_tileSwap_free hcore hu hend, fun htaken hopen => ?_, fun htaken hclosed => ?_⟩,
    fun core activity s hcore hfull => ?_⟩, fun core s hcore =>
      ⟨exec_scratchpadSplitApply_idle hcore, exec_scratchpadSplitApply_busy hcore⟩⟩
  · rw [exec_tileSwap_waits hcore hu hend htaken, if_pos ((any_open_iff _).2 hopen)]
  · rw [exec_tileSwap_waits hcore hu hend htaken, if_neg (mt (any_open_iff _).1 fun ⟨v, hv, hst⟩ => hclosed v hv hst)]
    rfl
  · have hidle := idleCycles_le_iff (s.core core).activity activity (s.odGet 0x3114 (core + 1))
    refine ⟨_, _, exec_pacingWindow hcore hfull, fun hle => ⟨?_, ?_⟩, fun hlt => ?_, ?_, ?_, fun k hk => ?_⟩
    · exact Nat.min_eq_left ((Nat.le_div_iff_mul_le (by decide)).2 (by rw [Nat.mul_comm]; exact hle))
    · exact if_pos hle
    · exact Nat.min_eq_right (Nat.div_le_of_le_mul (Nat.le_of_lt hlt))
    · exact (hidle 32).2 (by simp)
    · exact (hidle _).1 (Nat.le_refl _)
    · exact Nat.lt_of_not_le (mt (hidle k).2 (Nat.not_le.2 hk))

end Sys2Proof.Machine
end

section
/-! PROOF. What the conversion of a tile's slot changes: memory and the record of its granules (R89 to R94, R219, R401). -/

namespace Sys2Proof.Machine

-- ## Memory and the record of its failing granules (R401, R409 to R411)

/-- A state with memory and what is recorded of its granules taken from `s`. -/
def State.withBanks (t s : State) : State :=
  { t with mem := s.mem, groups := s.groups, bad := s.bad, poisoned := s.poisoned, hbmStacks := s.hbmStacks, log := s.log, od := s.od
           canTx := s.canTx, msix := s.msix, pba := s.pba, pins := s.pins }

/-- A state that differs in memory, and in what is recorded of granules that fail their check, alone. -/
def State.BanksOnly (s t : State) : Prop := t.withBanks s = s

section
variable {s t v : State}

theorem State.BanksOnly.trans (h : s.BanksOnly t) (h' : t.BanksOnly v) : s.BanksOnly v :=
  (congrArg (State.withBanks · s) h').trans h

theorem State.LogsOnly.banksOnly (h : s.LogsOnly t) : s.BanksOnly t := by
  have hbanks := congrArg (State.withBanks · s) h
  exact hbanks

theorem State.BanksOnly.refreshService (h : s.BanksOnly t) : s.BanksOnly t.refreshService := by
  refine h.trans ?_
  unfold State.refreshService
  split
  · extract_lets c old v s₁ s₂ pins s₃
    split
    · rfl
    · have hrecord (f : FaultRec) : s₃.LogsOnly (s₃.newRecord f) := by
        refine .newRecord ?_ f
        rfl
      exact State.BanksOnly.trans (t := s₃) rfl (hrecord _).banksOnly
  · rfl

theorem State.BanksOnly.severity (h : s.BanksOnly t) (kind unit code action sev : Nat) (e : Err) :
    s.BanksOnly (t.severity kind unit code action sev e) := h.trans (t.logsOnly_logFault _).banksOnly

theorem State.BanksOnly.poison (h : s.BanksOnly t) (ss : Nat) (keys : List Nat) : s.BanksOnly (t.poison ss keys) := by
  unfold State.poison
  extract_lets fresh
  split
  · exact h
  · refine .severity ?_ ..
    exact h

theorem State.BanksOnly.retirePc (h : s.BanksOnly t) (ss pc : Nat) : s.BanksOnly (t.retirePc ss pc) := by
  refine .severity (h.trans ?_) ..
  unfold State.retire
  split <;> rfl

theorem State.BanksOnly.retireChannel (h : s.BanksOnly t) (ss pc : Nat) : s.BanksOnly (t.retireChannel ss pc) := by
  unfold State.retireChannel
  extract_lets st
  split
  · exact h
  · split
    · refine .refreshService (.retirePc ?_ ..)
      exact h
    · refine .refreshService (.severity ?_ ..)
      exact h.poison ..

theorem State.BanksOnly.sectorFailed (h : s.BanksOnly t) (key : Nat) : s.BanksOnly (t.sectorFailed key) := by
  unfold State.sectorFailed
  extract_lets sc st recent t₁ t₂ n
  have h₂ : s.BanksOnly t₂ := by
    unfold t₂
    split
    · refine .poison ?_ ..
      exact h
    · exact h
  split
  · exact h₂.retireChannel ..
  · exact h₂

theorem State.BanksOnly.checkFailed (h : s.BanksOnly t) (g : Nat) : s.BanksOnly (t.checkFailed g) := by
  unfold State.checkFailed
  split
  · exact h.sectorFailed _
  · exact h

theorem State.BanksOnly.checksFailed (h : s.BanksOnly t) (gs : List Nat) : s.BanksOnly (gs.foldl State.checkFailed t) := by
  induction gs generalizing t with
  | nil => exact h
  | cons g gs ih => exact ih (h.checkFailed g)

end

-- ## What the conversion of a slot changes (R89 to R94, R219)

/-- What the drain of a slot leaves of a unit: its claim, and the slot it stands at. -/
def WorkUnit.drainClaim (u : WorkUnit) : (Nat × Nat × Nat × Nat × Nat × Option Ticket) × Nat := (u.claim, u.slot)

theorem WorkUnit.note_drainClaim (u : WorkUnit) (i n : Nat) : (u.note i n).drainClaim = u.drainClaim := by unfold WorkUnit.note; split <;> rfl

theorem State.takeSpace_spec (s : State) (u : WorkUnit) (st : StoreCtl) (units : Nat) :
    s.BanksOnly (s.takeSpace u st units).1 ∧ (s.takeSpace u st units).2.1.drainClaim = u.drainClaim := by
  unfold State.takeSpace
  split <;> exact ⟨rfl, rfl⟩

/-- A tile that is stored takes its PACKED space in memory, or meets a cursor that fails its check. -/
theorem State.storeTile_spec (s : State) (u : WorkUnit) (d : Desc) (dir : Loc) (t0 t1 : Nat) (st : StoreCtl) (es : List TileElem)
    (scales : List Nat) (zero : Bool) : s.BanksOnly (s.storeTile u d dir t0 t1 st es scales zero).s ∧
      (s.storeTile u d dir t0 t1 st es scales zero).u.drainClaim = u.drainClaim := by
  unfold State.storeTile
  extract_lets rec_ stop takes failing i start counted sp off fits entry spaced done
  have hspace : s.BanksOnly sp.1 ∧ sp.2.1.drainClaim = u.drainClaim := by
    unfold sp
    split
    · exact ⟨rfl, rfl⟩
    split
    · exact s.takeSpace_spec counted st _
    · exact ⟨rfl, rfl⟩
  split
  · exact ⟨rfl, rfl⟩
  split
  · exact ⟨State.BanksOnly.checksFailed (s := s) (t := s) rfl _, rfl⟩
  · refine ⟨hspace.1, ?_⟩
    rw [← hspace.2]
    unfold done
    split <;> rfl

/-- What the conversion of a slot comes to: memory and the record of its granules may change, and the unit keeps its claim and its place. -/
def SlotOut.Converts (out : SlotOut) (s : State) (u : WorkUnit) : Prop := s.BanksOnly out.s ∧ out.u.drainClaim = u.drainClaim

section
variable {s : State} {x : DrainEnv} {u : WorkUnit} {cols : List (List Drained)} {out : SlotOut}

theorem State.storeMarks_converts (h : s.storeMarks x u = .ok out) : out.Converts s u := by
  obtain ⟨rs, -, h⟩ := Rd.bind_eq_ok.1 h
  cases h
  exact ⟨rfl, rfl⟩

theorem State.storeStrided_converts (h : s.storeStrided x u cols = .ok out) : out.Converts s u := by
  obtain ⟨rs, -, h⟩ := Rd.bind_eq_ok.1 h
  cases h
  exact ⟨rfl, rfl⟩

theorem State.storeKeyed_converts (h : s.storeKeyed x u cols = .ok out) : out.Converts s u := by
  obtain ⟨rs, -, h⟩ := Rd.bind_eq_ok.1 h
  cases h
  exact ⟨rfl, WorkUnit.note_drainClaim _ _ _⟩

theorem State.storeTiled_converts {zero : Bool} (h : s.storeTiled x u cols zero = .ok out) : out.Converts s u := by
  unfold State.storeTiled at h
  extract_lets c d at h
  split at h
  · cases h
    exact ⟨rfl, rfl⟩
  · obtain ⟨t, -, h⟩ := Rd.bind_eq_ok.1 h
    obtain ⟨more, -, h⟩ := Rd.bind_eq_ok.1 h
    cases h
    exact s.storeTile_spec u d ..

theorem State.drainSlot_converts (h : s.drainSlot x u = .ok out) : out.Converts s u := by
  unfold State.drainSlot at h
  split at h
  · exact State.storeMarks_converts h
  · obtain ⟨cols, -, h⟩ := Rd.bind_eq_ok.1 h
    obtain ⟨zero, -, h⟩ := Rd.bind_eq_ok.1 h
    extract_lets all v at h
    suffices hv : out.Converts s v from hv
    split at h
    · cases h
      exact ⟨rfl, rfl⟩
    split at h
    · exact State.storeKeyed_converts h
    split at h
    · exact State.storeTiled_converts h
    · exact State.storeStrided_converts h

end

end Sys2Proof.Machine
end

section
/-! PROOF. The drain of the head of the shadow set (R155 to R162, R219, R284). -/

namespace Sys2Proof.Machine

-- ## What a drain is about

/-- What the drain of a tile is about: a core's work, its shadow set, the commands. -/
structure CoreDrain where
  work : CoreWork
  shadow : List Nat
  cmds : List Cmd

/-- That part of a state, for a core. -/
def State.drain (s : State) (core : Nat) : CoreDrain where
  work := s.work core
  shadow := (s.core core).shadow
  cmds := s.cmds

theorem State.BanksOnly.drain_eq {s t : State} (h : s.BanksOnly t) (core : Nat) :
    t.drain core = { s.drain core with work := { s.work core with mem := t.mem } } := by
  have hd := congrArg (fun r : State => { r.drain core with work := { r.work core with mem := t.mem } }) h
  exact hd

/-- What reads that are done leave of their core, where it is neither its bindings nor its requests at slots (R321, R323). -/
theorem State.readsDone_keepsOfCore {γ : Type} (view : Core → γ) (hbindings : ∀ c b, view { c with bindings := b } = view c)
    (hrequests : ∀ c a, view { c with atSlots := a } = view c) (s : State) (w : Who) (xs : Reads) :
    view ((s.readsDone w xs).core w.core) = view (s.core w.core) := by
  have hwindow (s : State) (pkg die slot gen : Nat) : view ((s.bindWindow w pkg die slot gen).core w.core) = view (s.core w.core) := by
    unfold State.bindWindow
    extract_lets c evicted
    split <;> rw [State.core_setCore_self] <;> exact hbindings c _
  have hlocal (s : State) (copies : List (Nat × Nat × Nat)) : view ((s.bindLocal w copies).core w.core) = view (s.core w.core) :=
    foldl_keeps (fun s : State => view (s.core w.core)) (fun s c => by
      split
      · exact hwindow s _ _ _ _
      · rfl) copies s
  have hsweep (s : State) (x : Desc × List (List Nat)) : view ((s.bindSweep w x.1 x.2).core w.core) = view (s.core w.core) := by
    unfold State.bindSweep
    split
    · exact foldl_keeps (fun s : State => view (s.core w.core)) (fun s i => hlocal s _) x.2 s
    · rfl
  have hdrop (s : State) (gone : OwnReq → Bool) : view ((s.dropOwn w.core gone).core w.core) = view (s.core w.core) := by
    unfold State.dropOwn
    extract_lets c mine
    split
    · rfl
    · refine (foldl_keeps (fun s : State => view (s.core w.core)) (f := fun s (x : OwnReq) => s.inflight x.slot (· - 1))
        (fun _ _ => rfl) _ _).trans ?_
      rw [State.core_setCore_self]
      exact hrequests c _
  exact (hdrop _ _).trans (foldl_keeps (fun s : State => view (s.core w.core)) hsweep xs s)

section
variable (s : State) (core : Nat)

theorem State.drain_readsDone (w : Who) (xs : Reads) : (s.readsDone w xs).drain w.core = s.drain w.core := by
  unfold State.drain
  rw [State.work_readsDone, State.readsDone_cmds, State.readsDone_keepsOfCore Core.shadow (fun _ _ => rfl) (fun _ _ => rfl)]

theorem State.drain_drainCycles : (s.drainCycles core).drain core = s.drain core := by
  unfold State.drainCycles
  extract_lets counted busy
  split <;> rfl

theorem State.drain_compareLines (u : WorkUnit) (int : Bool) (ls : List Line1) :
    (s.compareLines core u int ls).1.drain core = s.drain core := by
  unfold State.compareLines
  extract_lets bad nonf excl out counted failed flagged
  have hcounted : counted.drain core = s.drain core := by unfold counted; split <;> rfl
  rw [← hcounted]
  show failed.drain core = counted.drain core
  unfold failed
  split <;> rfl

-- ## The unit that drains (R155 to R157, R162)

/-- The unit once the check lines of a slot are compared (R157, R158). -/
def WorkUnit.compared (u : WorkUnit) (int : Bool) (ls : List Line1) : WorkUnit :=
  { u with
    flags := u.flags ||| flagIf (ls.any (· == .nonfinite) || (u.ran == 0 && 3 ≤ u.mode && !int)) flagNONFINITE
      ||| flagIf (ls.any (· == .excluded)) flagCHK_EXCL
    fail := if .fail ∈ ls then some (u.fail.getD { kind := .check }) else u.fail }

theorem State.compareLines_unit (u : WorkUnit) (int : Bool) (ls : List Line1) : (s.compareLines core u int ls).2 = u.compared int ls := by
  have hbad : ((ls.filter (· == .fail)).length == 0) = true ↔ .fail ∉ ls := by
    simp [List.forall_mem_ne']
  unfold State.compareLines WorkUnit.compared
  by_cases hfail : .fail ∈ ls
  · simp [mt hbad.1 (not_not_intro hfail), hfail, WorkUnit.failWith]
  · simp [hbad.2 hfail, hfail]

/-- Whether the slot that drains is the tile's last. -/
def WorkUnit.atLastSlot (u : WorkUnit) : Bool := decide (slotsOf u.shape ≤ u.slot + 1)

/-- The unit whose slot is through: the next one follows, or the tile has earned its flags and awaits its verdict. -/
def WorkUnit.through (u : WorkUnit) (last : Bool) : WorkUnit :=
  if last then { u.tileFlags with st := .drained, slot := u.slot + 1 } else { u with slot := u.slot + 1 }

theorem WorkUnit.through_claim (u : WorkUnit) (last : Bool) : (u.through last).claim = u.claim := by cases last <;> rfl
theorem WorkUnit.through_st (u : WorkUnit) (last : Bool) : (u.through last).st = if last = true then .drained else u.st := by cases last <;> rfl
theorem WorkUnit.through_slot (u : WorkUnit) (last : Bool) : (u.through last).slot = u.slot + 1 := by cases last <;> rfl
theorem WorkUnit.through_acc (u : WorkUnit) (last : Bool) : (u.through last).acc = u.acc := by cases last <;> rfl
theorem WorkUnit.through_fail (u : WorkUnit) (last : Bool) : (u.through last).fail = u.fail := by cases last <;> rfl

theorem WorkUnit.claim_eq_iff {u v : WorkUnit} : v.claim = u.claim ↔
    v.id = u.id ∧ v.r = u.r ∧ v.p = u.p ∧ v.part = u.part ∧ v.index = u.index ∧ v.ticket = u.ticket := by simp [WorkUnit.claim]

/-- A core once a slot of a tile is through, with the records `ds`, which leaves the unit `v`. -/
def CoreDrain.through (k : CoreDrain) (v : WorkUnit) (ds : List Dest) (last : Bool) : CoreDrain :=
  { k with
    work := { k.work with
      units := k.work.units.map fun a => if a.id == v.id then v else a
      outq := k.work.outq ++ ds.zipIdx.map fun d =>
        { unit := v.id, r := v.r, p := v.p, ticket := v.ticket, dest := d.1, seq := k.work.nextRec + d.2 }
      nextRec := k.work.nextRec + ds.length
      lastDrained := if last then some v.id else k.work.lastDrained }
    shadow := if last then k.shadow.filter (· != v.id) else k.shadow }

/-- The unit as it is when its slot's records are known. -/
def WorkUnit.earned (u : WorkUnit) (last : Bool) : WorkUnit := if last then u.tileFlags else u

theorem State.drain_slotDone (u : WorkUnit) (ds : List Dest) (last : Bool) :
    ((s.enqueueRecords core (u.earned last) ds).slotDone core (u.earned last) last).drain core =
      (s.drain core).through (u.through last) ds last := by
  cases last <;> simp [State.drain, State.work, State.slotDone, State.enqueueRecords, State.updUnit, Core.updUnit, CoreDrain.through,
    WorkUnit.through, WorkUnit.earned, WorkUnit.tileFlags]

end

-- ## The flags of a status word (R162)

theorem bitOf_eq_testBit (n i : Nat) : bitOf n i = n.testBit i := by
  rw [bitOf, Nat.testBit_eq_decide_div_mod_eq, Nat.shiftRight_eq_div_pow]
  rfl

theorem bitOf_or (n m i : Nat) : bitOf (n ||| m) i = (bitOf n i || bitOf m i) := by simp [bitOf_eq_testBit]

theorem bitOf_flagIf (i : Nat) : bitOf (flagIf true i) i = true := by simp [bitOf_eq_testBit, flagIf]

/-- A flag that a slot's lines have set stands in the unit that its drain leaves. -/
theorem WorkUnit.bitOf_through {u : WorkUnit} {i : Nat} (h : bitOf u.flags i = true) (last : Bool) : bitOf (u.through last).flags i = true := by
  cases last
  · exact h
  · simp [WorkUnit.through, WorkUnit.tileFlags, bitOf_or, h]

theorem WorkUnit.compared_fail {ls : List Line1} (h : .fail ∈ ls) (u : WorkUnit) (int : Bool) :
    (u.compared int ls).fail = some (u.fail.getD { kind := .check }) := if_pos h

theorem WorkUnit.compared_pass {ls : List Line1} (h : .fail ∉ ls) (u : WorkUnit) (int : Bool) : (u.compared int ls).fail = u.fail := if_neg h

theorem WorkUnit.compared_nonfinite {ls : List Line1} (h : .nonfinite ∈ ls) (u : WorkUnit) (int : Bool) :
    bitOf (u.compared int ls).flags flagNONFINITE = true := by
  have hany : ls.any (· == .nonfinite) = true := by simpa using h
  simp [WorkUnit.compared, hany, bitOf_or, bitOf_flagIf]

theorem WorkUnit.compared_excluded {ls : List Line1} (h : .excluded ∈ ls) (u : WorkUnit) (int : Bool) :
    bitOf (u.compared int ls).flags flagCHK_EXCL = true := by
  have hany : ls.any (· == .excluded) = true := by simpa using h
  simp [WorkUnit.compared, hany, bitOf_or, bitOf_flagIf]

-- ## The drain of a slot

section
variable {s : State} {core : Nat} {u : WorkUnit} {c : Cmd} {o : Op} {upsets : List Upset} {out : SlotOut} {stat : List Dest}

/-- The check lines of the slot that a core drains next. -/
def State.slotLines (s : State) (core : Nat) (u : WorkUnit) (c : Cmd) (o : Op) (upsets : List Upset) : List Line1 :=
  u.lines (s.drainEnv core u c o upsets).int (s.odGet 0x3113 (core + 1)) upsets u.slot

/-- The unit of a converted slot once its check lines are compared. -/
def SlotOut.judged (out : SlotOut) (s : State) (core : Nat) (u : WorkUnit) (c : Cmd) (o : Op) (upsets : List Upset) : WorkUnit :=
  out.u.compared (s.drainEnv core u c o upsets).int (s.slotLines core u c o upsets)

/-- The status word's record of a tile whose last slot drains; no record before that. -/
def State.lastRecs (s : State) (x : DrainEnv) (u : WorkUnit) (last : Bool) : Rd (List Dest) := if last then s.statRecs x u else .ok []

/-- The status word is that of the unit as its last slot leaves it. -/
theorem State.lastRecs_through (s : State) (x : DrainEnv) (w : WorkUnit) (last : Bool) :
    s.lastRecs x (w.through last) last = s.lastRecs x (w.earned last) last := by cases last <;> rfl

/-- A slot whose conversion and status word came, and whose records fit. -/
theorem State.tileDrain_ok :
    let x := s.drainEnv core u c o upsets
    let last := u.atLastSlot
    let v := out.judged s core u c o upsets
    let w := v.earned last
    s.drainSlot x { u with audited := x.audited && x.seeding.isNone } = .ok out → s.lastRecs x (v.through last) last = .ok stat →
    (s.core core).fits (out.recs ++ stat) = true →
    s.tileDrain core u c o upsets =
      ((((out.s.drainCycles core).compareLines core out.u x.int (s.slotLines core u c o upsets)).1.readsDone x.w (s.drainReads x)).enqueueRecords
        core w (out.recs ++ stat)).slotDone core w last := by
  intro x last v w hout hstat hfits
  rw [State.lastRecs_through] at hstat
  have hrecs : (if slotsOf u.shape ≤ u.slot + 1 then s.statRecs x w else .ok []) = .ok stat := by
    simpa [State.lastRecs, w, last, WorkUnit.atLastSlot] using hstat
  unfold State.tileDrain
  extract_lets atLast audited lost tau
  rw [hout]
  dsimp -zeta only
  extract_lets cmp earned
  have hunit : cmp.2 = v := State.compareLines_unit ..
  have hearned : earned = w := by simp [earned, hunit, w, WorkUnit.earned, last, WorkUnit.atLastSlot, atLast]
  rw [hearned, hrecs]
  dsimp only
  rw [hfits]
  rfl

/-- What the drain of such a slot is to its core: the slot is through, with memory as its conversion left it. -/
theorem State.drain_tileDrain :
    let x := s.drainEnv core u c o upsets
    let last := u.atLastSlot
    let w := out.judged s core u c o upsets
    s.drainSlot x { u with audited := x.audited && x.seeding.isNone } = .ok out → s.lastRecs x (w.through last) last = .ok stat →
    (s.core core).fits (out.recs ++ stat) = true →
    (s.tileDrain core u c o upsets).drain core =
      CoreDrain.through { s.drain core with work := { s.work core with mem := out.s.mem } } (w.through last) (out.recs ++ stat) last := by
  intro x last w hout hstat hfits
  rw [State.tileDrain_ok hout hstat hfits, State.drain_slotDone, ← (State.drainSlot_converts hout).1.drain_eq core]
  have hreads (t : State) (xs : Reads) : (t.readsDone x.w xs).drain core = t.drain core := t.drain_readsDone x.w xs
  rw [hreads, State.drain_compareLines, State.drain_drainCycles]

/-- The head of a core's shadow set drains its next slot where no verdict is open (R157). -/
theorem exec_tileDrain (hcore : core < 128) (hformed : (s.core core).lastDrained = none) (hruns : s.coreRuns core = true)
    (hhead : (s.core core).shadow.head?.bind (s.unit core) = some u) (hc : u.contribs.getLast?.map contribCmd = some c)
    (ho : s.op u.r u.p = some o) : exec (.tileDrain core upsets) s = .next (s.tileDrain core u c o upsets) := by
  refine (answer_of_ok (okCore_of_lt hcore)).trans ?_
  simp only [effTileDrain, hformed, hruns, hhead, hc, ho, Option.isSome_none, Bool.not_true, Bool.or_false, Bool.false_eq_true, if_false]

end

/-- A unit at the head of the shadow set is the one under its number. -/
theorem State.unit_of_head {s : State} {core : Nat} {u : WorkUnit} (h : (s.core core).shadow.head?.bind (s.unit core) = some u) :
    s.unit core u.id = some u := by
  obtain ⟨id, -, hu⟩ := Option.bind_eq_some_iff.1 h
  obtain rfl : u.id = id := by simpa using List.find?_some hu
  exact hu

/-- Settles O23: `State.drain_tileDrain` says what the drain of a slot is to its core, `WorkUnit.compared` what its check lines are to its tile. -/
theorem drainedTileAwaitsItsVerdict : Obligations.DrainedTileAwaitsItsVerdict := by
  intro core upsets u c o out s hcore hformed hruns hhead hc ho x last lines hout hlast hnext
  let atLast := u.atLastSlot
  let w := out.judged s core u c o upsets
  let v := w.through atLast
  have hat : last ↔ atLast = true := by simp [last, atLast, WorkUnit.atLastSlot, slotsOf]
  obtain ⟨hclaim, hslot⟩ : w.claim = u.claim ∧ w.slot = u.slot := Prod.mk.inj (State.drainSlot_converts hout).2
  obtain ⟨hid, hr, hp, -, hindex, hticket⟩ := WorkUnit.claim_eq_iff.1 ((w.through_claim atLast).trans hclaim)
  obtain ⟨stat, hstat, hfits⟩ : ∃ stat, s.lastRecs x v atLast = .ok stat ∧ (s.core core).fits (out.recs ++ stat) = true := by
    by_cases hl : last
    · obtain ⟨stat, hstat, hfits⟩ := hlast v hindex hl
      exact ⟨stat, (if_pos (hat.1 hl)).trans hstat, hfits⟩
    · exact ⟨[], if_neg (mt hat.2 hl), by rw [List.append_nil]; exact hnext hl⟩
  have hdrain := State.drain_tileDrain hout hstat hfits
  have hwork := congrArg CoreDrain.work hdrain
  have hshadow := congrArg CoreDrain.shadow hdrain
  have hunit : (s.tileDrain core u c o upsets).unit core u.id = some v := by
    refine (congrArg (CoreWork.unit · u.id) hwork).trans ?_
    rw [← hid]
    exact find?_map_update (fun _ => v) (hid.symm ▸ State.unit_of_head hhead) (beq_self_eq_true v.id)
  refine ⟨_, v, stat, exec_tileDrain hcore hformed hruns hhead hc ho, congrArg CoreWork.mem hwork, congrArg CoreWork.tickets hwork,
    congrArg CoreDrain.cmds hdrain, ?_, hunit, (w.through_slot atLast).trans (congrArg (· + 1) hslot), w.through_acc atLast,
    fun hn => WorkUnit.bitOf_through (WorkUnit.compared_nonfinite hn ..) atLast,
    fun he => WorkUnit.bitOf_through (WorkUnit.compared_excluded he ..) atLast,
    fun hf => (w.through_fail atLast).trans (WorkUnit.compared_fail hf ..),
    fun hf => (w.through_fail atLast).trans (WorkUnit.compared_pass hf ..), fun hl => ?_, fun hl => ?_⟩
  · rw [← hid, ← hr, ← hp, ← hticket]
    exact congrArg CoreWork.outq hwork
  · have hl' : atLast = true := hat.1 hl
    refine ⟨(if_pos hl').symm.trans hstat, (w.through_st atLast).trans (if_pos hl'),
      (congrArg CoreWork.lastDrained hwork).trans ((if_pos hl').trans (congrArg some hid)), ?_⟩
    have hgone : ((s.tileDrain core u c o upsets).core core).shadow = (s.core core).shadow.filter (· != v.id) := hshadow.trans (if_pos hl')
    rw [hgone, ← hid]
    simp [v]
  · have hl' : ¬ atLast = true := mt hat.2 hl
    exact ⟨Except.ok.inj (hstat.symm.trans (if_neg hl')), (w.through_st atLast).trans (if_neg hl'),
      (congrArg CoreWork.lastDrained hwork).trans ((if_neg hl').trans hformed), hshadow.trans (if_neg hl')⟩

end Sys2Proof.Machine
end

section
/-! PROOF. The Almanac's entries are saved, loaded and seeded (R235, R238 to R240). -/

namespace Sys2Proof.Machine

-- ## A memory that holds records of one length, one after the other

/-- The values `v 0` to `v (n - 1)` written in order from `a`, `len` bytes each. -/
def Mem.writeEach (m : List Host.Cell) (a len : Nat) (v : Nat → Nat) (n : Nat) : List Host.Cell :=
  (List.range n).foldl (fun m i => Mem.writeNat m (a + len * i) (v i) len) m

section
variable {m : List Host.Cell} (a len : Nat) (v : Nat → Nat)

theorem Mem.writeEach_succ (n : Nat) :
    Mem.writeEach m a len v (n + 1) = Mem.writeNat (Mem.writeEach m a len v n) (a + len * n) (v n) len := by
  simp [Mem.writeEach, List.range_succ]

variable (hm : Mem.wf m = true)
include hm

theorem Mem.writeEach_wf (n : Nat) : Mem.wf (Mem.writeEach m a len v n) = true := by
  induction n with
  | zero => exact hm
  | succ n ih => rw [Mem.writeEach_succ]; exact Mem.writeNat_wf _ _ _ ih

theorem Mem.read_writeEach_outside {n x : Nat} (hx : x < a ∨ a + len * n ≤ x) :
    Mem.read (Mem.writeEach m a len v n) x = Mem.read m x := by
  induction n with
  | zero => rfl
  | succ n ih =>
    rw [Nat.mul_succ] at hx
    rw [Mem.writeEach_succ, Mem.read_writeNat_of_outside (Mem.writeEach_wf a len v hm n) (by omega), ih (by omega)]

/-- Each record reads back as it was written: the later ones lie beyond it. -/
theorem Mem.readNat_writeEach {n i bits : Nat} (hbits : 8 * len = bits) (hi : i < n) :
    Mem.readNat (Mem.writeEach m a len v n) (a + len * i) len = v i % 2 ^ bits := by
  have hpow : 256 ^ len = 2 ^ bits := hbits ▸ (Nat.pow_mul 2 8 len).symm
  rw [← hpow]
  induction n with
  | zero => omega
  | succ n ih =>
    have hwf := Mem.writeEach_wf a len v hm n
    rw [Mem.writeEach_succ]
    obtain hlast | hbefore : i = n ∨ i < n := by omega
    · rw [hlast, Mem.readNat_writeNat len _ _ hwf]
    · rw [← ih hbefore]
      have hend : len * i + len ≤ len * n := Nat.mul_succ len i ▸ Nat.mul_le_mul_left len hbefore
      exact Mem.readNat_congr len _ fun x _ hx => Mem.read_writeNat_of_outside hwf (by omega)

end

-- ## A map that takes values at keys of its own, one after the other

/-- The values `v 0` to `v (n - 1)` set in order at the keys `k 0` to `k (n - 1)`. -/
def AMap.setEach {α : Type} (m : AMap α) (k : Nat → Nat) (v : Nat → α) (n : Nat) : AMap α :=
  (List.range n).foldl (fun m i => AMap.set m (k i) (v i)) m

section
variable {α : Type} (m : AMap α) (k : Nat → Nat) (v : Nat → α) (d : α)

theorem AMap.setEach_succ (n : Nat) : AMap.setEach m k v (n + 1) = AMap.set (AMap.setEach m k v n) (k n) (v n) := by
  simp [AMap.setEach, List.range_succ]

theorem AMap.getD_setEach_of_ne {n j : Nat} (hj : ∀ i, i < n → j ≠ k i) : AMap.getD (AMap.setEach m k v n) j d = AMap.getD m j d := by
  induction n with
  | zero => rfl
  | succ n ih =>
    rw [AMap.setEach_succ, AMap.getD_set_ne _ _ _ (hj n (by omega)).symm, ih fun i hi => hj i (by omega)]

theorem AMap.getD_setEach {n i : Nat} (hk : ∀ i j, k i = k j → i = j) (hi : i < n) : AMap.getD (AMap.setEach m k v n) (k i) d = v i := by
  induction n with
  | zero => omega
  | succ n ih =>
    rw [AMap.setEach_succ]
    obtain rfl | hbefore : i = n ∨ i < n := by omega
    · exact AMap.getD_set_self ..
    · rw [AMap.getD_set_ne _ _ _ fun h => by have := hk _ _ h; omega, ih hbefore]

end

-- ## A command, and an op, after an update

section
variable {s : State} {r p : Nat}

theorem State.cmd_at {c : Cmd} (h : s.cmd r p = some c) : c.r = r ∧ c.p = p := by
  have hat : c.at_ r p = true := List.find?_some (p := fun c : Cmd => c.at_ r p) h
  simpa [Cmd.at_] using hat

theorem State.op_at {o : Op} (h : s.op r p = some o) : o.r = r ∧ o.p = p := by
  have hat : o.at_ r p = true := List.find?_some (p := fun o : Op => o.at_ r p) h
  simpa [Op.at_] using hat

theorem State.cmd_updCmd {c : Cmd} (h : s.cmd r p = some c) (f : Cmd → Cmd) (hr : (f c).r = c.r) (hp : (f c).p = c.p) :
    (s.updCmd r p f).cmd r p = some (f c) := by
  obtain ⟨hcr, hcp⟩ := State.cmd_at h
  exact find?_map_update (p := fun c : Cmd => c.at_ r p) f h (by simp [Cmd.at_, hr, hp, hcr, hcp])

theorem State.op_updOp {o : Op} (h : s.op r p = some o) (f : Op → Op) (hr : (f o).r = o.r) (hp : (f o).p = o.p) :
    (s.updOp r p f).op r p = some (f o) := by
  obtain ⟨hor, hop⟩ := State.op_at h
  exact find?_map_update (p := fun o : Op => o.at_ r p) f h (by simp [Op.at_, hr, hp, hor, hop])

theorem State.runningOp_op {o : Op} (h : s.runningOp r p = some o) : s.op r p = some o := by
  unfold State.runningOp at h
  split at h
  · split at h
    · exact h
    · exact absurd h (by simp)
  · exact absurd h (by simp)

end

-- ## The range of an ALMANAC_SAVE or ALMANAC_LOAD (R237, R238)

theorem almIndex_inj {die first i j : Nat} (h : almIndex die (first + i) = almIndex die (first + j)) : i = j := by
  unfold almIndex at h; omega

theorem firstErr_eq_none {es : List (Option Err)} (h : firstErr es = none) {e : Option Err} (he : e ∈ es) : e = none := by
  induction es with
  | nil => simp at he
  | cons x xs ih =>
    cases x with
    | some e => simp [firstErr] at h
    | none =>
      rcases List.mem_cons.1 he with rfl | he
      · rfl
      · exact ih h he

section
variable {s : State} {r p : Nat} {c : Cmd}

/-- An image whose address passes its check lies in this package. -/
theorem State.home_of_almErr {save : Bool} (h : s.almErr c save = none) : s.foreign (c.f 63 0) = false := by
  have haddr : s.bodyAddr c.part (c.f 63 0) (96 * c.almNum) 16 0 = none := firstErr_eq_none h (by simp)
  have hcode : s.addrCode c.part (c.f 63 0) (96 * c.almNum) 16 = none := Option.map_eq_none_iff.1 haddr
  unfold State.addrCode at hcode
  split at hcode
  · cases hcode
  · split at hcode
    · cases hcode
    · next hplace =>
      simp only [Bool.or_eq_true, not_or, Bool.not_eq_true] at hplace
      exact hplace.1

/-- The fields of a range, as bits of the entry (R356). -/
theorem Cmd.almRange (c : Cmd) : c.f 63 0 = field c.entry.toNat 319 256 ∧ c.almDie = field c.entry.toNat 383 382 ∧
    c.almFirst = field c.entry.toNat 366 353 ∧ c.almNum = field c.entry.toNat 381 367 :=
  ⟨c.f_eq_field rfl rfl, c.f_eq_field rfl rfl, c.f_eq_field rfl rfl, c.f_eq_field rfl rfl⟩

/-- The key of entry `i` of a command's range. -/
def Cmd.almKey (c : Cmd) (i : Nat) : Nat := almIndex c.almDie (c.almFirst + i)

theorem State.touchAlm_of_good {die e : Nat} (h : (s.almEntry (almIndex die e)).bad = false) : s.touchAlm die e = s := by
  rw [State.touchAlm, h]; rfl

-- ## ALMANAC_SAVE (R239)

/-- One entry of a save: it is touched, and its image is written at its place. -/
def State.saveEntry (c : Cmd) (s : State) (i : Nat) : State :=
  let e := c.almFirst + i
  let s := s.touchAlm c.almDie e
  { s with mem := Mem.writeNat s.mem (memKey (c.f 63 0) + 96 * i) (s.almEntry (almIndex c.almDie e)).bits 96 }

/-- The image of entry `i` of a command's range. -/
def State.entryBits (s : State) (c : Cmd) (i : Nat) : Nat := (s.almEntry (c.almKey i)).bits

/-- Memory after a save of a range whose entries pass their check. -/
def State.savedMem (s : State) (c : Cmd) (n : Nat) : List Host.Cell := Mem.writeEach s.mem (memKey (c.f 63 0)) 96 (s.entryBits c) n

/-- Entries that pass their check are written, and none of them changes. -/
theorem State.foldl_saveEntry {n : Nat} (hgood : ∀ i, i < n → (s.almEntry (c.almKey i)).bad = false) :
    (List.range n).foldl (State.saveEntry c) s = { s with mem := s.savedMem c n } := by
  induction n with
  | zero => rfl
  | succ n ih =>
    have htouch := State.touchAlm_of_good (s := { s with mem := s.savedMem c n }) (hgood n (by omega))
    rw [List.range_succ, List.foldl_append, ih fun i hi => hgood i (by omega), List.foldl_cons, List.foldl_nil, State.saveEntry, htouch,
      State.savedMem, State.savedMem, Mem.writeEach_succ]
    rfl

/-- Where a range covers no failing granule in part, none in it fails after a write of the range: those that it covers whole no longer do. -/
theorem State.badIn_mendRange {a len : Nat}
    (h : ∀ g ∈ s.bad, g + granule g ≤ a ∨ a + len ≤ g ∨ (a ≤ g ∧ g + granule g ≤ a + len)) :
    (s.mendRange a len).badIn a len = none := by
  refine List.find?_eq_none.2 fun g hg => ?_
  obtain ⟨hbad, hwhole⟩ := List.mem_filter.1 hg
  have hcover := h g hbad
  simp only [Bool.not_eq_true', Bool.and_eq_false_iff, decide_eq_false_iff_not] at hwhole
  simp only [Bool.and_eq_true, decide_eq_true_eq]
  omega

section
variable (hgood : ∀ i, i < c.almNum → (s.almEntry (c.almKey i)).bad = false)
include hgood

theorem State.almSave_eq :
    let a := memKey (c.f 63 0)
    s.almSave c = (({ s with mem := s.savedMem c c.almNum }.mendRange a (96 * c.almNum)).closeGroups a (96 * c.almNum)).noteBad a
      (96 * c.almNum) := by
  intro a
  rw [← State.foldl_saveEntry hgood]
  rfl

/-- Where no failing granule is covered in part, a save notes none. -/
theorem State.almSave_aligned (h : let a := memKey (c.f 63 0)
      ∀ g ∈ s.bad, g + granule g ≤ a ∨ a + 96 * c.almNum ≤ g ∨ (a ≤ g ∧ g + granule g ≤ a + 96 * c.almNum)) :
    let a := memKey (c.f 63 0)
    s.almSave c = ({ s with mem := s.savedMem c c.almNum }.mendRange a (96 * c.almNum)).closeGroups a (96 * c.almNum) := by
  intro a
  rw [State.almSave_eq hgood]
  refine State.noteBad_of_good ?_
  exact State.badIn_mendRange (s := { s with mem := s.savedMem c c.almNum }) h

theorem State.almSave_mem : (s.almSave c).mem = s.savedMem c c.almNum := by
  rw [State.almSave_eq hgood, State.noteBad_mem]; rfl

theorem State.almSave_cmds : (s.almSave c).cmds = s.cmds := by
  rw [State.almSave_eq hgood, State.noteBad_cmds]; rfl

end

theorem exec_almanacSave (h : s.Holds r p .started 0x60 c) (herr : s.almErr c true = none)
    (hclear : s.clearingIn (memKey (c.f 63 0)) (96 * c.almNum) = false) :
    exec (.almanacSave r p) s = .next ((s.almSave c).cmdDone r p 0) := by
  refine (answer_of_ok h.inv.1).trans (congrArg Host.Outcome.next ((h.started_eq _).trans ?_))
  rw [herr, hclear, State.home_of_almErr herr]
  rfl

-- ## ALMANAC_LOAD (R240)

/-- Entry `i` of a load: its image, owned by the command's partition. -/
def State.loadedEntry (s : State) (c : Cmd) (i : Nat) : Alm := Alm.ofBits (s.almImage c i) (some c.part)

theorem State.almLoad_eq : s.almLoad c = { s with alm := AMap.setEach s.alm c.almKey (s.loadedEntry c) c.almNum } := by
  suffices hfold : ∀ n, (List.range n).foldl (fun t i => t.setAlm (c.almKey i) (t.loadedEntry c i)) s =
      { s with alm := AMap.setEach s.alm c.almKey (s.loadedEntry c) n } from hfold c.almNum
  intro n
  induction n with
  | zero => rfl
  | succ n ih => rw [List.range_succ, List.foldl_append, ih, AMap.setEach_succ]; rfl

theorem State.controlErr_eq_none {a len : Nat} (hplace : s.placeErr a len = none) (hbad : s.badIn (memKey a) len = none) :
    s.controlErr a len = none := by
  rw [State.controlErr, hplace, hbad]; rfl

/-- How a load ends whose image can be read: as its first bad entry says, or with every entry loaded. -/
def State.loadImage (s : State) (r p : Nat) (c : Cmd) : State :=
  match (List.range c.almNum).find? fun i => almImageBad (s.almImage c i) with
  | some i => s.cmdFail r p { code := 0x0112, dkind := 5, detail := c.almFirst + i }
  | none => (s.almLoad c).cmdDone r p 0

theorem exec_almanacLoad (h : s.Holds r p .started 0x61 c) (herr : s.almErr c false = none)
    (hclear : s.clearingIn (memKey (c.f 63 0)) (96 * c.almNum) = false) (hheld : s.snapshotHeld c.almDie c.almFirst c.almNum = false)
    (hcontrol : s.controlErr (c.f 63 0) (96 * c.almNum) = none) : exec (.almanacLoad r p) s = .next (s.loadImage r p c) := by
  refine (answer_of_ok h.inv.1).trans (congrArg Host.Outcome.next ((h.started_eq _).trans ?_))
  dsimp only
  rw [herr, hclear, hheld, hcontrol]
  rfl

theorem State.loadImage_bad {i : Nat} (hi : i < c.almNum) (hbad : almImageBad (s.almImage c i) = true)
    (hfirst : ∀ j, j < i → almImageBad (s.almImage c j) = false) :
    s.loadImage r p c = s.cmdFail r p { code := 0x0112, dkind := 5, detail := c.almFirst + i } := by
  have hfind : (List.range c.almNum).find? (fun i => almImageBad (s.almImage c i)) = some i :=
    List.find?_range_eq_some.2 ⟨hbad, List.mem_range.2 hi, fun j hj => by simp [hfirst j hj]⟩
  rw [State.loadImage, hfind]

theorem State.loadImage_good (hgood : ∀ i, i < c.almNum → almImageBad (s.almImage c i) = false) :
    s.loadImage r p c = (s.almLoad c).cmdDone r p 0 := by
  have hfind : (List.range c.almNum).find? (fun i => almImageBad (s.almImage c i)) = none :=
    List.find?_eq_none.2 fun i hi => by simp [hgood i (List.mem_range.1 hi)]
  rw [State.loadImage, hfind]

theorem State.almEntry_almLoad {i : Nat} (hi : i < c.almNum) : (s.almLoad c).almEntry (c.almKey i) = s.loadedEntry c i := by
  rw [State.almLoad_eq]
  exact AMap.getD_setEach _ _ _ _ (fun _ _ => almIndex_inj) hi

theorem State.almEntry_almLoad_of_ne {k : Nat} (hk : ∀ i, i < c.almNum → k ≠ c.almKey i) : (s.almLoad c).almEntry k = s.almEntry k := by
  rw [State.almLoad_eq]
  exact AMap.getD_setEach_of_ne _ _ _ _ hk

-- ## ALMANAC_SEED (R235)

theorem State.odGet_bump_self (i j n : Nat) : (s.bump i j n).odGet i j = (s.odGet i j + n) % 2 ^ 64 := by
  simp [State.bump, State.odGet, State.odSet]

/-- An op whose cold entry `e` is seeded: its snapshots of it take the seed, and its blocks begin again, their epochs after every earlier one. -/
def Op.reseeded (o : Op) (e : Nat) (a : Alm) : Op :=
  { o with
    snaps := o.snaps.map fun x => if x.entry == e then { x with use := a.use, next := a.next, seeding := false } else x
    maxima := [], landed := 0
    blocks := o.blocks.map fun b => { b with next := if b.lost then b.next else 0, reissue := [], base := b.top } }

theorem Op.reseeded_snaps {o : Op} {e : Nat} {a : Alm} {x : Snap} (hx : x ∈ (o.reseeded e a).snaps) (he : x.entry = e) :
    x.seeding = false := by
  obtain ⟨y, -, rfl⟩ := List.mem_map.1 hx
  by_cases hy : y.entry = e
  · simp [hy]
  · simp [hy] at he

theorem Op.reseeded_blocks {o : Op} {e : Nat} {a : Alm} {b : Block} (hb : b ∈ (o.reseeded e a).blocks) (hl : b.lost = false) :
    b.next = 0 ∧ b.reissue = [] ∧ b.base = b.top := by
  obtain ⟨y, -, rfl⟩ := List.mem_map.1 hb
  exact ⟨by simp [show y.lost = false from hl], rfl, rfl⟩

theorem State.seed_eq {o : Op} {e : Nat} (hgood : (s.almEntry (almIndex (field c.hC 19 18) e)).bad = false) :
    let die := field c.hC 19 18
    let a := (s.almEntry (almIndex die e)).seed (AMap.getD o.maxima e 0) (tdDesc s c.hC).fmt
    s.seed c o e = (((s.setAlm (almIndex die e) a).dieBump 0x5301 die 1).addFlags c.r c.p (2 ^ flagCOLD)).updOp c.r c.p
      fun o => o.reseeded e a := by
  intro die a
  rw [State.seed, State.touchAlm_of_good hgood]
  rfl

theorem exec_almanacSeed {o : Op} {e : Nat} (hr : r < 512) (hc : s.cmd r p = some c) (ho : s.runningOp r p = some o)
    (he : o.seedEntry = some e) (hquiet : s.opQuiet o = true) : exec (.almanacSeed r p) s = .next (s.seed c o e) := by
  have hring : okRing r = true := by simpa [okRing] using hr
  refine (answer_of_ok hring).trans (congrArg Host.Outcome.next ?_)
  simp [effAlmanacSeed, hc, ho, he, hquiet]

end

-- ## The statement

/-- The clause of ALMANAC_SAVE. -/
theorem almanacSave_writesItsEntries {r p : Nat} {c : Cmd} {s : State} (h : s.Holds r p .started 0x60 c) (herr : s.almErr c true = none)
    (hwf : s.memWf = true) (hclear : s.clearingIn (memKey (c.f 63 0)) (96 * c.almNum) = false)
    (hgood : ∀ i, i < c.almNum → (s.almEntry (c.almKey i)).bad = false) :
    let a := memKey (c.f 63 0)
    let n := c.almNum
    ∃ t, exec (.almanacSave r p) s = .next t ∧
      (∀ i, i < n → Mem.readNat t.mem (a + 96 * i) 96 = (s.almEntry (c.almKey i)).bits % 2 ^ 768) ∧
      (∀ x, x < a ∨ a + 96 * n ≤ x → Mem.read t.mem x = Mem.read s.mem x) ∧
      t.cmd r p = some { c with phase := .ended, result := 0 } ∧
      ((∀ g ∈ s.bad, g + granule g ≤ a ∨ a + 96 * n ≤ g ∨ (a ≤ g ∧ g + granule g ≤ a + 96 * n)) →
        (∀ g, g ∈ t.bad ↔ g ∈ s.bad ∧ ¬ (a ≤ g ∧ g + granule g ≤ a + 96 * n)) ∧
        { t with mem := s.mem, cmds := s.cmds, bad := s.bad, poisoned := s.poisoned, groups := s.groups } = s) := by
  intro a n
  have hmem : ((s.almSave c).cmdDone r p 0).mem = s.savedMem c n := State.almSave_mem hgood
  have hm := State.mem_wf_of_memWf hwf
  have hcmd : (s.almSave c).cmd r p = some c :=
    (congrArg (List.find? fun d : Cmd => d.at_ r p) (State.almSave_cmds hgood)).trans h.inv.2.1
  refine ⟨_, exec_almanacSave h herr hclear, fun i hi => ?_, fun x hx => ?_, State.cmd_updCmd hcmd _ rfl rfl, fun haligned => ?_⟩
  · rw [hmem]
    exact Mem.readNat_writeEach a 96 (s.entryBits c) hm (bits := 768) rfl hi
  · rw [hmem]
    exact Mem.read_writeEach_outside a 96 (s.entryBits c) hm hx
  · rw [State.almSave_aligned hgood haligned]
    refine ⟨fun g => ?_, rfl⟩
    refine List.mem_filter.trans (and_congr_right fun _ => ?_)
    rw [Bool.not_eq_true', Bool.eq_false_iff, ne_eq, Bool.and_eq_true, decide_eq_true_eq, decide_eq_true_eq]

/-- Settles O45: a save by `State.almSave_eq` and the laws of `Mem.writeEach`, a load by `State.loadImage` and those of `AMap.setEach`, a
seed by `State.seed_eq`. -/
theorem almanacEntriesAreSavedLoadedAndSeeded : Obligations.AlmanacEntriesAreSavedLoadedAndSeeded := by
  refine ⟨fun r p c s h herr hwf => ?_, fun r p c s h herr => ?_, fun r p e c o s hr hc ho he hquiet hgood => ?_⟩
  · obtain ⟨ha, hdie, hfirst, hn⟩ := c.almRange
    rw [← ha, ← hdie, ← hfirst, ← hn]
    exact almanacSave_writesItsEntries h herr hwf
  · obtain ⟨ha, hdie, hfirst, hn⟩ := c.almRange
    rw [← ha, ← hdie, ← hfirst, ← hn]
    intro a die first n hclear hheld hbad hplace
    have hexec := exec_almanacLoad h herr hclear hheld (State.controlErr_eq_none hplace hbad)
    have hpart : c.part = r / 64 := h.inv.2.2.2.2
    refine ⟨fun i hi hbad hbefore => ?_, fun himages => ⟨_, hexec, fun i hi => ?_, fun k hk => ?_, ?_, ?_⟩⟩
    · rw [hexec, State.loadImage_bad hi hbad hbefore]
      rfl
    · rw [State.loadImage_good himages, ← hpart]
      exact State.almEntry_almLoad hi
    · rw [State.loadImage_good himages]
      exact State.almEntry_almLoad_of_ne hk
    · rw [State.loadImage_good himages, State.almLoad_eq]
      exact State.cmd_updCmd (s := { s with alm := _ }) h.inv.2.1 _ rfl rfl
    · rw [State.loadImage_good himages, State.almLoad_eq]
      rfl
  · intro die i
    have hop := State.runningOp_op ho
    obtain ⟨hcr, hcp⟩ := State.cmd_at hc
    have hseed := State.seed_eq (o := o) hgood
    rw [hcr, hcp] at hseed
    refine ⟨_, (exec_almanacSeed hr hc ho he hquiet).trans (congrArg Host.Outcome.next hseed), ?_⟩
    let a := (s.almEntry i).seed (AMap.getD o.maxima e 0) (tdDesc s c.hC).fmt
    have hentry (k : Nat) : (s.setAlm i a).almEntry k = if i = k then a else s.almEntry k := s.almEntry_setAlm i k a
    have hself : (s.setAlm i a).almEntry i = a := s.almEntry_setAlm_self i a
    refine ⟨congrArg Alm.valid hself, congrArg Alm.count hself, congrArg Alm.head hself, ?_, congrArg Alm.hist hself,
      (congrArg Alm.owner hself).trans rfl, fun k hk => (hentry k).trans (if_neg hk.symm), (s.setAlm i a).odGet_bump_self 0x5301 (die + 1) 1,
      State.cmd_addFlags (s := (s.setAlm i a).dieBump 0x5301 die 1) hc _,
      ⟨o.reseeded e a, State.op_updOp (s := ((s.setAlm i a).dieBump 0x5301 die 1).addFlags r p (2 ^ flagCOLD)) hop _ rfl rfl, rfl, rfl,
        fun _ => Op.reseeded_snaps, fun _ => Op.reseeded_blocks⟩, rfl, rfl⟩
    exact (congrArg Alm.use hself).trans (congrArg Alm.next hself).symm

end Sys2Proof.Machine
end

section
/-! PROOF. Failing sectors, channels, modules and phases: what is recorded of them, and what is retired (R242, R409, R410, R413, R414, R418, R426). -/

namespace Sys2Proof.Machine

-- ## Records of faults, and SERVICE (R418, R420)

section
variable {s t u : State} {i j : Nat}

/-- The stored value of an entry after a write of another; the unit maps alone are reset to a value that other entries decide. -/
theorem State.odGet_odSet_ne {i' j' v : Nat} (hi : i ≠ 0x2011) (h : i' * 256 + j' ≠ i * 256 + j) : (s.odSet i' j' v).odGet i j = s.odGet i j := by
  simp [State.odGet, State.odSet, AMap.find_set_ne _ _ h, odDefault, hi]

@[simp] theorem State.odGet_odSet_self (v : Nat) : (s.odSet i j v).odGet i j = v := by simp [State.odGet, State.odSet]

theorem State.odGet_congr (h : t.od = s.od) (hi : i ≠ 0x2011) : t.odGet i j = s.odGet i j := by simp [State.odGet, odDefault, h, hi]

/-- The entries that a record and SERVICE write, 0x6000.00, 0x4000.00 and 0x4001.00, and the unit maps. -/
def serviceEntries : List Nat := [0x6000, 0x4000, 0x4001, 0x2011]

/-- A state with what records and SERVICE change taken from `s`. -/
def State.unnoted (t s : State) : State :=
  { t with log := s.log, od := s.od, canTx := s.canTx, msix := s.msix, pba := s.pba, pins := s.pins }

/-- `t` is `s` after fault records, what they send, and SERVICE brought up to date. -/
structure State.Notes (s t : State) : Prop where
  rest : t.unnoted s = s
  retired : t.log.retired = s.log.retired
  odGet : ∀ i j, j < 256 → i ∉ serviceEntries → t.odGet i j = s.odGet i j

theorem ne_unitMaps_of_not_mem {l : List Nat} (h : i ∉ l ++ serviceEntries) : i ≠ 0x2011 := fun he =>
  h (List.mem_append_right l (he ▸ by decide))

/-- A change that leaves the dictionary and the retirement list alone. -/
theorem State.Notes.of_od (rest : t.unnoted s = s) (retired : t.log.retired = s.log.retired) (od : t.od = s.od) : s.Notes t :=
  ⟨rest, retired, fun _ _ _ hi => State.odGet_congr od (ne_unitMaps_of_not_mem (l := []) hi)⟩

theorem State.Notes.refl (s : State) : s.Notes s := .of_od rfl rfl rfl

theorem State.Notes.trans (h : s.Notes t) (h' : t.Notes u) : s.Notes u where
  rest := (congrArg (State.unnoted · s) h'.rest).trans h.rest
  retired := h'.retired.trans h.retired
  odGet i j hj hi := (h'.odGet i j hj hi).trans (h.odGet i j hj hi)

theorem State.Notes.mem_eq (h : s.Notes t) : t.mem = s.mem := by have hrest := congrArg State.mem h.rest; exact hrest
theorem State.Notes.bad_eq (h : s.Notes t) : t.bad = s.bad := by have hrest := congrArg State.bad h.rest; exact hrest
theorem State.Notes.poisoned_eq (h : s.Notes t) : t.poisoned = s.poisoned := by have hrest := congrArg State.poisoned h.rest; exact hrest
theorem State.Notes.hbmStacks_eq (h : s.Notes t) : t.hbmStacks = s.hbmStacks := by have hrest := congrArg State.hbmStacks h.rest; exact hrest
theorem State.Notes.d2d_eq (h : s.Notes t) : t.d2d = s.d2d := by have hrest := congrArg State.d2d h.rest; exact hrest
theorem State.Notes.power_eq (h : s.Notes t) : t.power = s.power := by have hrest := congrArg State.power h.rest; exact hrest
theorem State.Notes.regions_eq (h : s.Notes t) : t.regions = s.regions := by have hrest := congrArg State.regions h.rest; exact hrest

theorem State.Notes.stack_eq (h : s.Notes t) (ss : Nat) : t.stack ss = s.stack ss :=
  congrArg (fun m : AMap Stack => AMap.getD m ss {}) h.hbmStacks_eq
theorem State.Notes.regionPower_eq (h : s.Notes t) (rr : Nat) : t.regionPower rr = s.regionPower rr :=
  congrArg (fun m : AMap RegionPower => AMap.getD m rr {}) h.regions_eq

/-- A write of one of those entries. -/
theorem State.notes_odSet {i' v : Nat} (hi' : i' ∈ serviceEntries) : s.Notes (s.odSet i' 0 v) where
  rest := rfl
  retired := rfl
  odGet i j hj hi := by
    have hne : i' ≠ i := fun h => hi (h ▸ hi')
    exact State.odGet_odSet_ne (ne_unitMaps_of_not_mem (l := []) hi) (by omega)

variable (s)

theorem State.notes_sendIrqs (xs : List Irq) : s.Notes (s.sendIrqs xs) := by
  induction xs generalizing s with
  | nil => exact .refl s
  | cons x xs ih =>
    refine .trans ?_ (ih (s.sendIrq x))
    unfold State.sendIrq
    split <;> exact .of_od rfl rfl rfl

theorem State.notes_broadcast (f : FaultRec) : s.Notes (s.broadcast f) := by
  unfold State.broadcast
  extract_lets due node frame irqs
  split
  · refine .trans ?_ (State.notes_sendIrqs _ irqs)
    exact .of_od rfl rfl rfl
  · exact .refl s

theorem State.notes_newRecord (f : FaultRec) : s.Notes (s.newRecord f) := by
  unfold State.newRecord
  extract_lets f' log s'
  have hlog : s.Notes s' := .of_od rfl rfl rfl
  have hseq (v : Nat) : s'.Notes (s'.odSet 0x6000 0 v) := State.notes_odSet (by decide)
  exact (hlog.trans (hseq _)).trans (State.notes_broadcast _ f')

theorem State.notes_severity (kind unit code action sev : Nat) (e : Err) : s.Notes (s.severity kind unit code action sev e) := by
  unfold State.severity State.logFault
  extract_lets recent
  split
  · exact .of_od rfl rfl rfl
  · refine .trans ?_ (State.notes_newRecord _ _)
    exact .of_od rfl rfl rfl

theorem State.notes_refreshService : s.Notes s.refreshService := by
  unfold State.refreshService
  split
  · extract_lets c old v s₁ s₂ pins s₃
    have h₁ : s.Notes s₁ := State.notes_odSet (by decide)
    have h₂ : s.Notes s₂ := h₁.trans (State.notes_odSet (by decide))
    have h₃ : s.Notes s₃ := h₂.trans (.of_od rfl rfl rfl)
    split
    · exact h₃
    · exact h₃.trans (State.notes_newRecord _ _)
  · exact .refl s

end

-- ## Poisoned sectors (R410)

section
variable (s : State) (ss : Nat) (keys : List Nat)

/-- Those of some sectors that are not yet poisoned. -/
def State.unpoisoned (s : State) (keys : List Nat) : List Nat := keys.filter fun k => !s.poisoned.contains k

theorem State.poison_none (h : s.unpoisoned keys = []) : s.poison ss keys = s := by
  have hempty : (keys.filter fun k => !s.poisoned.contains k).isEmpty = true := List.isEmpty_iff.2 h
  exact if_pos hempty

/-- Sectors that fail their check are poisoned: those that were not are counted. -/
theorem State.notes_poison (h : s.unpoisoned keys ≠ []) (hbad : ∀ k ∈ keys, k ∈ s.bad) :
    ({ s with poisoned := s.poisoned ++ s.unpoisoned keys }.bump 0x5320 (ss + 1) (s.unpoisoned keys).length).Notes (s.poison ss keys) := by
  have hsome : ¬ (keys.filter fun k => !s.poisoned.contains k).isEmpty = true := mt List.isEmpty_iff.1 h
  have hold : (keys.filter fun k => !s.poisoned.contains k).filter (fun k => !s.bad.contains k) = [] :=
    List.filter_eq_nil_iff.2 fun k hk => by simpa using hbad k (List.mem_filter.1 hk).1
  simp only [State.poison, if_neg hsome, hold, List.append_nil]
  exact State.notes_severity _ ..

variable {s ss keys} (hbad : ∀ k ∈ keys, k ∈ s.bad)
include hbad

theorem State.poison_bad : (s.poison ss keys).bad = s.bad := by
  by_cases h : s.unpoisoned keys = []
  · rw [s.poison_none ss keys h]
  · exact (s.notes_poison ss keys h hbad).bad_eq

theorem State.poison_poisoned : (s.poison ss keys).poisoned = s.poisoned ++ s.unpoisoned keys := by
  by_cases h : s.unpoisoned keys = []
  · rw [s.poison_none ss keys h, h, List.append_nil]
  · exact (s.notes_poison ss keys h hbad).poisoned_eq

theorem State.poison_hbmStacks : (s.poison ss keys).hbmStacks = s.hbmStacks := by
  by_cases h : s.unpoisoned keys = []
  · rw [s.poison_none ss keys h]
  · exact (s.notes_poison ss keys h hbad).hbmStacks_eq

theorem State.poison_counted (hss : ss < 8) : (s.poison ss keys).odGet 0x5320 (ss + 1) =
    if s.unpoisoned keys = [] then s.odGet 0x5320 (ss + 1) else (s.odGet 0x5320 (ss + 1) + (s.unpoisoned keys).length) % 2 ^ 64 := by
  split
  · next h => rw [s.poison_none ss keys h]
  · next h => exact ((s.notes_poison ss keys h hbad).odGet _ _ (by omega) (by decide)).trans (State.odGet_bump_self ..)

end

-- ## What a retirement leaves alone (R409)

section
variable {s t u : State}

/-- `t` is `s` with sectors poisoned or channels retired: no other sector fails its check, and none is healed. -/
structure State.Retires (s t : State) : Prop where
  bad : t.bad = s.bad
  poisoned : ∀ x ∈ s.poisoned, x ∈ t.poisoned
  odGet : ∀ i j, j < 256 → i ∉ [0x5320, 0x5321] ++ serviceEntries → t.odGet i j = s.odGet i j

theorem State.Retires.trans (h : s.Retires t) (h' : t.Retires u) : s.Retires u where
  bad := h'.bad.trans h.bad
  poisoned x hx := h'.poisoned x (h.poisoned x hx)
  odGet i j hj hi := (h'.odGet i j hj hi).trans (h.odGet i j hj hi)

/-- A change that heals no sector and leaves the dictionary alone. -/
theorem State.Retires.of_od (bad : t.bad = s.bad) (poisoned : ∀ x ∈ s.poisoned, x ∈ t.poisoned) (od : t.od = s.od) : s.Retires t :=
  ⟨bad, poisoned, fun _ _ _ hi => State.odGet_congr od (ne_unitMaps_of_not_mem hi)⟩

theorem State.Notes.retires (h : s.Notes t) : s.Retires t where
  bad := h.bad_eq
  poisoned _ hx := h.poisoned_eq ▸ hx
  odGet i j hj hi := h.odGet i j hj fun hs => hi (List.mem_append_right _ hs)

theorem State.retires_odSet {i' j' v : Nat} (hi' : i' ∈ [0x5320, 0x5321]) (hj' : j' < 256) : s.Retires (s.odSet i' j' v) where
  bad := rfl
  poisoned _ hx := hx
  odGet i j hj hi := by
    have hne : i' ≠ i := fun h => hi (List.mem_append_left _ (h ▸ hi'))
    exact State.odGet_odSet_ne (ne_unitMaps_of_not_mem hi) (by omega)

/-- The retirement list holds what was retired, and nothing else changes. -/
theorem State.retire_eq (s : State) (kind unit : Nat) :
    ∃ l, s.retire kind unit = { s with log := { s.log with retired := l } } ∧ (kind, unit) ∈ l := by
  unfold State.retire
  split
  · next h => exact ⟨s.log.retired, rfl, by simpa using h⟩
  · exact ⟨s.log.retired ++ [(kind, unit)], rfl, by simp⟩

/-- A pseudo-channel in the retirement list, counted as its stack's, before the record of it. -/
theorem State.notes_retirePc (s : State) (ss pc : Nat) : ((s.retire 5 (64 * ss + pc)).odSet 0x5321 (ss + 1) 1).Notes (s.retirePc ss pc) :=
  State.notes_severity _ ..

variable {ss : Nat} (hss : ss < 8)
include hss

theorem State.retires_poison {keys : List Nat} (hbad : ∀ k ∈ keys, k ∈ s.bad) : s.Retires (s.poison ss keys) := by
  by_cases h : s.unpoisoned keys = []
  · rw [s.poison_none ss keys h]
    exact (State.Notes.refl s).retires
  · have hmore : s.Retires { s with poisoned := s.poisoned ++ s.unpoisoned keys } :=
      .of_od rfl (fun _ hx => List.mem_append_left _ hx) rfl
    exact (hmore.trans (State.retires_odSet (by decide) (by omega))).trans (s.notes_poison ss keys h hbad).retires

theorem State.retires_retirePc (s : State) (pc : Nat) : s.Retires (s.retirePc ss pc) := by
  have hlist : s.Retires (s.retire 5 (64 * ss + pc)) := by
    obtain ⟨l, hl, -⟩ := s.retire_eq 5 (64 * ss + pc)
    exact hl ▸ .of_od rfl (fun _ hx => hx) rfl
  exact (hlist.trans (State.retires_odSet (by decide) (by omega))).trans (s.notes_retirePc ss pc).retires

theorem State.retires_retireChannel (s : State) (pc : Nat) : s.Retires (s.retireChannel ss pc) := by
  unfold State.retireChannel
  extract_lets st
  split
  · exact (State.Notes.refl s).retires
  · split
    · have hcopy : s.Retires (s.setStack ss { st with copying := some pc }) := .of_od rfl (fun _ hx => hx) rfl
      exact (hcopy.trans (State.retires_retirePc hss _ pc)).trans (State.notes_refreshService _).retires
    · have hpoison : s.Retires (s.poison ss (s.bad.filter fun k => k / 2 ^ 48 % 4 == 0 && channelOf k == (ss, pc))) :=
        State.retires_poison hss fun k hk => (List.mem_filter.1 hk).1
      refine hpoison.trans (State.Notes.retires ?_)
      exact ((State.notes_odSet (by decide)).trans (State.notes_severity _ ..)).trans (State.notes_refreshService _)

omit hss in
/-- A sector that fails is noted in its stack's list, and may be poisoned or retire its channel. -/
theorem State.retires_sectorFailed {s : State} {key : Nat} (hss : (channelOf key).1 < 8) (hbad : key ∈ s.bad) : s.Retires (s.sectorFailed key) := by
  unfold State.sectorFailed
  extract_lets sc st recent s₁ s₂ n
  have h₁ : s.Retires s₁ := .of_od rfl (fun _ hx => hx) rfl
  have h₂ : s.Retires s₂ := by
    unfold s₂
    split
    · refine h₁.trans (State.retires_poison hss fun k hk => ?_)
      exact List.mem_singleton.1 hk ▸ hbad
    · exact h₁
  split
  · exact h₂.trans (State.retires_retireChannel hss s₂ _)
  · exact h₂

end

-- ## The start of a copy into the reserve (R409)

section
variable {s t : State} {ss pc : Nat}

/-- A stack that copies a pseudo-channel into its reserve: it stands in the retirement list, and counts as the stack's retired one. -/
structure State.Copies (s : State) (ss pc : Nat) : Prop where
  copying : (s.stack ss).copying = some pc
  retired : (5, 64 * ss + pc) ∈ s.log.retired
  counted : s.odGet 0x5321 (ss + 1) = 1

theorem State.Copies.congr (h : s.Copies ss pc) (ht : s.Notes t) (hss : ss < 8) : t.Copies ss pc where
  copying := (congrArg Stack.copying (ht.stack_eq ss)).trans h.copying
  retired := ht.retired ▸ h.retired
  counted := (ht.odGet _ _ (by omega) (by decide)).trans h.counted

variable (hcopy : (s.stack ss).copying = none) (hres : (s.stack ss).reserveUsed = none)
include hcopy hres

theorem State.retireChannel_starts (pc : Nat) : s.retireChannel ss pc =
    ((s.setStack ss { s.stack ss with copying := some pc }).retirePc ss pc).refreshService := by
  unfold State.retireChannel
  simp [hcopy, hres]

theorem State.copies_retireChannel (hss : ss < 8) (pc : Nat) : (s.retireChannel ss pc).Copies ss pc := by
  rw [State.retireChannel_starts hcopy hres]
  refine .congr (.congr ?_ (State.notes_retirePc _ ss pc) hss) (State.notes_refreshService _) hss
  obtain ⟨l, hl, hmem⟩ := (s.setStack ss { s.stack ss with copying := some pc }).retire_eq 5 (64 * ss + pc)
  rw [hl]
  exact ⟨congrArg Stack.copying (s.stack_setStack_self ss _), hmem, State.odGet_odSet_self 1⟩

/-- A channel that is being copied already is not retired again. -/
theorem State.retireChannel_twice (hss : ss < 8) (pc : Nat) : (s.retireChannel ss pc).retireChannel ss pc = s.retireChannel ss pc := by
  have hcopies := State.copies_retireChannel hcopy hres hss pc
  exact if_pos (by simp [hcopies.copying])

end

/-- A failing sector whose channel is then retired: it starts the copy, whether or not it was the channel's sixteenth. -/
theorem State.copies_sectorFailed {s : State} {key : Nat} (hss : (channelOf key).1 < 8) (hcopy : (s.stack (channelOf key).1).copying = none)
    (hres : (s.stack (channelOf key).1).reserveUsed = none) :
    ((s.sectorFailed key).retireChannel (channelOf key).1 (channelOf key).2).Copies (channelOf key).1 (channelOf key).2 := by
  unfold State.sectorFailed
  extract_lets sc st recent s₁ s₂ n
  have hst : s₁.stack sc.1 = { st with failing := (key, s.timeUs) :: recent } := s.stack_setStack_self sc.1 _
  have hcopy₁ : (s₁.stack sc.1).copying = none := (congrArg Stack.copying hst).trans hcopy
  have hres₁ : (s₁.stack sc.1).reserveUsed = none := (congrArg Stack.reserveUsed hst).trans hres
  have h₂ : s₂ = s₁ := if_neg (by simp [st, sc, hcopy, hres])
  rw [h₂]
  have hcopies := State.copies_retireChannel hcopy₁ hres₁ hss sc.2
  split
  · rw [State.retireChannel_twice hcopy₁ hres₁ hss]
    exact hcopies
  · exact hcopies

-- ## A mirror repair (R242, R409)

section
variable {s : State} {b g : Nat}

/-- The state of a mirror repair before its failed sector counts: noted, and rewritten from the other copy. -/
def State.rewritten (s : State) (b g : Nat) : State :=
  let t := ((s.dieBump 0x5303 (b / 2 ^ 50) 1).dieBit (b / 2 ^ 50) 1).severity 4 (channelOf b).1 0 2 0 (addrErr 0 (b + s.pkg <<< 52))
  { t with mem := Mem.writeNat t.mem b (Mem.readNat t.mem g 64) 64 }

theorem State.rewritten_eq (s : State) (b g : Nat) : ∃ (t : State) (m : List Host.Cell), s.rewritten b g = { t with mem := m } ∧
    m = Mem.writeNat s.mem b (Mem.readNat s.mem g 64) 64 ∧ ((s.dieBump 0x5303 (b / 2 ^ 50) 1).dieBit (b / 2 ^ 50) 1).Notes t := by
  have h := ((s.dieBump 0x5303 (b / 2 ^ 50) 1).dieBit (b / 2 ^ 50) 1).notes_severity 4 (channelOf b).1 0 2 0 (addrErr 0 (b + s.pkg <<< 52))
  exact ⟨_, _, rfl, by rw [h.mem_eq]; rfl, h⟩

theorem State.rewritten_bad (s : State) (b g : Nat) : (s.rewritten b g).bad = s.bad := by
  obtain ⟨t, m, ht, -, hnotes⟩ := s.rewritten_eq b g
  rw [ht]
  exact hnotes.bad_eq

theorem State.rewritten_poisoned (s : State) (b g : Nat) : (s.rewritten b g).poisoned = s.poisoned := by
  obtain ⟨t, m, ht, -, hnotes⟩ := s.rewritten_eq b g
  rw [ht]
  exact hnotes.poisoned_eq

theorem State.rewritten_stack (s : State) (b g ss : Nat) : (s.rewritten b g).stack ss = s.stack ss := by
  obtain ⟨t, m, ht, -, hnotes⟩ := s.rewritten_eq b g
  rw [ht]
  exact hnotes.stack_eq ss

/-- A repair is counted for the die of the failed sector. -/
theorem State.rewritten_counted (s : State) (g : Nat) (hkey : b < 2 ^ 52) :
    (s.rewritten b g).odGet 0x5303 (b / 2 ^ 50 + 1) = (s.odGet 0x5303 (b / 2 ^ 50 + 1) + 1) % 2 ^ 64 := by
  obtain ⟨t, m, ht, -, hnotes⟩ := s.rewritten_eq b g
  rw [ht]
  refine (hnotes.odGet 0x5303 (b / 2 ^ 50 + 1) (by omega) (by decide)).trans ?_
  exact (State.odGet_odSet_ne (by decide) (by omega)).trans (State.odGet_bump_self ..)

/-- The state of a mirror repair when its sector has counted: what the verifying read finds. -/
def State.repaired (s : State) (b g : Nat) : State := (s.rewritten b g).sectorFailed b

theorem exec_mirrorRepair {bad good : Nat} (hb : memKey bad / 64 * 64 = b) (hg : memKey good / 64 * 64 = g) (hb0 : b / 2 ^ 48 % 4 = 0)
    (hg0 : g / 2 ^ 48 % 4 = 0) (hdie : b / 2 ^ 50 ≠ g / 2 ^ 50) (hbad : b ∈ s.bad) (hgood : g ∉ s.bad) (verify : Bool) :
    exec (.mirrorRepair bad good verify) s = .next (if verify = true then (s.repaired b g).mendBy (· == b)
      else (s.repaired b g).retireChannel (channelOf b).1 (channelOf b).2) := by
  have hdies : (b / 2 ^ 50 == g / 2 ^ 50) = false := beq_eq_false_iff_ne.2 hdie
  have hfails : s.bad.contains b = true := List.contains_iff_mem.2 hbad
  have hholds : s.bad.contains g = false := by simpa using hgood
  have hguard : (b / 2 ^ 48 % 4 != 0 || g / 2 ^ 48 % 4 != 0 || b / 2 ^ 50 == g / 2 ^ 50 || !s.bad.contains b || s.bad.contains g) = false := by
    rw [hb0, hg0, hdies, hfails, hholds]; rfl
  refine (answer_of_ok rfl).trans (congrArg Host.Outcome.next ?_)
  unfold effMirrorRepair
  rw [hb, hg]
  exact if_neg (Bool.eq_false_iff.1 hguard)

theorem channelOf_lt {key : Nat} (h : key < 2 ^ 52) : (channelOf key).1 < 8 := by
  simp only [channelOf]; omega

theorem State.mem_of_memAndCmds {t : State} (h : t.memAndCmds = s.memAndCmds) : t.mem = s.mem := congrArg Prod.fst h

theorem State.repaired_mem (s : State) (b g : Nat) : (s.repaired b g).mem = Mem.writeNat s.mem b (Mem.readNat s.mem g 64) 64 := by
  obtain ⟨t, m, ht, hm, -⟩ := s.rewritten_eq b g
  have hkeeps : (s.repaired b g).memAndCmds = (s.rewritten b g).memAndCmds := State.sectorFailed_memAndCmds _ b
  rw [State.mem_of_memAndCmds hkeeps, ht, ← hm]

theorem State.retires_repaired (hkey : b < 2 ^ 52) (hbad : b ∈ s.bad) : (s.rewritten b g).Retires (s.repaired b g) :=
  State.retires_sectorFailed (channelOf_lt hkey) ((s.rewritten_bad b g).symm ▸ hbad)

theorem State.not_mem_poisoned_mendBy (s : State) (b : Nat) : b ∉ (s.mendBy (· == b)).poisoned := by simp [State.mendBy]

/-- A repair that does not verify starts the copy of its channel, where the stack's reserve is free. -/
theorem State.copies_repaired (hkey : b < 2 ^ 52) (hcopy : (s.stack (channelOf b).1).copying = none)
    (hres : (s.stack (channelOf b).1).reserveUsed = none) :
    ((s.repaired b g).retireChannel (channelOf b).1 (channelOf b).2).Copies (channelOf b).1 (channelOf b).2 := by
  have hst := s.rewritten_stack b g (channelOf b).1
  exact State.copies_sectorFailed (channelOf_lt hkey) ((congrArg Stack.copying hst).trans hcopy) ((congrArg Stack.reserveUsed hst).trans hres)

end

-- ## The end of a copy, and a retraining (R409, R410)

theorem okStack_of_lt {ss : Nat} (h : ss < 8) : okStack ss = true := by simpa [okStack] using h

section
variable {s : State} {ss pc : Nat}

/-- The state of a stack whose copy has ended, before the failing sectors of the channel are poisoned. -/
def State.copied (s : State) (ss pc : Nat) : State :=
  s.setStack ss { s.stack ss with
    reserveUsed := some pc, copying := none, failing := (s.stack ss).failing.filter fun f => channelOf f.1 != (ss, pc) }

/-- The failing sectors of a channel. -/
def State.badOf (s : State) (ss pc : Nat) : List Nat := s.bad.filter fun k => k / 2 ^ 48 % 4 == 0 && channelOf k == (ss, pc)

theorem State.unpoisoned_badOf (s : State) (ss pc : Nat) : s.unpoisoned (s.badOf ss pc) =
    s.bad.filter fun k => decide (k / 2 ^ 48 % 4 = 0 ∧ channelOf k = (ss, pc) ∧ k ∉ s.poisoned) := by
  rw [State.unpoisoned, State.badOf, List.filter_filter]
  refine List.filter_congr fun k _ => Bool.eq_iff_iff.2 ?_
  simp only [Bool.and_eq_true, Bool.not_eq_true', List.contains_eq_mem, decide_eq_false_iff_not, beq_iff_eq, decide_eq_true_eq]
  exact ⟨fun ⟨hp, hz, hch⟩ => ⟨hz, hch, hp⟩, fun ⟨hz, hch, hp⟩ => ⟨hp, hz, hch⟩⟩

theorem exec_retireCopyDone_idle (hss : ss < 8) (h : (s.stack ss).copying = none) : exec (.retireCopyDone ss) s = .next s := by
  refine (answer_of_ok (okStack_of_lt hss)).trans (congrArg Host.Outcome.next ?_)
  simp [effRetireCopyDone, h]

theorem exec_retireCopyDone (hss : ss < 8) (h : (s.stack ss).copying = some pc) :
    exec (.retireCopyDone ss) s = .next ((s.copied ss pc).poison ss ((s.copied ss pc).badOf ss pc)) := by
  refine (answer_of_ok (okStack_of_lt hss)).trans (congrArg Host.Outcome.next ?_)
  simp only [effRetireCopyDone, h]
  rfl

theorem exec_hbmRetrain_pass (hss : ss < 8) (hpc : pc < 64) : exec (.hbmRetrain ss pc true) s = .next s :=
  answer_of_ok (by simp [okStack_of_lt hss, hpc])

theorem exec_hbmRetrain_fail (hss : ss < 8) (hres : (s.stack ss).reserveUsed = none) (hpc : pc < 63) :
    exec (.hbmRetrain ss pc false) s = .next (s.retireChannel ss pc) := by
  refine (answer_of_ok (by simp [okStack_of_lt hss]; omega)).trans (congrArg Host.Outcome.next ?_)
  have hlogical : (s.stack ss).logical pc = some pc := by simp [Stack.logical, hres, show pc ≠ 63 by omega]
  simp [effHbmRetrain, hlogical, hpc]

end

-- ## Modules and phases (R413, R414, R426)

section
variable {s : State}

theorem exec_d2dModuleDisable_again {pair m : Nat} (hpair : pair < 6) (hm : m < 8)
    (h : m ∈ (AMap.getD s.d2d (2 * pair) {}).disabled) : exec (.d2dModuleDisable pair m) s = .next s := by
  refine (answer_of_ok (by simp [hpair, hm])).trans (congrArg Host.Outcome.next ?_)
  exact if_pos (by simpa [d2dKey] using h)

theorem exec_d2dModuleDisable {pair m : Nat} (hpair : pair < 6) (hm : m < 8) (h : m ∉ (AMap.getD s.d2d (2 * pair) {}).disabled) :
    ∃ t, exec (.d2dModuleDisable pair m) s = .next t ∧ ((s.disableModule (2 * pair) m).disableModule (2 * pair + 1) m).Notes t := by
  refine ⟨_, (answer_of_ok (by simp [hpair, hm])).trans (congrArg Host.Outcome.next (if_neg (by simpa [d2dKey] using h))), ?_⟩
  exact (State.notes_severity _ ..).trans (State.notes_refreshService _)

theorem State.getD_disableModule (s : State) (k k' m : Nat) : AMap.getD (s.disableModule k m).d2d k' {} =
    if k = k' then { AMap.getD s.d2d k {} with disabled := (AMap.getD s.d2d k {}).disabled ++ [m] } else AMap.getD s.d2d k' {} :=
  AMap.getD_set ..

/-- A module that is disabled toward both ends is so in each of the pair's directions. -/
theorem State.getD_disableBoth (s : State) (pair m : Nat) {i : Nat} (hi : i < 2) :
    AMap.getD ((s.disableModule (2 * pair) m).disableModule (2 * pair + 1) m).d2d (2 * pair + i) {} =
      { AMap.getD s.d2d (2 * pair + i) {} with disabled := (AMap.getD s.d2d (2 * pair + i) {}).disabled ++ [m] } := by
  obtain rfl | rfl : i = 0 ∨ i = 1 := by omega
  · rw [State.getD_disableModule, if_neg (by omega), State.getD_disableModule]
    exact if_pos rfl
  · rw [State.getD_disableModule, if_pos rfl, State.getD_disableModule, if_neg (by omega)]

/-- A phase that failed is counted for its rail, and its bit set. -/
def State.phaseLost (s : State) (rail : Nat) : State :=
  { s with power := { s.power with phases := AMap.set s.power.phases rail (AMap.getD s.power.phases rail 0 + 1) } }.setBit 0x4400 0 3

theorem exec_phaseFailure_spared {rail : Nat} (hrail : rail < 28) (h : AMap.getD s.power.phases rail 0 < 2) :
    ∃ t, exec (.phaseFailure rail) s = .next t ∧ (s.phaseLost rail).Notes t := by
  refine ⟨_, (answer_of_ok (by simpa using hrail)).trans (congrArg Host.Outcome.next (if_pos (by omega))), ?_⟩
  exact State.notes_severity _ ..

theorem exec_phaseFailure_lowers {rail : Nat} (hrail : rail < 28) (h : 2 ≤ AMap.getD s.power.phases rail 0) :
    ∃ t u, exec (.phaseFailure rail) s = .next u ∧ (s.phaseLost rail).Notes t ∧ (t.lowerRail rail).Notes u := by
  refine ⟨_, _, (answer_of_ok (by simpa using hrail)).trans (congrArg Host.Outcome.next (if_neg (by omega))), ?_,
    State.notes_refreshService _⟩
  exact State.notes_severity _ ..

theorem State.lowerRail_power (s : State) (rail : Nat) : (s.lowerRail rail).power = s.power := by
  unfold State.lowerRail
  refine foldl_keeps State.power (fun _ _ => ?_) _ s
  rfl

theorem State.lowerRail_odGet (s : State) (rail i j : Nat) : (s.lowerRail rail).odGet i j = s.odGet i j := by
  unfold State.lowerRail
  refine foldl_keeps (State.odGet · i j) (fun _ _ => ?_) _ s
  rfl

/-- The core rail of a region lowers its ceiling alone. -/
theorem State.regionPower_lowerRail {rail : Nat} (h : rail < 16) (rr : Nat) : (s.lowerRail rail).regionPower rr =
    if rail = rr then { s.regionPower rail with
      railCeil := min (s.regionPower rail).railCeil (800 + Config.freePick s.freeCtr 1450 % 1450) } else s.regionPower rr := by
  have hrail : railRegions rail = [rail] := if_pos h
  rw [State.lowerRail, hrail]
  exact s.regionPower_setRegionPower rail rr _

end

-- ## The statement

section
variable {s : State}

/-- The clause of a mirror repair. -/
theorem mirrorRepair_rewritesItsSector {bad good : Nat} (verify : Bool) (hwf : s.memWf = true) :
    let b := memKey bad / 64 * 64
    let g := memKey good / 64 * 64
    b / 2 ^ 48 % 4 = 0 → g / 2 ^ 48 % 4 = 0 → b / 2 ^ 50 ≠ g / 2 ^ 50 → b ∈ s.bad → g ∉ s.bad →
    let ch := channelOf b
    ∃ t, exec (.mirrorRepair bad good verify) s = .next t ∧ Mem.readNat t.mem b 64 = Mem.readNat s.mem g 64 ∧
      (∀ x, x < b ∨ b + 64 ≤ x → Mem.read t.mem x = Mem.read s.mem x) ∧
      t.odGet 0x5303 (b / 2 ^ 50 + 1) = (s.odGet 0x5303 (b / 2 ^ 50 + 1) + 1) % 2 ^ 64 ∧
      (verify = true → t.bad = s.bad.filter (fun x => x != b) ∧ b ∉ t.poisoned ∧ ∀ x ∈ s.poisoned, x ≠ b → x ∈ t.poisoned) ∧
      (verify = false → (s.stack ch.1).copying = none → (s.stack ch.1).reserveUsed = none →
        (t.stack ch.1).copying = some ch.2 ∧ (5, 64 * ch.1 + ch.2) ∈ t.log.retired ∧ t.bad = s.bad ∧ t.odGet 0x5321 (ch.1 + 1) = 1) := by
  intro b g hb0 hg0 hdie hbad hgood ch
  have hkey : b < 2 ^ 52 := Nat.lt_of_le_of_lt (Nat.div_mul_le_self _ _) (Nat.mod_lt _ (by decide))
  have hexec := exec_mirrorRepair rfl rfl hb0 hg0 hdie hbad hgood verify
  have hretires := State.retires_repaired (g := g) hkey hbad
  have hold : (s.repaired b g).bad = s.bad := hretires.bad.trans (s.rewritten_bad b g)
  have hpoisoned : ∀ x ∈ s.poisoned, x ∈ (s.repaired b g).poisoned := fun x hx => hretires.poisoned x (s.rewritten_poisoned b g ▸ hx)
  have hcount := (hretires.odGet 0x5303 (b / 2 ^ 50 + 1) (by omega) (by decide)).trans (s.rewritten_counted g hkey)
  have hwritten {m : List Host.Cell} (hmem : m = Mem.writeNat s.mem b (Mem.readNat s.mem g 64) 64) :
      Mem.readNat m b 64 = Mem.readNat s.mem g 64 ∧ ∀ x, x < b ∨ b + 64 ≤ x → Mem.read m x = Mem.read s.mem x := by
    have hm := State.mem_wf_of_memWf hwf
    rw [hmem, Mem.readNat_writeNat 64 _ _ hm, Nat.mod_eq_of_lt (Mem.readNat_lt ..)]
    exact ⟨rfl, fun x hx => Mem.read_writeNat_of_outside hm hx⟩
  cases verify with
  | true =>
    obtain ⟨hread, hframe⟩ := hwritten (m := ((s.repaired b g).mendBy (· == b)).mem) (s.repaired_mem b g)
    refine ⟨_, hexec, hread, hframe, hcount, fun _ => ⟨?_, State.not_mem_poisoned_mendBy _ b, fun x hx hne => ?_⟩,
      fun h => absurd h (by decide)⟩
    · exact congrArg (List.filter fun x => x != b) hold
    · exact List.mem_filter.2 ⟨hpoisoned x hx, by simpa using hne⟩
  | false =>
    have hss := channelOf_lt hkey
    have hmore := State.retires_retireChannel hss (s.repaired b g) ch.2
    have hmem := State.mem_of_memAndCmds ((s.repaired b g).retireChannel_memAndCmds ch.1 ch.2)
    obtain ⟨hread, hframe⟩ := hwritten (hmem.trans (s.repaired_mem b g))
    refine ⟨_, hexec, hread, hframe, (hmore.odGet _ _ (by omega) (by decide)).trans hcount, fun h => absurd h (by decide),
      fun _ hcopy hres => ?_⟩
    have hcopies := State.copies_repaired (g := g) hkey hcopy hres
    exact ⟨hcopies.copying, hcopies.retired, hmore.bad.trans hold, hcopies.counted⟩

/-- The clause of the end of a copy. -/
theorem retireCopyDone_poisonsTheRest {ss pc : Nat} (hss : ss < 8) (hcopy : (s.stack ss).copying = some pc) :
    ∃ t, exec (.retireCopyDone ss) s = .next t ∧ (t.stack ss).reserveUsed = some pc ∧ (t.stack ss).copying = none ∧
      (∀ q, q ≠ ss → t.stack q = s.stack q) ∧ t.mem = s.mem ∧ t.bad = s.bad ∧
      let fresh := s.bad.filter fun k => decide (k / 2 ^ 48 % 4 = 0 ∧ channelOf k = (ss, pc) ∧ k ∉ s.poisoned)
      t.poisoned = s.poisoned ++ fresh ∧
      t.odGet 0x5320 (ss + 1) =
        (if fresh = [] then s.odGet 0x5320 (ss + 1) else (s.odGet 0x5320 (ss + 1) + fresh.length) % 2 ^ 64) := by
  let v := s.copied ss pc
  have hbad : ∀ k ∈ v.badOf ss pc, k ∈ v.bad := fun k hk => (List.mem_filter.1 hk).1
  have hstack (q : Nat) : (v.poison ss (v.badOf ss pc)).stack q = v.stack q :=
    congrArg (fun m : AMap Stack => AMap.getD m q {}) (State.poison_hbmStacks hbad)
  have hself : v.stack ss = _ := s.stack_setStack_self ss _
  have hmem := State.mem_of_memAndCmds (v.poison_memAndCmds ss (v.badOf ss pc))
  refine ⟨_, exec_retireCopyDone hss hcopy, ?_, ?_, fun q hq => ?_, hmem, State.poison_bad hbad, ?_⟩
  · rw [hstack, hself]
  · rw [hstack, hself]
  · exact (hstack q).trans ((s.stack_setStack ss q _).trans (if_neg hq.symm))
  · have hfresh := v.unpoisoned_badOf ss pc
    refine ⟨(State.poison_poisoned hbad).trans (congrArg (s.poisoned ++ ·) hfresh), (State.poison_counted hbad hss).trans ?_⟩
    rw [hfresh]
    rfl

/-- The clause of a phase that fails. -/
theorem phaseFailure_lowersItsRegion {rail : Nat} (hrail : rail < 28) : ∃ t, exec (.phaseFailure rail) s = .next t ∧
    bitOf (t.odGet 0x4400 0) 3 = true ∧
    t.power.phases = AMap.set s.power.phases rail (AMap.getD s.power.phases rail 0 + 1) ∧
    (AMap.getD s.power.phases rail 0 < 2 → t.regions = s.regions) ∧
    (2 ≤ AMap.getD s.power.phases rail 0 → rail < 16 →
      (t.regionPower rail).railCeil ≤ (s.regionPower rail).railCeil ∧
      ((s.regionPower rail).railCeil ≤ (t.regionPower rail).railCeil ∨
        (800 ≤ (t.regionPower rail).railCeil ∧ (t.regionPower rail).railCeil < 2250)) ∧
      ∀ rr, rr ≠ rail → t.regionPower rr = s.regionPower rr) := by
  have hbit : bitOf ((s.phaseLost rail).odGet 0x4400 0) 3 = true := by
    rw [State.phaseLost, State.setBit, State.odGet_odSet_self]
    exact bitOf_or_pow _ 3
  obtain hfew | hmany : AMap.getD s.power.phases rail 0 < 2 ∨ 2 ≤ AMap.getD s.power.phases rail 0 := by omega
  · obtain ⟨t, hexec, hnotes⟩ := exec_phaseFailure_spared hrail hfew
    refine ⟨t, hexec, ?_, congrArg Power.phases hnotes.power_eq, fun _ => hnotes.regions_eq, fun h => by omega⟩
    rw [hnotes.odGet 0x4400 0 (by decide) (by decide)]
    exact hbit
  · obtain ⟨t, u, hexec, hnotes, hlowered⟩ := exec_phaseFailure_lowers hrail hmany
    refine ⟨u, hexec, ?_, ?_, fun h => by omega, fun _ hcore => ?_⟩
    · rw [hlowered.odGet 0x4400 0 (by decide) (by decide), State.lowerRail_odGet, hnotes.odGet 0x4400 0 (by decide) (by decide)]
      exact hbit
    · exact congrArg Power.phases (hlowered.power_eq.trans ((t.lowerRail_power rail).trans hnotes.power_eq))
    · have hregion (rr : Nat) : t.regionPower rr = s.regionPower rr := hnotes.regionPower_eq rr
      have hlow (rr : Nat) := (hlowered.regionPower_eq rr).trans (State.regionPower_lowerRail hcore rr)
      have hceil : (u.regionPower rail).railCeil = min (s.regionPower rail).railCeil (800 + Config.freePick t.freeCtr 1450 % 1450) := by
        rw [hlow, if_pos rfl, hregion]
      have hpick : Config.freePick t.freeCtr 1450 % 1450 < 1450 := Nat.mod_lt _ (by decide)
      refine ⟨by omega, by omega, fun rr hne => ?_⟩
      rw [hlow, if_neg hne.symm, hregion]

/-- Settles O55: a repair by `State.retires_repaired` and `State.copies_repaired`, the end of a copy by the laws of `State.poison`, modules and
phases by what `State.Notes` leaves alone. -/
theorem failingMemoryAndRailsAreRetired : Obligations.FailingMemoryAndRailsAreRetired := by
  refine fun s => ⟨fun bad good verify hwf => mirrorRepair_rewritesItsSector verify hwf,
    fun ss hss => ⟨exec_retireCopyDone_idle hss, fun pc => retireCopyDone_poisonsTheRest hss⟩,
    fun ss pc hss hpc => ⟨exec_hbmRetrain_pass hss hpc, fun hcopy hres hpc => ?_⟩,
    fun pair m hpair hm => ⟨exec_d2dModuleDisable_again hpair hm, fun hm' => ?_⟩, fun rail => phaseFailure_lowersItsRegion⟩
  · have hcopies := State.copies_retireChannel hcopy hres hss pc
    exact ⟨_, exec_hbmRetrain_fail hss hres hpc, hcopies.copying, hcopies.retired, hcopies.counted,
      State.mem_of_memAndCmds (s.retireChannel_memAndCmds ss pc)⟩
  · obtain ⟨t, hexec, hnotes⟩ := exec_d2dModuleDisable hpair hm hm'
    have hd2d (k : Nat) := congrArg (fun m : AMap D2d => AMap.getD m k {}) hnotes.d2d_eq
    exact ⟨t, hexec, fun i hi => (hd2d _).trans (s.getD_disableBoth pair m hi), hnotes.mem_eq⟩

end

end Sys2Proof.Machine
end
